-- ==== Sys2Proof/Word.lean ====
section
/-! DEFINITION. The word types of Breutia N7: plain bit vectors of the widths the manual names (00 R3, 01 R14). -/

namespace Sys2Proof

/-- A byte of memory (00 R3). -/
abbrev Byte := BitVec 8
/-- A 64-bit register or token. -/
abbrev W64 := BitVec 64
/-- The 8,192 data bits of a vector register (01 R14). -/
abbrev VData := BitVec 8192
/-- The 2,048 bits of a predicate register (01 R12, R14). -/
abbrev PData := BitVec 2048
/-- A 12-byte instruction word (03 R81). -/
abbrev IWord := BitVec 96

end Sys2Proof
end

