-- ==== Sys2Proof/Syntax.lean ====
section
/-! DEFINITION. The instruction set as syntax: one constructor of `Instr` for each row of spec/opcode_table.json. The first
180 are instruction words of a hart (chapters 04 to 07); the other 81 are the steps of the agents around the harts, each with
the data that names where it happens and what the outside supplies. -/

namespace Sys2Proof

abbrev XReg := BitVec 5
abbrev VReg := BitVec 6
/-- A predicate index; 96 to 127 are reserved as operands (03 R83) and read p0 as a guard (03 R88). -/
abbrev PReg := BitVec 7
abbrev KReg := BitVec 4
abbrev GReg := BitVec 4
abbrev MReg := BitVec 2
abbrev WReg := BitVec 3
abbrev CReg := BitVec 12
/-- The 17 value bits of a class-100 operand (03 R83). -/
abbrev Imm := BitVec 17

/-- The format codes of 01 R20. -/
inductive Fmt where
  | raw | i8 | i16 | i32 | i64 | i4 | e2m1 | e4m3 | e5m2 | f16 | bf16 | f32 | f64 | mx4 | mx8a | mx8b | q4 | q8
  deriving DecidableEq, Repr

/-- The control fields every word carries beside its operands (03 R81). -/
structure Ctl where
  mod : BitVec 6
  ginv : Bool
  gpred : BitVec 7
  yld : Bool
  la : Bool
  lb : Bool
  prio : BitVec 2
  rsv : BitVec 3
  deriving DecidableEq, Repr

/-- An x register, or an immediate of which only the low n value bits may be nonzero (03 R83, R84). -/
inductive XU (n : Nat) where
  | x (r : XReg)
  | i (v : BitVec n)
  deriving DecidableEq, Repr

/-- Class 000 or class 100 (03 R83). -/
abbrev XI := XU 17

/-- A vector source or a scalar in its place (05 R145). -/
inductive VXI where
  | v (r : VReg)
  | x (r : XReg)
  | i (v : Imm)
  deriving DecidableEq, Repr

/-- A class-111 operand: base x register and signed offset (03 R83). -/
structure MemOp where
  base : XReg
  off : BitVec 12
  deriving DecidableEq, Repr

/-- A class-110 operand: stream slot and LAST (03 R83). -/
structure Stream where
  slot : BitVec 4
  last : Bool
  deriving DecidableEq, Repr

/-- A tag operand: format, block length and scale register (05 R151). -/
structure TagOp where
  fmt : Fmt
  grp : BitVec 2
  scl : BitVec 4
  deriving DecidableEq, Repr

/-- The conditions of SETC and B.cond (04 R116). -/
inductive Cond where
  | eq | ne | lt | ge | ltu | geu | gt | le | gtu | leu
  deriving DecidableEq, Repr

/-- The conditions of VCMP (05 R158): those of `Cond`, and unordered. -/
inductive VCond where
  | base (c : Cond)
  | uo
  deriving DecidableEq, Repr

/-- The operations of VRED and VSCAN (05 R172). -/
inductive RedOp where
  | sum | min | max | and | or | xor
  deriving DecidableEq, Repr

/-- Scopes (07 R209, R227). -/
inductive Scope where
  | sys | dev | tile
  deriving DecidableEq, Repr

/-- What steps 4 to 7 of 03 R95 need of a word that step 8 refuses: its control fields, its vector fields, whether its tag names a scale
register, the MOD bits its entry defines, and whether field A is of class 001. -/
structure LateIll where
  ctl : Ctl
  vs : List VReg
  scale : Bool
  mods : BitVec 6
  aV : Bool
  deriving DecidableEq, Repr

/-- The step and field at which decoding stopped (16 R360, cause ILL). A word that would write a tag that 01 R21 forbids stops at step 8,
after the steps before it (16 R362). -/
structure IllAt where
  step : BitVec 4
  field : BitVec 2
  late : Option LateIll := none
  deriving DecidableEq, Repr

/-- An Oanen Link flit as a receiver takes it from the wire (10 R293). -/
structure LinkFlit where
  hdr : BitVec 64
  payload : List Byte
  tag : BitVec 128
  deriving DecidableEq, Repr

/-- What the ends of a link agree in its key agreement: the shared secret, and the peer's signature (10 R295, 19 R429). -/
structure Agreement where
  secret : List Byte
  sig : List Byte
  deriving DecidableEq, Repr

/-- One part of a re-binding that Wilnil makes at a switch (09 R264). -/
inductive Rebind where
  /-- the processes, platforms and store of a tile move to another tile -/
  | tile (src dst : Nat)
  /-- a station pair moves to another home station -/
  | pair (n home : Nat)
  | divider (tile : Nat) (d : BitVec 2)
  | budget (hart n : Nat)
  /-- a process's context moves to another hart, with runs of its tile's store: first offset and length of each -/
  | proc (src dst : Nat) (runs : List (Nat × Nat))
  /-- a platform moves to another place of its reader's store -/
  | plat (chan idx base : Nat)
  deriving DecidableEq, Repr

/-- What a soft error hits (19 R430). -/
inductive ErrUnit where
  /-- an 8-byte word of a tile store, or a 64-byte line of HBM or the second tier, by the address of its first byte -/
  | mem (addr : Nat)
  /-- an element group's word of a vector register -/
  | vreg (hart : Nat) (v : VReg)
  /-- a cell's row of an accumulator -/
  | acc (tile : Nat) (m : MReg) (row : Nat)
  /-- a word of an x, p or g register of a hart -/
  | xreg (hart : Nat) (r : XReg)
  | preg (hart : Nat) (p : PReg)
  | greg (hart : Nat) (g : GReg)
  /-- a word of a journal entry or of its data, or of the k-th member that a yard holds -/
  | journal (hart idx : Nat)
  | yard (ep k : Nat)
  /-- other storage of a hart -/
  | scalar (hart : Nat)
  /-- token i that stands on a platform -/
  | token (part chan plat i : Nat)
  deriving DecidableEq, Repr

inductive Instr where
  -- 04: integer arithmetic and logic (R109, R113)
  | add (c : Ctl) (d a : XReg) (b : XI)
  | sub (c : Ctl) (d a : XReg) (b : XI)
  | mul (c : Ctl) (d a : XReg) (b : XI)
  | mulh (c : Ctl) (d a : XReg) (b : XI)
  | div (c : Ctl) (d a : XReg) (b : XI)
  | rem (c : Ctl) (d a : XReg) (b : XI)
  | and (c : Ctl) (d a : XReg) (b : XI)
  | or (c : Ctl) (d a : XReg) (b : XI)
  | xor (c : Ctl) (d a : XReg) (b : XI)
  | andn (c : Ctl) (d a : XReg) (b : XI)
  | orn (c : Ctl) (d a : XReg) (b : XI)
  | shl (c : Ctl) (d a : XReg) (b : XI)
  | shr (c : Ctl) (d a : XReg) (b : XI)
  | sha (c : Ctl) (d a : XReg) (b : XI)
  | rot (c : Ctl) (d a : XReg) (b : XI)
  | min (c : Ctl) (d a : XReg) (b : XI)
  | max (c : Ctl) (d a : XReg) (b : XI)
  | abs (c : Ctl) (d a : XReg)
  | neg (c : Ctl) (d a : XReg)
  | clz (c : Ctl) (d a : XReg)
  | ctz (c : Ctl) (d a : XReg)
  | popc (c : Ctl) (d a : XReg)
  | brev (c : Ctl) (d a : XReg)
  | bswap (c : Ctl) (d a : XReg)
  -- 04: bit fields, comparison, selection, constants, addresses (R114 to R121)
  | ext (c : Ctl) (d a : XReg) (b : XU 12)
  | ins (c : Ctl) (d a : XReg) (b : XU 12)
  | sext (c : Ctl) (d a : XReg) (b : XU 6)
  | zext (c : Ctl) (d a : XReg) (b : XU 6)
  | setc (c : Ctl) (k : Cond) (d a : XReg) (b : XI)
  | sel (c : Ctl) (d a : XReg) (b : XI)
  | li (c : Ctl) (d : XReg) (v : BitVec 40)
  | lih (c : Ctl) (d : XReg) (v : BitVec 24)
  | lea (c : Ctl) (d : XReg) (a : MemOp) (b : XReg)
  | addpc (c : Ctl) (d : XReg) (a : Imm)
  -- 04: control transfer, strip length, issue control (R122 to R128)
  | bCond (c : Ctl) (k : Cond) (d : XReg) (a : XI) (b : Imm)
  | bz (c : Ctl) (d : XReg) (a : Imm)
  | bnz (c : Ctl) (d : XReg) (a : Imm)
  | j (c : Ctl) (d : Imm)
  | jal (c : Ctl) (d : XReg) (a : Imm)
  | jr (c : Ctl) (d a : XReg) (b : XI)
  | loop (c : Ctl) (d : XReg) (a : Imm)
  | setvl (c : Ctl) (d a : XReg) (b : Fmt)
  | setvli (c : Ctl) (d : XReg) (a : BitVec 16) (b : Fmt)
  /-- `i` carries log2 of the immediate 1, 2, 4 or 8. -/
  | setrc (c : Ctl) (d : XReg) (a : XU 2)
  | nop (c : Ctl)
  | yield (c : Ctl)
  | pause (c : Ctl) (d : BitVec 16)
  -- 04: traps, control registers, system (R129 to R141)
  | trap (c : Ctl) (d : Imm)
  | brk (c : Ctl) (d : Imm)
  | tret (c : Ctl)
  | crd (c : Ctl) (d : XReg) (a : CReg)
  | cwr (c : Ctl) (d : CReg) (a : XI)
  | cset (c : Ctl) (d : CReg) (a : XI)
  | cclr (c : Ctl) (d : CReg) (a : XI)
  | isync (c : Ctl)
  | gate (c : Ctl) (d : BitVec 8)
  | gret (c : Ctl)
  | halt (c : Ctl)
  | step (c : Ctl)
  | timewait (c : Ctl) (d : XReg) (a : XI)
  -- 05: arithmetic (R152)
  | vadd (c : Ctl) (d a : VReg) (b : VXI)
  | vsub (c : Ctl) (d a : VReg) (b : VXI)
  | vmul (c : Ctl) (d a : VReg) (b : VXI)
  | vmad (c : Ctl) (d a : VReg) (b : VXI)
  | vmsb (c : Ctl) (d a : VReg) (b : VXI)
  | vnmad (c : Ctl) (d a : VReg) (b : VXI)
  | vdiv (c : Ctl) (d a : VReg) (b : VXI)
  | vsqrt (c : Ctl) (d a : VReg)
  | vrcp (c : Ctl) (d a : VReg)
  | vrsq (c : Ctl) (d a : VReg)
  | vexp2 (c : Ctl) (d a : VReg)
  | vlog2 (c : Ctl) (d a : VReg)
  | vmin (c : Ctl) (d a : VReg) (b : VXI)
  | vmax (c : Ctl) (d a : VReg) (b : VXI)
  | vabs (c : Ctl) (d a : VReg)
  | vneg (c : Ctl) (d a : VReg)
  | vand (c : Ctl) (d a : VReg) (b : VXI)
  | vor (c : Ctl) (d a : VReg) (b : VXI)
  | vxor (c : Ctl) (d a : VReg) (b : VXI)
  | vnot (c : Ctl) (d a : VReg)
  | vshl (c : Ctl) (d a : VReg) (b : VXI)
  | vshr (c : Ctl) (d a : VReg) (b : VXI)
  | vsha (c : Ctl) (d a : VReg) (b : VXI)
  -- 05: comparison, conversion, placement (R158 to R169)
  | vcmp (c : Ctl) (k : VCond) (d : PReg) (a : VReg) (b : VXI)
  | vsel (c : Ctl) (d a : VReg) (b : VXI)
  | vclass (c : Ctl) (d : PReg) (a : VReg) (b : BitVec 10)
  | vcvt (c : Ctl) (d a : VReg) (b : Fmt)
  | vqnt (c : Ctl) (d a : VReg) (b : TagOp)
  | vdqnt (c : Ctl) (d a : VReg) (b : Fmt)
  | vsmax (c : Ctl) (d : GReg) (a : VReg) (b : TagOp)
  | vtag (c : Ctl) (d a : VReg) (b : TagOp)
  | vsplat (c : Ctl) (d : VReg) (a : XI) (b : Fmt)
  | vmovV (c : Ctl) (d a : VReg)
  | vmovGFromV (c : Ctl) (d : GReg) (a : VReg)
  | vmovVFromG (c : Ctl) (d : VReg) (a : GReg)
  | viota (c : Ctl) (d : VReg) (a : XI) (b : Fmt)
  | vext (c : Ctl) (d : XReg) (a : VReg) (b : XI)
  | vins (c : Ctl) (d : VReg) (a : XReg) (b : XI)
  -- 05: reductions, dot products, selection (R172 to R176)
  | vred (c : Ctl) (k : RedOp) (d a : VReg)
  | vscan (c : Ctl) (k : RedOp) (d a : VReg)
  | vdot (c : Ctl) (d a b : VReg)
  | vtopk (c : Ctl) (d a : VReg) (b : XU 12)
  | vsort (c : Ctl) (d a : VReg) (b : XReg)
  -- 05: predicates (R177, R178)
  | pand (c : Ctl) (d a b : PReg)
  | por (c : Ctl) (d a b : PReg)
  | pxor (c : Ctl) (d a b : PReg)
  | pandn (c : Ctl) (d a b : PReg)
  | pnot (c : Ctl) (d a : PReg)
  | pmov (c : Ctl) (d a : PReg)
  | pcnt (c : Ctl) (d : XReg) (a : PReg)
  | pfirst (c : Ctl) (d : XReg) (a : PReg)
  | plast (c : Ctl) (d : XReg) (a : PReg)
  | psetn (c : Ctl) (d : PReg) (a : XI)
  | pclr (c : Ctl) (d : PReg)
  | pld (c : Ctl) (d : PReg) (a : MemOp)
  | pst (c : Ctl) (d : MemOp) (a : PReg)
  -- 05: cross-lane movement (R170, R171)
  | vslide (c : Ctl) (d a : VReg) (b : XI)
  | vperm (c : Ctl) (d a b : VReg)
  | vshfl (c : Ctl) (d a : VReg) (b : XI)
  | vbcast (c : Ctl) (d a : VReg) (b : XI)
  | vcomp (c : Ctl) (d a : VReg)
  | vexpd (c : Ctl) (d a : VReg)
  -- 06: matrix instructions (R181)
  | tshape (c : Ctl) (d a : XReg) (b : Fmt)
  | macq (c : Ctl) (d : MReg)
  | mrel (c : Ctl) (d : MReg)
  | mzero (c : Ctl) (d : MReg)
  | mma (c : Ctl) (d : MReg) (a b : VReg)
  | mrank (c : Ctl) (d : MReg) (a b : VReg)
  | mwait (c : Ctl) (d : MReg)
  | mrd (c : Ctl) (d : VReg) (a : MReg) (b : XU 4)
  | mwr (c : Ctl) (d : MReg) (a : VReg) (b : XU 4)
  | mcvt (c : Ctl) (d : VReg) (a : MReg) (b : XI)
  | mstat (c : Ctl) (d : XReg) (a : MReg)
  -- 07: scalar and vector memory (R209, R212)
  | ld (c : Ctl) (d : XReg) (a : MemOp)
  | st (c : Ctl) (d : MemOp) (a : XI) (b : Option Stream)
  | lda (c : Ctl) (d : XReg) (a : MemOp)
  | stl (c : Ctl) (d : MemOp) (a : XI)
  | rld (c : Ctl) (d : XReg) (a : MemOp)
  | rst (c : Ctl) (d : MemOp) (a : XI) (b : Option Stream)
  | vld (c : Ctl) (d : VReg) (a : MemOp) (b : TagOp)
  | vst (c : Ctl) (d : MemOp) (a : VReg) (b : Option Stream)
  | vlds (c : Ctl) (d : VReg) (a : MemOp) (b : XI)
  | vsts (c : Ctl) (d : MemOp) (a : VReg) (b : XI)
  | vgath (c : Ctl) (d : VReg) (a : MemOp) (b : VReg)
  | vscat (c : Ctl) (d : MemOp) (a b : VReg)
  | rvst (c : Ctl) (d : MemOp) (a : VReg) (b : Option Stream)
  | vresume (c : Ctl) (d : VReg)
  | piwait (c : Ctl) (d : VReg)
  -- 07: streams, fences, journal (R222, R223, R227)
  | stopen (c : Ctl) (d : BitVec 4) (a : XReg) (b : XU 8)
  | stclose (c : Ctl) (d : BitVec 4)
  | sfence (c : Ctl) (d : Stream)
  | fenceRel (c : Ctl) (k : Scope)
  | fenceAcq (c : Ctl) (k : Scope)
  | fenceAr (c : Ctl) (k : Scope)
  | jrd (c : Ctl) (d : XReg) (a : XU 7) (b : BitVec 2)
  | jrepost (c : Ctl) (d : XU 7)
  | jdrop (c : Ctl) (d : XU 7)
  -- 07: atomics and exact cells (R228)
  | amoadd (c : Ctl) (d : XReg) (a : MemOp) (b : XI)
  | amoand (c : Ctl) (d : XReg) (a : MemOp) (b : XI)
  | amoor (c : Ctl) (d : XReg) (a : MemOp) (b : XI)
  | amoxor (c : Ctl) (d : XReg) (a : MemOp) (b : XI)
  | amomin (c : Ctl) (d : XReg) (a : MemOp) (b : XI)
  | amomax (c : Ctl) (d : XReg) (a : MemOp) (b : XI)
  | amoswp (c : Ctl) (d : XReg) (a : MemOp) (b : XI)
  | cas (c : Ctl) (d : XReg) (a : MemOp) (b : XI)
  | cas128 (c : Ctl) (d : XReg) (a : MemOp) (b : XReg)
  | faddx (c : Ctl) (d : MemOp) (a : XReg)
  | fcell (c : Ctl) (d : XReg) (a : MemOp)
  | fclr (c : Ctl) (d : MemOp)
  -- 07: channels, copies, barriers (R231, R235, R240)
  | send (c : Ctl) (d : KReg) (a : XI)
  | recv (c : Ctl) (d : XReg) (a : KReg) (b : Option PReg)
  | vsend (c : Ctl) (d : KReg) (a : VReg)
  | vrecv (c : Ctl) (d : VReg) (a : KReg) (b : Option PReg)
  | cend (c : Ctl) (d : KReg)
  | cpgo (c : Ctl) (d : XReg) (a : WReg)
  | cpstat (c : Ctl) (d : XReg) (a : XU 16)
  | wait (c : Ctl) (d : XU 8)
  | binit (c : Ctl) (d : MemOp) (a : XU 16)
  | bara (c : Ctl) (d : MemOp) (a : XU 16)
  | bwait (c : Ctl) (d : XReg) (a : MemOp)
  -- events: journal, streams, replies. `p` names a packet that has been ejected at its endpoint.
  | refuseTrap (hart : Nat)
  | entryRefused (p : Nat)
  | journalAck (p : Nat)
  | postedWriteArrival (p : Nat)
  | streamMemberCommit (ep : Nat) (sender num : Nat)
  | streamSkip (p : Nat)
  | remoteReadPerformed (p : Nat)
  | loadReply (p : Nat)
  | loadGroupLands (hart : Nat) (v : VReg) (g : Nat)
  | atomicPerformed (p : Nat)
  | atomicReply (p : Nat)
  | baraPerformed (p : Nat)
  | faddxPerformed (p : Nat)
  | tokenArrival (p : Nat)
  | slotReturn (p : Nat)
  | growthGrant (p : Nat)
  | stationPairRequest (part pair : Nat)
  -- events: copy engine, matrix array, sequencer, timers
  | copyTransferStart (tile : Nat)
  | copyPiece (tile : Nat)
  | copyTransferComplete (tile : Nat)
  | matrixUnitStart (tile : Nat)
  | matrixOpComplete (tile : Nat)
  | vectorSequencerPick (tile : Nat)
  | sequencerPeriodEnd (tile : Nat)
  /-- `ep` is an endpoint id: the junction of a tile, or a station. -/
  | budgetPeriodEnd (ep : Nat)
  | pauseExpiry (hart : Nat)
  | timewaitExpiry (hart : Nat)
  | outputPortGrant (tile : Nat) (port : Nat)
  -- events: partitions
  | signalBoxSweep (part : Nat)
  | supervisorReportTrap (part : Nat)
  | watchdogExpiry (part : Nat)
  | gangSwitchStop (part : Nat)
  | switchStopped (part : Nat)
  | swctlSave (part : Nat)
  | swctlLoad (part : Nat)
  | swctlGo (part : Nat)
  | hartsReleased (part : Nat)
  | checkpointDue (part : Nat)
  | checkpointManifest (part : Nat)
  | ckreqGo (part : Nat)
  -- events: translation
  | translationFill (station : Nat) (walk : Nat)
  | speculativeWalk (station : Nat) (asid : BitVec 16) (va : BitVec 43)
  | fatalContextHold (hart : Nat)
  | xlinvWrite (v : W64)
  | stationShootdown (station : Nat)
  | shootdownAck (station : Nat)
  | specdropRead (station : Nat)
  -- events: bridge registers
  | rtbankWrite (v : W64)
  /-- `junction` true: the bank of junction `n` (a tile); false: of link station `n` (0 to 7). -/
  | routingEntryWrite (junction : Bool) (n : Nat) (bank : Bool) (e : Nat) (v : Byte)
  | tschedWrite (tile : Nat) (v : W64)
  | jarbWrite (tile : Nat) (v : W64)
  | jinjWrite (tile : Nat) (v : W64)
  | gframeWrite (hart : Nat) (v : W64)
  | xlbaseWrite (v : W64)
  | govctlWrite (v : W64)
  | hdmaWrite (n : Nat) (b : Bool) (v : W64)
  /-- `off` counts from the first byte of the bridge range (19 R423). -/
  | bridgeRegisterWrite (off : Nat) (v : W64)
  -- events: fetch, launch, links, bring-up
  | illegalWord (why : IllAt)
  | instructionFetchTrap
  | launch
  | loadCancel (part : Nat)
  | linkFlitSend (l : Nat)
  | moduleReset
  | powerLoss
  -- events that the outside supplies: host port
  | hctokWrite (n : Nat) (v : W64)
  | hctokRead (n : Nat)
  | hcendWrite (n : Nat) (v : W64)
  | hcendRead (n : Nat)
  | hcstatWrite (n : Nat) (v : W64)
  /-- `data` is none for a read of `len` bytes. -/
  | hostBar2Access (off : Nat) (len : Nat) (data : Option (List Byte))
  -- events: Oanen Link
  | linkFlitReceive (l : Nat) (f : LinkFlit)
  | linkNakReceive (l : Nat) (f : LinkFlit)
  | linkRetrain (l : Nat) (k : Agreement)
  | keyAgreementComplete (l : Nat) (k : Agreement)
  /-- `offset` is the parent's TIME less this module's, computed from the four stamps; `isParent` says the port leads to the
  followed neighbour; `root` that this module is the time root. -/
  | timestampExchange (l : Nat) (offset : Int) (isParent root : Bool)
  -- events: power, errors, management
  | governorTick (pnow : BitVec 16) (temp : BitVec 8)
  | thermalShutdown (temp : BitVec 8)
  | softError (u : ErrUnit) (correctable : Bool)
  | pldmMonitorRequest (sensor : Nat)
  | pldmFirmwareUpdate (image : List Byte)
  | spdmRequest (nonce : List Byte)
  deriving DecidableEq, Repr

end Sys2Proof
end

