-- ==== Sys2Proof/Config.lean ====
section
/-! DEFINITION. What the manual leaves open, as constants with no body: free values, the passing of time, and the
cryptographic primitives that the manual names and does not define. Nothing can be proved about any one value of them. -/

namespace Sys2Proof.Config

/-- An unpredictable vector register (06 R198, 07 R237): the value at tick n, for row or use i. Log 4. -/
opaque freeV : Nat → Nat → VData
/-- Unpredictable status flags (06 R196). Log 4. -/
opaque freeFlags : Nat → BitVec 5
/-- An unpredictable byte (07 R236, R237): tick and position. Log 4. -/
opaque freeByte : Nat → Nat → Byte
/-- A choice the manual leaves free among finitely many (03 R93, order of agents): tick, and which choice. Log 3, log 10. -/
opaque freeChoice : Nat → Nat → Nat
/-- The turn of step n, where the state names none: an event's, with all that the outside supplies to it, or else a hart's. Log 3. -/
opaque turnEvent : Nat → Option Instr
opaque turnHart : Nat → Nat
/-- An element read of an asynchronous load that takes the turn of step n instead: hart, row, element (14 R331). Log 3, log 20. -/
opaque turnElement : Nat → Option (Nat × Nat × Nat)
/-- Main-clock cycles that pass before step n (19 R427: no fixed ratio to TIME). Log 9. -/
opaque mainCycles : Nat → Nat
/-- Nanoseconds of TIME that pass before step n. Log 9. -/
opaque nanoseconds : Nat → Nat

/-- ML-DSA-44 signature of a digest under the device identity key (16 R378, 19 R429), 2,420 bytes. Log 8. -/
opaque mldsaSign : BitVec 256 → List Byte
/-- ML-DSA-44 verification of a firmware image against the fused key (19 R429). Log 8. -/
opaque mldsaVerify : List Byte → Bool
/-- ML-DSA-44 verification of a manifest digest and signature under the device identity key (16 R379). Log 8. -/
opaque mldsaCheck : BitVec 256 → List Byte → Bool
/-- ML-DSA-44 verification of a digest and signature under the identity key of module n (10 R295, 19 R429). Log 8. -/
opaque peerCheck : Nat → BitVec 256 → List Byte → Bool
/-- The security version number a firmware image carries (19 R429: its place in the image is not given). Log 8. -/
opaque firmwareSvn : List Byte → Nat
/-- Whether a firmware or Wilnil image passes the self-tests and training of stages 2 to 6 (19 R431). Log 16. -/
opaque bringUpPasses : Nat → Bool

/-- The capacity in bytes of the CXL memory attached to port 1 (19 R422). Log 4. -/
opaque cxlBytes : Nat

/-- Wilnil's network handler, at offset 0xE80 of every tile of a partition (17 "Set-up", 16 R366; its bytes are no part of the manual).
Log 30. -/
opaque networkHandler : List Byte
/-- Where Wilnil begins to look for the n-th free block of HBM that it takes for a table, a page or a spill region (17 R383; 09 R271). Log 30. -/
opaque freeFrame : Nat → Nat
/-- Where a partition's supervisor hart starts in it. Log 30. -/
opaque supervisorEntry : BitVec 21
/-- Bytes of a hart's save area (16 "Service"). Log 30. -/
opaque saveBytes : Nat
/-- Where Wilnil begins to look for the arena and for the mailbox of a partition's n-th process instance, and the arena's length in bytes
(17 R382). Log 30. -/
opaque arenaFrom : Nat → Nat → Nat
opaque mailboxFrom : Nat → Nat → Nat
opaque arenaBytes : Nat → Nat → Nat
/-- The GiB of virtual addresses at which Wilnil begins to look for a partition's spill region (09 R271). Log 30. -/
opaque spillPage : Nat → Nat
/-- TSCHED and JINJ of tile t, and SBUDGET of partition p at station n, as Wilnil writes them before a release (12 R307). Log 30. -/
opaque tsched : Nat → W64
opaque jinj : Nat → W64
opaque sbudget : Nat → Nat → W64
/-- Whether step n is bring-up's, which goes on to its next stage (19 R431). Log 16. -/
opaque turnStage : Nat → Bool
/-- An access of the host to BAR0, or of management to the bridge, that takes the turn of step n instead: whether the host's, its offset and
length, and the value of a write (19 R418, R424). Log 3. -/
opaque turnAccess : Nat → Option (Bool × Nat × Nat × Option W64)
/-- XLBASE as firmware writes it (19 R431). Log 16. -/
opaque xlbase : BitVec 29
/-- The Wilnil image as firmware loads it: bytes at physical addresses of HBM and in tile 0's store, and where hart 0 starts (19 R431).
Log 16. -/
opaque wilnilImage : List Byte
opaque wilnilAt : Nat
opaque wilnilEntry : BitVec 21
opaque wilnilBound : BitVec 21
opaque wilnilHandler : BitVec 21
/-- SHA3-256 of the boot ROM (19 R429). Log 8. -/
opaque romDigest : BitVec 256

/-- The sizes of the system's Z and W tori, less one, as Wilnil's configuration gives them (10 R299, R300). Log 33. -/
opaque sizeZ : Nat
opaque sizeW : Nat
/-- What Wilnil re-binds when it writes GO at tick n (09 R264). Log 39. -/
opaque rebinds : Nat → List Rebind

end Sys2Proof.Config
end

