-- ==== Sys2Proof/Machine/Crypto.lean ====
section
/-! DEFINITION. The published functions that the manual names: SHA3-256 (03 R105, 10 R295, 16 R378, 19 R429) and AES-256-GCM (10 R294).
Log 8. -/

namespace Sys2Proof.Machine

/-! ### SHA3-256 -/

/-! The permutation is on 25 lanes: lane (x, y) stands at x + 5 y. -/

/-- Lane i. -/
def lane (a : List W64) (i : Nat) : W64 := a.getD i 0

/-- The sum of column x, and what a lane of column x takes from its neighbours' columns. -/
def columnSum (a : List W64) (x : Nat) : W64 := (List.range 5).foldl (fun w y => w ^^^ lane a (x % 5 + 5 * y)) 0
def columnMix (a : List W64) : List W64 :=
  let sums := (List.range 5).map (columnSum a)
  (List.range 5).map fun x => lane sums ((x + 4) % 5) ^^^ (lane sums ((x + 1) % 5)).rotateLeft 1

/-- The walk over the lanes but (0, 0): from (x, y) to (y, 2 x + 3 y). Each lane comes with its rotation, the t-th triangular number; the lane it
leads to is where the rotated one goes. -/
def laneWalk : Nat → Nat → Nat → List (Nat × Nat × Nat)
  | 0, _, _ => []
  | n + 1, t, i =>
    let next := i / 5 + 5 * ((2 * (i % 5) + 3 * (i / 5)) % 5)
    (i, next, (t * (t + 1) / 2) % 64) :: laneWalk n (t + 1) next

/-- Every lane is mixed, rotated, and put in its new place. -/
def scatterLanes (a : List W64) : List W64 :=
  let mix := columnMix a
  let put := (laneWalk 24 1 1).foldl (fun (b : List W64) w => b.set w.2.1 ((lane a w.1 ^^^ lane mix (w.1 % 5)).rotateLeft w.2.2))
  put ((List.range 25).map fun i => lane a i ^^^ lane mix i)

/-- The feedback register of the round constants after n steps, and the constant of round r: bit 2^j - 1 is the register's lowest bit after
7 r + j steps. -/
def roundRegister : Nat → Nat
  | 0 => 1
  | n + 1 =>
    let v := roundRegister n
    if 128 ≤ v then (2 * v) ^^^ 0x171 else 2 * v
def roundConstant (r : Nat) : W64 :=
  (List.range 7).foldl (fun w j => if roundRegister (7 * r + j) % 2 = 1 then w ||| BitVec.twoPow 64 (2 ^ j - 1) else w) 0

/-- One round: the lanes scattered, each row's lanes combined, and the round's constant in lane 0. -/
def keccakRound (a : List W64) (r : Nat) : List W64 :=
  let b := scatterLanes a
  (List.range 25).map fun i =>
    let along := fun k => lane b (i / 5 * 5 + (i % 5 + k) % 5)
    (along 0 ^^^ (along 2 &&& ~~~(along 1))) ^^^ (if i = 0 then roundConstant r else 0)

def keccak (a : List W64) : List W64 := (List.range 24).foldl keccakRound a

/-- A little-endian number of bytes. -/
def byteSum : List Byte → Nat
  | [] => 0
  | b :: r => b.toNat + 256 * byteSum r
def laneBytes (v : W64) : List Byte := (List.range 8).map fun i => v.extractLsb' (8 * i) 8

/-- Absorb blocks of 136 bytes. -/
def absorb : Nat → List W64 → List Byte → List W64
  | 0, a, _ => a
  | n + 1, a, bs =>
    let b := (List.range 25).map fun i => lane a i ^^^ BitVec.ofNat 64 (byteSum (((bs.take 136).drop (8 * i)).take 8))
    absorb n (keccak b) (bs.drop 136)

/-- The padding of SHA3: 01, then 10*1, to a multiple of 136 bytes. -/
def sha3Pad (n : Nat) : List Byte :=
  let k := 136 - n % 136
  if k = 1 then [0x86] else 0x06 :: (List.replicate (k - 2) 0 ++ [0x80])

/-- The SHA3-256 digest; its first byte is the lowest (00 R3). -/
def sha3 (m : List Byte) : BitVec 256 :=
  let p := m ++ sha3Pad m.length
  BitVec.ofNat 256 (byteSum (((absorb (p.length / 136) (List.replicate 25 0) p).take 4).flatMap laneBytes))

/-! ### AES-256 -/

/-- The product of two bytes in the field of AES. -/
def gfMul : Nat → Byte → Byte → Byte
  | 0, _, _ => 0
  | n + 1, a, b =>
    (if b.getLsbD 0 then a else 0) ^^^ gfMul n ((a <<< 1) ^^^ (if a.getLsbD 7 then 0x1B else 0)) (b >>> 1)
def gf (a b : Byte) : Byte := gfMul 8 a b

/-- The inverse, a^254; 0 for 0. -/
def gfInv (a : Byte) : Byte :=
  let a2 := gf a a
  let a3 := gf a2 a
  let a6 := gf a3 a3
  let a12 := gf a6 a6
  let a15 := gf a12 a3
  let a30 := gf a15 a15
  let a60 := gf a30 a30
  let a120 := gf a60 a60
  let a126 := gf a120 a6
  let a127 := gf a126 a
  gf a127 a127

def aesSub (a : Byte) : Byte :=
  let b := gfInv a
  b ^^^ b.rotateLeft 1 ^^^ b.rotateLeft 2 ^^^ b.rotateLeft 3 ^^^ b.rotateLeft 4 ^^^ 0x63

def xorBytes (a b : List Byte) : List Byte := a.zipWith (fun x y => x ^^^ y) b

/-- The key schedule: words of four bytes, newest first; word n is made from words n − 1 and n − 8. -/
def aesExpand : Nat → List (List Byte) → List (List Byte)
  | 0, ws => ws
  | k + 1, ws =>
    let n := ws.length
    let prev := ws.headD []
    let t := if n % 8 = 0 then
        match prev with
        | [a, b, c, d] => [aesSub b ^^^ (1 <<< (n / 8 - 1)), aesSub c, aesSub d, aesSub a]
        | _ => prev
      else if n % 8 = 4 then prev.map aesSub else prev
    aesExpand k (xorBytes (ws.getD 7 []) t :: ws)

/-- The fifteen round keys of a key of 32 bytes. -/
def aesKeys (key : List Byte) : List (List Byte) :=
  let ws := (aesExpand 52 ((List.range 8).map fun i => (key.drop (4 * (7 - i))).take 4)).reverse
  (List.range 15).map fun r => ((ws.drop (4 * r)).take 4).flatten

/-- SubBytes and ShiftRows. -/
def aesSubShift (s : List Byte) : List Byte :=
  (List.range 16).map fun i => aesSub (s.getD ((i + 4 * (i % 4)) % 16) 0)

def aesMix (s : List Byte) : List Byte :=
  (List.range 16).map fun i =>
    let b := fun k => s.getD (i / 4 * 4 + (i + k) % 4) 0
    gf 2 (b 0) ^^^ gf 3 (b 1) ^^^ b 2 ^^^ b 3

def aesRounds : List (List Byte) → List Byte → List Byte
  | [], s => s
  | [k], s => xorBytes (aesSubShift s) k
  | k :: ks, s => aesRounds ks (xorBytes (aesMix (aesSubShift s)) k)

/-- One block of 16 bytes under the round keys. -/
def aesBlock (ks : List (List Byte)) (b : List Byte) : List Byte := aesRounds (ks.drop 1) (xorBytes b (ks.headD []))

/-! ### Galois/Counter mode -/

/-- A block as a number whose bit 127 is the first bit. -/
def blockBits (b : List Byte) : BitVec 128 := BitVec.ofNat 128 (byteSum (b ++ List.replicate (16 - b.length) 0).reverse)
def bitsBlock (v : BitVec 128) : List Byte := (List.range 16).map fun i => v.extractLsb' (8 * (15 - i)) 8

/-- The product in the field of GHASH: z + x·v over the bits of x from the first. -/
def ghashMul (x : BitVec 128) : Nat → BitVec 128 → BitVec 128 → BitVec 128
  | 0, _, z => z
  | n + 1, v, z =>
    ghashMul x n ((v >>> 1) ^^^ (if v.getLsbD 0 then 0xE1000000000000000000000000000000 else 0)) (if x.getLsbD n then z ^^^ v else z)

/-- Blocks of 16 bytes, the last filled with zeros, folded into a hash under h. -/
def ghash (h : BitVec 128) : Nat → BitVec 128 → List Byte → BitVec 128
  | 0, y, _ => y
  | n + 1, y, bs => ghash h n (ghashMul (y ^^^ blockBits (bs.take 16)) 128 h 0) (bs.drop 16)
def blocksIn (bs : List Byte) : Nat := (bs.length + 15) / 16

/-- The counter block c of an IV of 12 bytes: the counter's four bytes stand highest first. -/
def gcmCounter (iv : List Byte) (c : Nat) : List Byte :=
  iv ++ (List.range 4).map fun i => BitVec.ofNat 8 (c / 256 ^ (3 - i))

/-- Counter mode from counter c on. -/
def gcmCtr (ks : List (List Byte)) (iv : List Byte) : Nat → Nat → List Byte → List Byte
  | 0, _, _ => []
  | n + 1, c, bs => xorBytes (bs.take 16) (aesBlock ks (gcmCounter iv c)) ++ gcmCtr ks iv n (c + 1) (bs.drop 16)

def keyBytes (key : BitVec 256) : List Byte := (List.range 32).map fun i => key.extractLsb' (8 * i) 8
def ivBytes (iv : BitVec 96) : List Byte := (List.range 12).map fun i => iv.extractLsb' (8 * i) 8

/-- The tag of additional data and ciphertext; its first byte is the lowest (00 R3). -/
def gcmTag (ks : List (List Byte)) (iv : List Byte) (aad ct : List Byte) : BitVec 128 :=
  let h := blockBits (aesBlock ks (List.replicate 16 0))
  let bits := fun (n : Nat) => (laneBytes (BitVec.ofNat 64 (8 * n))).reverse
  let y := ghash h 1 (ghash h (blocksIn ct) (ghash h (blocksIn aad) 0 aad) ct) (bits aad.length ++ bits ct.length)
  BitVec.ofNat 128 (byteSum (xorBytes (bitsBlock y) (aesBlock ks (gcmCounter iv 1))))

/-- AES-256-GCM encryption: key, IV, additional data, plaintext; ciphertext and tag (10 R294). -/
def gcmSeal (key : BitVec 256) (iv : BitVec 96) (aad clear : List Byte) : List Byte × BitVec 128 :=
  let ks := aesKeys (keyBytes key)
  let ct := gcmCtr ks (ivBytes iv) (blocksIn clear) 2 clear
  (ct, gcmTag ks (ivBytes iv) aad ct)

/-- AES-256-GCM decryption; none where the tag does not authenticate (10 R294, R297). -/
def gcmOpen (key : BitVec 256) (iv : BitVec 96) (aad ct : List Byte) (tag : BitVec 128) : Option (List Byte) :=
  let ks := aesKeys (keyBytes key)
  if gcmTag ks (ivBytes iv) aad ct = tag then some (gcmCtr ks (ivBytes iv) (blocksIn ct) 2 ct) else none

end Sys2Proof.Machine
end

