-- ==== Sys2Proof/Machine/SMap.lean ====
section
/-! DEFINITION. Sparse maps from natural numbers as lists sorted by key: the one shape in which State holds register files,
harts, tiles and memory. -/

namespace Sys2Proof.Machine

/-- A finite map by key; a key not listed reads as the default its reader names. -/
abbrev SMap (α : Type) := List (Nat × α)

/-- The value at k, or d. -/
def mget {α : Type} (d : α) : SMap α → Nat → α
  | [], _ => d
  | (k', v) :: r, k => if k' = k then v else mget d r k

/-- List v at k, in the place the order gives it. -/
def mput {α : Type} : SMap α → Nat → α → SMap α
  | [], k, v => [(k, v)]
  | (k', v') :: r, k, v =>
    if k < k' then (k, v) :: (k', v') :: r
    else if k' = k then (k, v) :: r
    else (k', v') :: mput r k v

/-- Unlist k. -/
def mdel {α : Type} : SMap α → Nat → SMap α
  | [], _ => []
  | (k', v') :: r, k => if k' = k then mdel r k else (k', v') :: mdel r k

/-- Set k to v where an unlisted key reads as d: the canonical form lists no d. -/
def mset {α : Type} [DecidableEq α] (d : α) (m : SMap α) (k : Nat) (v : α) : SMap α :=
  if v = d then mdel m k else mput m k v

/-- Strictly rising keys. -/
def mrising {α : Type} : SMap α → Bool
  | [] => true
  | (k, _) :: r => (match r with | [] => true | (k', _) :: _ => decide (k < k')) && mrising r

/-- The canonical form: strictly rising keys, and no entry equal to d. -/
def mwf {α : Type} [DecidableEq α] (d : α) (m : SMap α) : Bool :=
  mrising m && m.all (fun e => decide (e.2 ≠ d))

end Sys2Proof.Machine
end

