-- ==== Sys2Proof/Machine/State.lean ====
section
/-! DEFINITION. The state of one Breutia N7 module, as plain data: harts, tiles, partitions, stations, links, memory; the
reasons a step can stop; and the state after reset. Each field's docstring names the rule that gives it. -/

namespace Sys2Proof.Machine

/-- No step of this machine stops with a fault: every fault the manual describes is a trap, a held hart or a refused access,
and each of these is a next state. -/
inductive Fault where
  /-- Raised by no step; kept so that the type has a member. Safe. -/
  | machineCheck
  deriving DecidableEq, Repr

/-- Why a step has no meaning. -/
inductive Refusal where
  /-- Raised by exec's arm of an instruction that has no meaning yet. Safe: the model stops. -/
  | notModelled (mnemonic : String)
  deriving DecidableEq, Repr

/-- A hart's own STATE, the one it reports with TD = 0 (01 R32, 16 R359, R370). -/
inductive HState where
  | running | blockedRead | blockedWrite | waiting | parked
  deriving DecidableEq, Repr

inductive ChanMode where
  | normal | deal | merge
  deriving DecidableEq, Repr

/-- A port binding (01 R18): partition, channel, direction, mode and format, and which writer or worker of the channel. -/
structure PortBinding where
  part : Nat
  chan : Nat
  out : Bool
  mode : ChanMode
  fmt : Fmt
  idx : Nat
  deriving DecidableEq, Repr

inductive LoadKind where
  | unit | strided | gather
  deriving DecidableEq, Repr

/-- What a vector load asks for (07 R213, R214, R216; 16 R375): enough to issue it again. `ws` are the store-guard windows as they
stood at issue (01 R30, 18 R387), `prio` its PRIO hint (12 R320). -/
structure LoadDesc where
  d : VReg
  kind : LoadKind
  base : W64
  stride : W64
  offReg : VReg
  vl : Nat
  rc : Nat
  tag : BitVec 16
  guard : PData
  asid : BitVec 16
  pc : W64
  ws : List W64
  prio : BitVec 2
  deriving DecidableEq, Repr

/-- A load fault record (01 R28). Cause 0 is a load cancelled at a switch (16 R372). `detail` is TRAPINFO[7:0] (16 R361). `idxData` and
`idxTag` are the index row that the gather read, by which a broken must of 07 R216 is known; `again` and `spoilt` are those of the flight
that a fault or a switch stopped. -/
structure LoadRec where
  desc : LoadDesc
  cause : BitVec 8
  addr : W64
  detail : BitVec 8
  idxData : VData
  idxTag : BitVec 16
  again : Bool := false
  spoilt : Bool := false
  deriving DecidableEq, Repr

/-- A row of a load in flight: the groups that have landed, and the index row a gather read at issue (07 R214). `id` numbers the issue;
`again` marks one that VRESUME issued, and `spoilt` one whose offsets register it found changed (07 R216).
`early` are elements in window 00 that have been read before the rest of their group (14 R331; log 20). -/
structure Flight where
  desc : LoadDesc
  landed : BitVec 64
  idxData : VData
  idxTag : BitVec 16
  id : Nat
  again : Bool
  spoilt : Bool
  early : List (Nat × List Byte) := []
  deriving DecidableEq, Repr

/-- A vector register (01 R14, R19, R25, R27, R28). -/
structure VecReg where
  data : VData
  tag : BitVec 16
  pi : Nat
  lrec : Option LoadRec
  flight : Option Flight
  deriving DecidableEq, Repr

/-- 01 R24. -/
def VecReg.init : VecReg := { data := 0, tag := 0, pi := 64, lrec := none, flight := none }

/-- A copy failure record (07 R237): cause, address and transfer id; `stamp` orders transfers by age. -/
structure CopyFail where
  cause : BitVec 8
  addr : W64
  id : BitVec 16
  stamp : Nat := 0
  deriving DecidableEq, Repr

/-- A wait token (01 R17, 07 R237). -/
structure WaitTok where
  count : BitVec 16
  fail : Option CopyFail
  deriving DecidableEq, Repr

def WaitTok.init : WaitTok := { count := 0, fail := none }

/-- A journal entry that is not free (07 R219). STATE is 01 posted or 10 refused. `mask` has two bits a byte, one a nibble
(07 R215). `ws` are the hart's store-guard windows when it was posted (01 R30, 18 R387). `strm` and `dest` are the stream number and the pointer of its slot's binding; `gen` names that binding; `stamp`
orders entries by age; `rep` is the depth, 8 × GDEPTH + TD, of the REFUSE that has reported the entry (07 R221); `rel` marks a .rel form;
`bad` marks one whose words hold an uncorrectable error (19 R430). -/
structure JEntry where
  addr : W64
  seq : BitVec 20
  slot : BitVec 4
  last : Bool
  refused : Bool
  mark : Bool
  reason : BitVec 4
  kind : BitVec 3
  svc : Bool
  len : Nat
  pc : W64
  asid : BitVec 16
  data : List Byte
  mask : List (BitVec 2)
  strm : BitVec 8
  dest : W64
  gen : Nat
  stamp : Nat
  rep : Option Nat
  rel : Bool
  prio : BitVec 2
  ws : List W64
  bad : Bool := false
  deriving DecidableEq, Repr

/-- A stream slot (07 R224 to R226, 16 R375). -/
structure StreamSlot where
  isOpen : Bool
  closing : Bool
  num : BitVec 8
  seq : BitVec 20
  ptr : W64
  gen : Nat
  deriving DecidableEq, Repr

def StreamSlot.init : StreamSlot :=
  { isOpen := false, closing := false, num := 0, seq := 0, ptr := 0, gen := 0 }

/-- What a stalled scalar instruction waits for (07 R210, R229, R240, 05 R178). -/
inductive PendKind where
  | load (d : XReg) (n : Nat) (u : Bool) (acq : Bool)
  | pld (d : PReg)
  | atomic (d : XReg) (n : Nat) (u : Bool) (acq : Bool)
  | cas128 (d : XReg) (acq : Bool)
  | fcell (d : XReg) (acq : Bool)
  | binit
  | bwait (d : XReg)
  deriving DecidableEq, Repr

/-- A request of the hart awaiting its reply: its number, what to do with the reply, the WFLAG bits the instruction sets, its
YLD hint. -/
structure Pend where
  id : Nat
  kind : PendKind
  wflag : BitVec 13
  yld : Bool
  deriving DecidableEq, Repr

/-- The copy shadow set (01 R40). -/
structure CopySet where
  src : W64
  dst : W64
  len : W64
  stride : W64
  shape : W64
  bar : W64
  deriving DecidableEq, Repr

def CopySet.init : CopySet := { src := 0, dst := 0, len := 0, stride := 0, shape := 0, bar := 0 }

/-- A GFRAME register (18 R410), in bytes and 4 KiB units. -/
structure GFrame where
  size : BitVec 21
  used : BitVec 10
  base : BitVec 21
  deriving DecidableEq, Repr

/-- A gate call being unwound (04 R142): the callee's cause, and whether a refused entry has been dropped. -/
structure Unwind where
  cause : BitVec 8
  dropped : Bool
  deriving DecidableEq, Repr

/-- What a vector instruction read whole when it issued (05 R146; 01 R30): FCTL, predicates, scale registers, and the tags of its
destination rows, by which a row that is also a source goes on being read. -/
structure Issued where
  fctl : BitVec 2
  p : SMap PData
  g : SMap VData
  tags : List (BitVec 16)
  deriving DecidableEq, Repr

/-- A vector instruction that has issued and not completed: its address, its first destination register, the depth (8 × GDEPTH + TD) it
runs at, and the row and element group at which it goes on (16 R364). `mid` marks one that stalls in its middle; the others were
stopped by a trap or a switch. Log 6. -/
structure Resume where
  pc : W64
  dest : Nat
  depth : Nat
  mid : Bool
  row : Nat
  grp : Nat
  read : Issued
  deriving DecidableEq, Repr

/-- An open gate call, newest first: its frame's 4 KiB units, the age of the journal's next entry when GATE ran, the callee's
ASID, the caller's TRAPVEC as in effect, and the bindings of the caller's slots 1 to 4 (04 R139, R141; 18 R410; log 7). -/
structure GCall where
  units : Nat
  stamp : Nat
  casid : BitVec 16
  tvecF : BitVec 21
  gens : List Nat
  deriving DecidableEq, Repr

/-- One hart: chapter 01's registers and chapter 16's trap state. -/
structure Hart where
  pc : W64
  x : SMap W64
  v : SMap VecReg
  p : SMap PData
  k : SMap (Option PortBinding)
  g : SMap VData
  w : SMap WaitTok
  svc : Bool
  kahn : Bool
  own : HState
  port : BitVec 4
  trappc : W64
  trapcause : W64
  trapaddr : W64
  trapinfo : W64
  trapvec : BitVec 21
  xbnd : BitVec 21
  /-- TRAPVEC and XBND as in effect for fetch (01 R30). -/
  trapvecF : BitVec 21
  xbndF : BitVec 21
  fflags : BitVec 5
  fctl : BitVec 2
  wflag : BitVec 13
  vl : BitVec 12
  rcc : BitVec 2
  efmt : BitVec 5
  tm : BitVec 7
  tn : BitVec 7
  tk : BitVec 6
  asid : BitVec 16
  /-- GTBASE.BASE and GTBASE.NENT (01 R37). -/
  gtbase : BitVec 21
  gtnent : BitVec 8
  gdepth : BitVec 3
  stguard : SMap W64
  journal : SMap (Option JEntry)
  budget : Nat
  spent : Nat
  blkrd : W64
  blkwr : W64
  /-- Main cycle at which the current blocked state began, for BLKRD and BLKWR (01 R44). -/
  blkSince : Nat
  copy : CopySet
  nextXfer : BitVec 16
  rmrSvc : Bool
  rmrKahn : Bool
  td : BitVec 3
  unread : Bool
  readCause : Bool
  readAddr : Bool
  slots : SMap StreamSlot
  gframe : GFrame
  held : Bool
  stopped : Bool
  unwind : Option Unwind
  pend : Option Pend
  timeTarget : Option W64
  /-- CYCLE at which a PAUSE ends; while the hart is stopped, the cycles that remain (04 R128). -/
  pause : Option Nat
  waitAcc : Option MReg
  part : Option Nat
  yielded : Bool
  stalled : Bool
  resume : List Resume
  gcalls : List GCall
  /-- A fatal context error has reached the hart: the address it carries (18 R399). -/
  fatal : Option W64
  /-- Poisoned x, p and g registers (19 R430; log 26): x r at r, p n at 32 + n, g n at 128 + n. -/
  bad : List Nat
  /-- Accesses performed since the hart's last ISYNC or trap return begin here in `State.stlog` (03 R93). -/
  syncAt : Nat
  deriving DecidableEq, Repr

/-- A hart after reset (01 R14, R29, R32, R34, R35, R39; 16 "Reset sets all three to zero"): parked, as every hart is. -/
def Hart.init : Hart where
  pc := 0
  x := []
  v := []
  p := []
  k := []
  g := []
  w := []
  svc := false
  kahn := false
  own := .parked
  port := 0
  trappc := 0
  trapcause := 0
  trapaddr := 0
  trapinfo := 0
  trapvec := 0
  xbnd := 0
  trapvecF := 0
  xbndF := 0
  fflags := 0
  fctl := 0
  wflag := 0
  vl := 0
  rcc := 0
  efmt := 0x0F
  tm := 0
  tn := 0
  tk := 0
  asid := 0
  gtbase := 0
  gtnent := 0
  gdepth := 0
  stguard := []
  journal := []
  budget := 1024
  spent := 0
  blkrd := 0
  blkwr := 0
  blkSince := 0
  copy := .init
  nextXfer := 0
  rmrSvc := false
  rmrKahn := false
  td := 0
  unread := false
  readCause := false
  readAddr := false
  slots := []
  gframe := { size := 0, used := 0, base := 0 }
  held := false
  stopped := false
  unwind := none
  pend := none
  timeTarget := none
  pause := none
  waitAcc := none
  part := none
  yielded := false
  stalled := false
  resume := []
  gcalls := []
  fatal := none
  bad := []
  syncAt := 0

/-- An accumulator (01 R15, 06 R183, R197, R202). Cell (i, j) is at key 64 i + j. `covered` is R198's condition. -/
structure Acc where
  cells : SMap (BitVec 32)
  isInt : Bool
  owner : Option Nat
  flags : BitVec 5
  poisoned : BitVec 64
  covered : Bool
  deriving DecidableEq, Repr

def Acc.init : Acc := { cells := [], isInt := false, owner := none, flags := 0, poisoned := 0, covered := true }

/-- The kinds of queued matrix operation (06 R188). -/
inductive MKind where
  | mma (ua ub : Bool)
  | mrank (ua ub neg : Bool)
  | mzero
  | mwr (quad : Nat)
  deriving DecidableEq, Repr

/-- What the array copied at the start of a row pair: the A and B rows and the scale registers of their tags (06 R187, R189). -/
structure MPair where
  a : VData
  b : VData
  ga : VData
  gb : VData
  deriving DecidableEq, Repr

/-- A queued matrix operation: what it read at issue, how many of its units the array has started (06 R189, R190, R195), and the
row pairs copied so far. -/
structure MOp where
  m : MReg
  kind : MKind
  a : VReg
  b : VReg
  rc : Nat
  tm : Nat
  tn : Nat
  tk : Nat
  done : Nat
  held : List MPair
  deriving DecidableEq, Repr

/-- A queued copy transfer (07 R236): the shadow set and the windows it took, and its progress. `wait` numbers the request that its
piece in flight waits for, `piece` holds the bytes of a piece that has been read, and `ahead` bytes read beyond it, of an aligned 8-byte unit that it reaches into
(07 R206, R236; 12 R319, R320). `stamp` orders transfers by age. -/
structure Xfer where
  set : CopySet
  id : BitVec 16
  w : WReg
  asid : BitVec 16
  hart : Nat
  prio : BitVec 2
  running : Bool
  row : Nat
  off : Nat
  copied : Nat
  ws : List W64
  wait : Option Nat
  piece : Option (List Byte)
  ahead : List Byte := []
  stamp : Nat := 0
  deriving DecidableEq, Repr

/-- A token on a channel (07 R231, 09 R252): data, END, the strip-end mark SEND, poison of its word (19 R430), and the class of the packet
that brought it, which a station pair's reply takes (12 R320). -/
structure Token where
  data : W64
  isEnd : Bool
  stripEnd : Bool
  bad : Bool
  prio : BitVec 2 := 0
  deriving DecidableEq, Repr

/-- The read-modify-writes of 07 R229 and the atomically performed reads of R230 and R240. -/
inductive AmoOp where
  | add | and | or | xor | min | max | swp
  deriving DecidableEq, Repr

inductive AtomicOp where
  | amo (k : AmoOp) (n : Nat) (u : Bool) (b : W64)
  | cas (n : Nat) (exp new : W64)
  | cas128 (e0 e1 n0 n1 : W64)
  | fcell
  | binit (a : W64)
  /-- The read of a BWAIT that waits for a phase other than `old`. -/
  | bwait (old : Bool)
  deriving DecidableEq, Repr

/-- The answer to a request. -/
inductive Resp where
  | data (bs : List Byte)
  | trap (cause : BitVec 8) (addr info : W64)
  | fatal (addr : W64)
  deriving DecidableEq, Repr

/-- What packets carry (10 R279). `h` is the hart that sent it or that it answers. -/
inductive Msg where
  | write (h : Nat) (idx : Nat) (e : JEntry)
  | ack (h idx : Nat) (stamp : Nat)
  | nack (h idx : Nat) (stamp : Nat) (reason : BitVec 4)
  /-- `dest` is the pointer that names the stream's destination, `gen` the binding of the member dropped -/
  | skip (h : Nat) (num : BitVec 8) (seq : BitVec 20) (dest : W64) (gen : Nat)
  | read (h id : Nat) (addr : W64) (n : Nat) (asid : BitVec 16) (sync : Bool)
  | readRep (h id : Nat) (r : Resp)
  /-- element reads of group g of row v of a vector load, and an answer for each (07 R214) -/
  | elems (h id v g : Nat) (es : List (Nat × W64)) (n : Nat) (asid : BitVec 16)
  | elemsRep (h id v g : Nat) (rs : List (Nat × Resp))
  /-- what is left of a read of n bytes, of which `got` have been read, or of a write, of which `done` have been written: for the station
  that serves the next byte (14 R326, 19 R422) -/
  | readOn (h id : Nat) (addr : W64) (n : Nat) (asid : BitVec 16) (got : List Byte)
  | rest (h idx : Nat) (e : JEntry) (done : Nat)
  /-- what is left of the request of station pair n of partition p: physical runs, data still to be written, bytes read; and its answer to
  the home station (09 R261) -/
  | pairPart (p n : Nat) (wr : Bool) (len : Nat) (runs : List (Nat × Nat)) (data got : List Byte)
  | pairDone (p n : Nat) (out : List Token)
  /-- a stream member that its home station has another station perform, and the answer (07 R224) -/
  | member (h idx : Nat) (e : JEntry) (home : Nat)
  | memberRep (h idx : Nat) (e : JEntry) (bad : Option (BitVec 4))
  /-- a copy engine's write and its barrier arrival, and their answer (07 R236) -/
  | piece (h id : Nat) (addr : W64) (bs : List Byte) (asid : BitVec 16)
  | arrive (h id : Nat) (addr : W64) (n : Nat) (asid : BitVec 16)
  | pieceRep (h id : Nat) (r : Resp)
  | atomic (h id : Nat) (op : AtomicOp) (addr : W64) (asid : BitVec 16) (rel acq : Bool)
  | atomicRep (h id : Nat) (r : Resp)
  | tokens (part chan plat : Nat) (toks : List Token)
  | slots (part chan plat n : Nat)
  | grant (part chan plat n : Nat)
  /-- a multicast of the service station: bytes for each tile's store (12 R307) -/
  | load (off : Nat) (bs : List Byte)
  deriving DecidableEq, Repr

/-- Where a packet goes: an endpoint of 10 R277, another module (its node id), or a rectangle of tiles (10 R285). -/
inductive Dest where
  | ep (e : Nat)
  | node (n : Nat)
  | rect (x0 x1 y0 y1 : Nat)
  deriving DecidableEq, Repr

/-- A mesh packet (10, "Packets and virtual channels"). -/
structure Packet where
  id : Nat
  src : Nat
  dst : Dest
  vc : Nat
  prio : BitVec 2
  bank : Bool
  part : Option Nat
  hops : Nat
  /-- the node that made the packet, and 1 + the dimension in which it has crossed the dateline, or 0 (10 R299, R300) -/
  home : Nat
  dl : Nat
  msg : Msg
  deriving DecidableEq, Repr

/-- One flit of a packet: its number among the packet's n, and the step at which it came to the junction where it is (16 R372). -/
structure Flit where
  pkt : Packet
  idx : Nat
  n : Nat
  at_ : Nat := 0
  deriving DecidableEq, Repr

/-- A junction (10 R276, R279, R283): input buffers by 6 port + VC; per output, class credits, pointers, ages and levels of
candidates, and the input that holds each output VC, with its packet's number. `inq` holds what the tile or a station has injected at port T or X and the
junction's buffer has had no place for. -/
structure Junction where
  bufs : SMap (List Flit)
  cred : SMap Nat
  ptr : SMap Nat
  age : SMap Nat
  top : SMap Bool
  hold : SMap (Option (Nat × Nat))
  inq : SMap (List Flit)
  deriving DecidableEq, Repr

def Junction.init : Junction := { bufs := [], cred := [], ptr := [], age := [], top := [], hold := [], inq := [] }

/-- A stream at its destination (07 R225, 16 R376): sender hart, number, next SEQ expected, members held, and SEQs skipped. -/
structure StreamSt where
  sender : Nat
  num : BitVec 8
  next : BitVec 20
  held : List Packet
  skips : List (BitVec 20)
  /-- the member being performed by the owner of its bytes, and the binding of the members that came last -/
  busy : Option Packet
  gen : Nat
  deriving DecidableEq, Repr

/-- A race tag (14 R345). -/
structure RaceTag where
  wv : Bool
  ws : Bool
  wa : Nat
  we : Nat
  rm : BitVec 8
  re : SMap Nat
  sclk : SMap Nat
  deriving DecidableEq, Repr

def RaceTag.init : RaceTag := { wv := false, ws := false, wa := 0, we := 0, rm := 0, re := [], sclk := [] }

/-- One tile, its junction included. -/
structure Tile where
  acc : SMap Acc
  mq : SMap (List MOp)
  arrCR : SMap Int
  seqCR : SMap Int
  copyq : List Xfer
  copyLast : Nat
  cpSpent : SMap Nat
  streams : List StreamSt
  clk : SMap Nat
  rclk : SMap Nat
  tags : SMap RaceTag
  div : BitVec 2
  /-- The divider in effect (12 R316: a write to DIV takes effect at release or resume). -/
  divNow : BitVec 2
  cpb : SMap Nat
  agemax : Nat
  weight : SMap Nat
  jinj : SMap Nat
  injSpent : SMap Nat
  jn : Junction
  route0 : SMap (BitVec 3)
  route1 : SMap (BitVec 3)
  cycBase : Nat
  mainBase : Nat
  /-- Channel packets that the junction has injected and ejected, by partition (09 R267). -/
  inj : SMap Nat
  ej : SMap Nat
  deriving DecidableEq, Repr

/-- A tile after reset. CPB reads 128, JINJ 1,024, weights 1, 4, 16, 64 where unlisted (12 R316, R318, 10 R282). -/
def Tile.init : Tile where
  acc := []
  mq := []
  arrCR := []
  seqCR := []
  copyq := []
  copyLast := 3
  cpSpent := []
  streams := []
  clk := []
  rclk := []
  tags := []
  div := 0
  divNow := 0
  cpb := []
  agemax := 64
  weight := [(0, 1), (1, 4), (2, 16), (3, 64)]
  jinj := []
  injSpent := []
  jn := .init
  route0 := []
  route1 := []
  cycBase := 0
  mainBase := 0
  inj := []
  ej := []

/-- A platform (09 R251, R252, R271): capacity, where its part of the reader's tile store begins, the place of its first standing
token, the tokens that stand there, and its mortar segments. -/
structure Platform where
  cap : Nat
  base : Nat
  head : Nat
  toks : List Token
  segs : List Nat
  deriving DecidableEq, Repr

def Platform.init : Platform := { cap := 0, base := 0, head := 0, toks := [], segs := [] }

/-- An end of a channel: a port of a hart, a station pair, or a host window (09 R259, 19 R420). -/
inductive ChanEnd where
  | hart (h : Nat) (k : KReg)
  | mem (pair : Nat)
  | host (win : Nat)
  deriving DecidableEq, Repr

/-- A channel (09 R251 to R258): slot counts S(p), strip counter i, turn t and ended set E belong to it. -/
structure Chan where
  fmt : Fmt
  mode : ChanMode
  depth : Nat
  f : Nat
  plats : SMap Platform
  slots : SMap Nat
  strip : Nat
  turn : Nat
  ended : List Nat
  writers : SMap ChanEnd
  readers : SMap ChanEnd
  deriving DecidableEq, Repr

/-- A station pair (09 R259 to R262): its channels, home station, owner ASID, a reply in progress and its class (12 R320), and whether
another station has a part of its request. -/
structure StPair where
  req : Nat
  rep : Nat
  home : Nat
  asid : BitVec 16
  out : List Token
  prio : BitVec 2 := 0
  busy : Bool := false
  deriving DecidableEq, Repr

/-- The states of the signal box (09 R269). -/
inductive SbState where
  | watch | confirm | grow | held | switch
  deriving DecidableEq, Repr

/-- What a sweep sees (09 R268): each agent's class and port, the writers' blocked platforms, and the count sums. -/
structure Sweep where
  classes : List (Nat × HState × Nat)
  plats : List (Nat × Nat)
  inj : Nat
  ej : Nat
  deriving DecidableEq, Repr

/-- A report the supervisor hart has yet to take (09 R273, 16 R370). -/
structure Report where
  cause : BitVec 8
  addr : W64
  deriving DecidableEq, Repr

/-- The arena and the mailbox that Wilnil's allocator has for a hart, as virtual addresses, and the phase of the request barrier that was
served last (17 R382, R383). -/
structure Arena where
  base : Nat
  top : Nat
  mbox : Nat
  seen : Bool
  deriving DecidableEq, Repr

/-- A stream slot that an image reserves: process, slot, and the destination process, or global memory (09 R263 step 6). -/
structure Reserved where
  proc : Nat
  slot : Nat
  dest : Option Nat
  deriving DecidableEq, Repr

/-- One partition and the network bound in it. -/
structure Partition where
  bound : Bool
  lid : BitVec 16
  image : BitVec 256
  asid : BitVec 16
  tiles : List Nat
  harts : List Nat
  sup : Nat
  ttnext : W64
  count : BitVec 32
  thresh : BitVec 32
  chans : SMap Chan
  pairs : SMap StPair
  sb : SbState
  sweep : Option Sweep
  seq : Nat
  grows : Nat
  spillBase : Nat
  spillSegs : Nat
  segsUsed : Nat
  reports : List Report
  wdPeriod : BitVec 32
  /-- Watchdog (16 R370): nanoseconds without progress, and whether it has expired since the last progress. -/
  wdCount : Nat
  wdFired : Bool
  swBase : BitVec 43
  swBar : W64
  stopped : Bool
  stopping : Bool
  going : Bool
  ckEn : Bool
  ckPeriod : BitVec 31
  ckSlotG : BitVec 11
  ckBase : BitVec 43
  ckLast : Nat
  ckDue : Bool
  ckWriting : Bool
  ckSlot : Bool
  ckBusy : Bool
  ckFail : Bool
  /-- Packets parked at a switch, each with the junction's tile, in parking order (16 R372). -/
  parked : List (Nat × Packet)
  /-- Packets that entered at the host or a link station during the switch and wait there for its end (10 R290). -/
  late : List Packet
  /-- Writes of SAVE, LOAD and GO to SWCTL, and of GO to CKREQ, that the bridge has accepted and not yet performed. -/
  savePend : Bool
  loadPend : Bool
  goPend : Bool
  ckGoPend : Bool
  /-- Main cycle at which the next sweep ends (09 R268). -/
  sweepAt : Nat
  /-- The network's code and data are still on their way to its tiles (12 R307); no hart of it runs. -/
  loading : Bool
  /-- TIME at which the last switch stopped the partition (16 R379). -/
  swTime : W64
  /-- DONE reason with which the network is to end at its next switch (12 R305, 09 R435, 16 R367). -/
  ending : Option Nat
  streams : List Reserved
  arenas : SMap Arena
  deriving DecidableEq, Repr

/-- A partition after reset, unbound (01 R29, R42; 16 R370, R371, R377). -/
def Partition.init : Partition where
  bound := false
  lid := 0
  image := 0
  asid := 0
  tiles := []
  harts := []
  sup := 0
  ttnext := BitVec.allOnes 64
  count := 0
  thresh := 0
  chans := []
  pairs := []
  sb := .watch
  sweep := none
  seq := 0
  grows := 0
  spillBase := 0
  spillSegs := 0
  segsUsed := 0
  reports := []
  wdPeriod := 4000000
  wdCount := 0
  wdFired := false
  swBase := 0
  swBar := 0
  stopped := false
  stopping := false
  going := false
  ckEn := false
  ckPeriod := 0
  ckSlotG := 0
  ckBase := 0
  ckLast := 0
  ckDue := false
  ckWriting := false
  ckSlot := false
  ckBusy := false
  ckFail := false
  parked := []
  late := []
  savePend := false
  loadPend := false
  goPend := false
  ckGoPend := false
  sweepAt := 0
  loading := false
  swTime := 0
  ending := none
  streams := []
  arenas := []

/-- A page translation: the page's first virtual and physical address, its size, permissions and PIN, and where the leaf
lies (18 R395, R396). -/
structure Leaf where
  asid : BitVec 16
  va : Nat
  pa : Nat
  size : Nat
  rd : Bool
  wr : Bool
  pin : Bool
  at_ : Nat
  deriving DecidableEq, Repr

/-- A walk whose fill has not returned (18 R402). -/
structure Walk where
  gen : BitVec 32
  leaf : Option Leaf
  speculative : Bool
  deriving DecidableEq, Repr

/-- A record of the translation fault log (18 R399). -/
structure XlFault where
  asid : BitVec 16
  va : W64
  node : Nat
  ep : Nat
  write : Bool
  deriving DecidableEq, Repr

/-- A station (10 R277, 12 R319, 18 R402, R404). -/
structure Station where
  specdrop : W64
  sbudget : SMap Nat
  units : SMap Nat
  flog : List XlFault
  tlb : List Leaf
  gen : BitVec 32
  walks : List Walk
  streams : List StreamSt
  /-- A shoot-down this station has still to perform, and one it has still to acknowledge (18 R401 to R403). -/
  shoot : Bool
  ackDue : Bool
  /-- Channel packets injected and ejected, by partition (09 R267). -/
  inj : SMap Nat
  ej : SMap Nat
  /-- The demand accesses it has translated, newest first: ASID and address (18 R404). -/
  recent : List (BitVec 16 × Nat)
  deriving DecidableEq, Repr

def Station.init : Station where
  specdrop := 0
  sbudget := []
  units := []
  flog := []
  tlb := []
  gen := 0
  walks := []
  streams := []
  shoot := false
  ackDue := false
  inj := []
  ej := []
  recent := []

/-- A key slot: the epoch it holds, the key, and this end's next counter (10 R294, R295). -/
structure KeySlot where
  epoch : Nat
  key : BitVec 256
  ctr : Nat
  deriving DecidableEq, Repr

/-- A flit in the retry buffer: the bytes as sent, and what it holds in clear for sending it again under a new key (10 R297,
R298). -/
structure Sent where
  seq : BitVec 24
  flit : LinkFlit
  ptype : Nat
  clear : List Byte
  epoch : Nat
  deriving DecidableEq, Repr

/-- The four stamps of an exchange of timestamp flits (10 R301): this module's TIME when it sent, the peer's when it took that flit and
when it sent its own, and this module's when it took the peer's. -/
structure Stamps where
  sent : Nat
  there : Nat
  back : Nat
  taken : Nat
  deriving DecidableEq, Repr

/-- A link station (10 R293 to R301). -/
structure Link where
  up : Bool
  /-- Wilnil has written its routes in both banks, and enabled the port (10 R300). -/
  torus : Bool
  slot0 : Option KeySlot
  slot1 : Option KeySlot
  /-- Keys this end receives under, each with the counter it expects next (log 33). -/
  rkeys : List KeySlot
  /-- The epoch now sent under, the last epoch agreed, and the last epoch whose marker the peer has sent. -/
  txEpoch : Nat
  agreed : Nat
  rxEpoch : Nat
  /-- The next SEQ to send and the next expected; the SEQ last accepted, which ACK carries, and the last that an ACK of the peer
  covered. -/
  txSeq : BitVec 24
  rxSeq : BitVec 24
  rxAck : BitVec 24
  acked : BitVec 24
  retry : List Sent
  replay : List LinkFlit
  nakDue : Bool
  /-- Flit times until a flit with a new ACK must have been sent, if one is owed (10 R297). -/
  ackIn : Option Nat
  fails : Nat
  /-- Packets queued to leave; bytes already sent of the first packet of a class, and bytes received that do not yet make a packet, by
  2 × VC + DL. -/
  outq : List Packet
  tx : SMap Nat
  rx : SMap (List Byte)
  sentWire : List LinkFlit
  /-- This end's signature of the last key agreement (10 R295, 19 R429). -/
  signed : List Byte
  /-- TIME of the last timestamp flit sent, the stamp of the peer's last one and TIME when it came, and the last full exchange (10 R301). -/
  stampAt : Nat
  peerStamp : Nat × Nat
  stamps : Option Stamps
  route0 : SMap Byte
  route1 : SMap Byte
  deriving DecidableEq, Repr

def Link.init : Link where
  up := false
  torus := false
  slot0 := none
  slot1 := none
  rkeys := []
  txEpoch := 0
  agreed := 0
  rxEpoch := 0
  txSeq := 0
  rxSeq := 0
  rxAck := 0
  acked := 0
  retry := []
  replay := []
  nakDue := false
  ackIn := none
  fails := 0
  outq := []
  tx := []
  rx := []
  sentWire := []
  signed := []
  stampAt := 0
  peerStamp := (0, 0)
  stamps := none
  route0 := []
  route1 := []

/-- A host channel window (19 R418): the channel end it is bound to, and its sticky bits. -/
structure HostWin where
  bind : Option (Nat × Nat)
  dir : Bool
  ovr : Bool
  und : Bool
  deriving DecidableEq, Repr

def HostWin.init : HostWin := { bind := none, dir := false, ovr := false, und := false }

/-- A ROM report (16 R368). -/
structure RomReport where
  hart : Nat
  trappc : W64
  trapcause : W64
  trapaddr : W64
  trapinfo : W64
  cause : BitVec 8
  addr : W64
  pc : W64
  fatal : Bool
  deriving DecidableEq, Repr

/-- MODEL'S OWN (log 27): a context as SAVE wrote it, by its bytes, with what R375 and R376 give no place. -/
structure SavedHart where
  bytes : List Byte
  hart : Hart
  deriving DecidableEq, Repr

structure SavedTile where
  bytes : List Byte
  copyq : List Xfer
  parked : List Packet
  deriving DecidableEq, Repr

/-- `shards` are the physical runs of each shard of a checkpoint (log 29). -/
structure SavedPart where
  bytes : List Byte
  part : Partition
  shards : List (List (Nat × Nat))
  deriving DecidableEq, Repr

/-- Whose turn it is: a hart's, the turn of one that the vector sequencer has picked (12 R311), an event's, that of one element read of an
asynchronous load into row v of hart h (14 R331), or one that the table has no row for. -/
inductive Turn where
  | hart (h : Nat)
  | lanes (h : Nat)
  | event (i : Instr)
  | element (h v e : Nat)
  /-- an access of the host to BAR0, or of management to the bridge, that has no row: a read or write of len bytes at off -/
  | access (host : Bool) (off len : Nat) (data : Option W64)
  /-- bring-up goes on to its next stage (19 R431) -/
  | stage
  deriving DecidableEq, Repr

/-- The module. -/
structure State where
  /-- MODEL'S OWN (log 3): the hart whose turn it is or was, the turns to come as far as they are fixed, the free-value counter. -/
  cur : Nat
  sched : List Turn
  tick : Nat
  harts : SMap Hart
  tiles : SMap Tile
  parts : SMap Partition
  stations : SMap Station
  links : SMap Link
  /-- Bytes by address: device physical addresses below 2^48 (19 R422), tile store t at 2^48 + 2^21 t. Log 1. -/
  mem : List Host.Cell
  /-- First addresses of poisoned units (19 R430). -/
  poison : List Nat
  /-- Writes to tile stores, newest first: first address and the bytes overwritten (03 R93; log 10). -/
  stlog : List (Nat × List Byte)
  /-- Packets ejected at their endpoint and not yet consumed; the next packet and request numbers. -/
  arrived : List Packet
  nextPkt : Nat
  nextReq : Nat
  nextStamp : Nat
  time : W64
  main : Nat
  mhz : Nat
  keyLimit : BitVec 48
  keyTest : Bool
  keyLock : Bool
  inj : Bool
  flight0 : Nat
  flight1 : Nat
  xlBase : BitVec 48
  xlLock : Bool
  xlBusy : Bool
  xlKind : BitVec 2
  xlAsid : BitVec 16
  xlVa : BitVec 27
  plimit : BitVec 16
  thr : Bool
  temp : BitVec 8
  pnow : BitVec 16
  bootstat : BitVec 8
  hdmaA : SMap W64
  hdmaB : SMap W64
  host : SMap HostWin
  /-- The request and reply channels of windows 0 and 1 (19 R420), tokens standing; replies wait for the host. -/
  launchq : List Token
  replyq : List Token
  /-- tokens of the launch message that Wilnil has begun to consume (12 R304) -/
  launchIn : List Token
  romRing : List RomReport
  wilnilLog : List RomReport
  /-- Wilnil's fault log, newest first: the report records that its supervisors have taken (09 R435). -/
  faultLog : List (List Byte)
  bridgeRefused : Nat
  corrected : Nat
  uncorrected : Nat
  hopLost : List Packet
  flashA : List Byte
  flashB : List Byte
  active : Bool
  rollback : Nat
  rails : Bool
  timeLock : Bool
  /-- Nanoseconds that TIME has still to make up, and nanoseconds passed toward the next it may (10 R301). -/
  slew : Int
  slewAcc : Nat
  node : Nat
  nextAsid : Nat
  /-- MODEL'S OWN (log 30): blocks of HBM that Wilnil has taken for tables, pages and spill regions: first byte and length. -/
  taken : List (Nat × Nat)
  /-- The inactive flash bank holds an image written since the last reset (19 R429). -/
  fwNew : Bool
  /-- What the last read of the host or of management returned. -/
  answer : List W64
  /-- Thermal shutdowns that management has to report (19 R427). -/
  shutdowns : Nat
  /-- Millisecond boundaries of TIME that the governor has passed (19 R427). -/
  govMs : Nat
  savedHarts : List SavedHart
  savedTiles : List SavedTile
  savedParts : List SavedPart
  deriving DecidableEq, Repr

/-- The machine right after reset (01, 10, 12, 16, 18, 19; see INVENTORY.md for each field's rule): every hart parked,
every register at its reset value, memory with nothing listed, BOOTSTAT 0. -/
def State.reset : State where
  cur := 0
  sched := []
  tick := 0
  harts := []
  tiles := []
  parts := []
  stations := []
  links := []
  mem := []
  poison := []
  stlog := []
  arrived := []
  nextPkt := 0
  nextReq := 0
  nextStamp := 0
  time := 0
  main := 0
  mhz := 3000
  keyLimit := 0x1000000000
  keyTest := false
  keyLock := false
  inj := false
  flight0 := 0
  flight1 := 0
  xlBase := 0
  xlLock := false
  xlBusy := false
  xlKind := 0
  xlAsid := 0
  xlVa := 0
  plimit := 3200
  thr := false
  temp := 0
  pnow := 0
  bootstat := 0
  hdmaA := []
  hdmaB := []
  host := []
  launchq := []
  replyq := []
  launchIn := []
  romRing := []
  wilnilLog := []
  faultLog := []
  bridgeRefused := 0
  corrected := 0
  uncorrected := 0
  hopLost := []
  flashA := []
  flashB := []
  active := false
  rollback := 0
  rails := true
  timeLock := false
  slew := 0
  slewAcc := 0
  node := 0
  nextAsid := 0x0100
  taken := []
  fwNew := false
  answer := []
  shutdowns := 0
  govMs := 0
  savedHarts := []
  savedTiles := []
  savedParts := []

end Sys2Proof.Machine
end

