-- ==== Sys2Proof/Machine/Ops.lean ====
section
/-! DEFINITION. The named operations over State that every meaning uses: harts, tiles, registers, bytes of memory, the
journal, retiring and waiting, taking a trap (16 R357) and returning from one (04 R130, 16 R358). -/

namespace Sys2Proof.Machine

/-- What every meaning answers. -/
abbrev Out := Host.Outcome State Fault Refusal

/-! ### Components -/

def State.hart (s : State) (h : Nat) : Hart := mget .init s.harts h
def State.setHart (s : State) (h : Nat) (a : Hart) : State := { s with harts := mput s.harts h a }
def State.modHart (s : State) (h : Nat) (f : Hart → Hart) : State := s.setHart h (f (s.hart h))
def State.tile (s : State) (t : Nat) : Tile := mget .init s.tiles t
def State.setTile (s : State) (t : Nat) (a : Tile) : State := { s with tiles := mput s.tiles t a }
def State.modTile (s : State) (t : Nat) (f : Tile → Tile) : State := s.setTile t (f (s.tile t))
def State.part (s : State) (p : Nat) : Partition := mget .init s.parts p
def State.setPart (s : State) (p : Nat) (a : Partition) : State := { s with parts := mput s.parts p a }
def State.modPart (s : State) (p : Nat) (f : Partition → Partition) : State := s.setPart p (f (s.part p))
/-- Station n of 10 R277: 0 to 15 memory, 16 to 19 second tier, 20 host, 21 to 28 link, 29 service. -/
def State.station (s : State) (n : Nat) : Station := mget .init s.stations n
def State.setStation (s : State) (n : Nat) (a : Station) : State := { s with stations := mput s.stations n a }
def State.modStation (s : State) (n : Nat) (f : Station → Station) : State := s.setStation n (f (s.station n))
def State.link (s : State) (l : Nat) : Link := mget .init s.links l
def State.setLink (s : State) (l : Nat) (a : Link) : State := { s with links := mput s.links l a }
def State.modLink (s : State) (l : Nat) (f : Link → Link) : State := s.setLink l (f (s.link l))

/-- The tile of a hart (01 R375: hart = 4 × tile + hart). -/
def tileOf (h : Nat) : Nat := h / 4
/-- The harts of a tile. -/
def hartsOf (t : Nat) : List Nat := [4 * t, 4 * t + 1, 4 * t + 2, 4 * t + 3]

/-! ### Registers of a hart (01 R14) -/

/-- x0 reads zero. -/
def Hart.rx (a : Hart) (r : XReg) : W64 := if r = 0 then 0 else mget 0 a.x r.toNat
/-- Writes to x0 are discarded. -/
def Hart.wx (a : Hart) (r : XReg) (v : W64) : Hart := if r = 0 then a else { a with x := mput a.x r.toNat v }
/-- p0 reads all ones. -/
def Hart.rp (a : Hart) (p : PReg) : PData := if p = 0 then BitVec.allOnes 2048 else mget 0 a.p p.toNat
/-- Writes to p0 are discarded. -/
def Hart.wp (a : Hart) (p : PReg) (v : PData) : Hart := if p = 0 then a else { a with p := mput a.p p.toNat v }
/-- Register v(n). -/
def Hart.rv (a : Hart) (n : Nat) : VecReg := mget .init a.v n
def Hart.wv (a : Hart) (n : Nat) (v : VecReg) : Hart := { a with v := mput a.v n v }
def Hart.rg (a : Hart) (n : Nat) : VData := mget 0 a.g n
/-- The bits that a scale register holds: [31:24] of each of its 256 entries are reserved and read zero (01 R16; 00 R5, R7). -/
def entryBits : VData := BitVec.ofNat 8192 (0xFFFFFF * ((2 ^ 8192 - 1) / (2 ^ 32 - 1)))
/-- The bits that a store-guard window holds (01 R36): the others are reserved. -/
def guardBits : W64 := 0xF7FFFFFFFFDFFFFF
def Hart.wg (a : Hart) (n : Nat) (v : VData) : Hart := { a with g := mput a.g n (v &&& entryBits) }
def Hart.rw (a : Hart) (n : Nat) : WaitTok := mget .init a.w n
def Hart.ww (a : Hart) (n : Nat) (v : WaitTok) : Hart := { a with w := mput a.w n v }
def Hart.rk (a : Hart) (k : KReg) : Option PortBinding := mget none a.k k.toNat
def Hart.slot (a : Hart) (n : Nat) : StreamSlot := mget .init a.slots n
def Hart.setSlot (a : Hart) (n : Nat) (v : StreamSlot) : Hart := { a with slots := mput a.slots n v }
def Hart.entry (a : Hart) (i : Nat) : Option JEntry := mget none a.journal i
def Hart.setEntry (a : Hart) (i : Nat) (e : Option JEntry) : Hart := { a with journal := mput a.journal i e }
def Hart.guardReg (a : Hart) (i : Nat) : W64 := mget 0 a.stguard i

/-- RC (01 R35). -/
def Hart.rc (a : Hart) : Nat := 2 ^ a.rcc.toNat

/-- The outstanding journal entries, by index (07 R218). -/
def jents : List (Nat × Option JEntry) → List (Nat × JEntry)
  | [] => []
  | (i, some e) :: r => (i, e) :: jents r
  | (_, none) :: r => jents r
def Hart.ents (a : Hart) : List (Nat × JEntry) := jents a.journal

/-- The entry taken earliest of a list, by its stamp (07 R218, R221). -/
def oldest : List (Nat × JEntry) → Option (Nat × JEntry)
  | [] => none
  | e :: r =>
    match oldest r with
    | none => some e
    | some f => if f.2.stamp < e.2.stamp then some f else some e

/-! ### Bytes -/

/-- Bytes to a number, the lowest address first (00 R3). -/
def leNat : List Byte → Nat
  | [] => 0
  | b :: r => b.toNat + 256 * leNat r

/-- The n bytes of a number, the lowest address first (00 R3). -/
def toBytes : Nat → Nat → List Byte
  | 0, _ => []
  | n + 1, v => BitVec.ofNat 8 v :: toBytes n (v / 256)

def le64 (bs : List Byte) : W64 := BitVec.ofNat 64 (leNat bs)
def bytes64 (v : W64) : List Byte := toBytes 8 v.toNat

/-- Where tile t's store lies in State.mem. -/
def storeBase (t : Nat) : Nat := 2 ^ 48 + t * 2 ^ 21

/-- One byte of memory. -/
def State.byte (s : State) (a : Nat) : Byte := mget 0 s.mem a

/-- n bytes from a. -/
def readBytes (m : List Host.Cell) : Nat → Nat → List Byte
  | _, 0 => []
  | a, n + 1 => mget 0 m a :: readBytes m (a + 1) n

/-- Bytes written from a; the canonical form lists no zero. -/
def writeBytes : List Host.Cell → Nat → List Byte → List Host.Cell
  | m, _, [] => m
  | m, a, b :: r => writeBytes (mset 0 m a b) (a + 1) r

def State.peek (s : State) (a n : Nat) : List Byte := readBytes s.mem a n
def State.peek64 (s : State) (a : Nat) : W64 := le64 (s.peek a 8)

/-- The protected unit of a byte (19 R430): 8 bytes in a tile store, 64 elsewhere. -/
def unitOf (a : Nat) : Nat := if 2 ^ 48 ≤ a then a - a % 8 else a - a % 64
def unitLen (a : Nat) : Nat := if 2 ^ 48 ≤ a then 8 else 64

/-- A write that covers a poisoned unit whole clears its poison (19 R430). -/
def State.unpoison (s : State) (a n : Nat) : State :=
  { s with poison := s.poison.filter (fun u => !(decide (a ≤ u) && decide (u + unitLen u ≤ a + n))) }

/-- The first byte of [a, a + n) that lies in a poisoned unit. -/
def firstPoison (ps : List Nat) (a n : Nat) : Option Nat :=
  match ps with
  | [] => none
  | u :: r =>
    let rest := firstPoison r a n
    if u < a + n && a < u + unitLen u then
      match rest with
      | some b => some (min (max a u) b)
      | none => some (max a u)
    else rest

/-- The one write of memory: bytes at a, kept in the history of a tile store for 03 R93. -/
def State.pokeRaw (s : State) (a : Nat) (bs : List Byte) : State :=
  { s with
    mem := writeBytes s.mem a bs
    stlog := if 2 ^ 48 ≤ a then (a, s.peek a bs.length) :: s.stlog else s.stlog }

/-- A write of whole bytes, which clears the poison of the units it covers. -/
def State.poke (s : State) (a : Nat) (bs : List Byte) : State := (s.unpoison a bs.length).pokeRaw a bs

def State.poke64 (s : State) (a : Nat) (v : W64) : State := s.poke a (bytes64 v)

/-! ### Clocks and reported state -/

/-- CYCLE of a tile: cycles of its divided clock since reset (01 R29, 12 R316). -/
def State.cycle (s : State) (t : Nat) : Nat :=
  (s.tile t).cycBase + (s.main - (s.tile t).mainBase) / ((s.tile t).divNow.toNat + 1)

/-- STATE as HSTAT reports it (01 R32, 16 R359, R368). -/
def Hart.state (a : Hart) : Nat :=
  if a.held then 4
  else if a.td ≠ 0 ∧ a.own ≠ .parked then 4
  else match a.own with
    | .running => 0 | .blockedRead => 1 | .blockedWrite => 2 | .waiting => 3 | .parked => 5

/-- HSTAT (01 R32). -/
def Hart.hstat (a : Hart) : W64 :=
  BitVec.ofNat 64 (a.port.toNat * 4096 + a.state * 256 + (if a.kahn then 2 else 0) + (if a.svc then 1 else 0))

/-- The partition whose registers a hart reaches; those of a hart bound to none stand under key 16 (log 17). -/
def Hart.partKey (a : Hart) : Nat := a.part.getD 16

/-- Progress that the watchdog counts (16 R370). -/
def State.progress (s : State) (p : Option Nat) : State :=
  match p with
  | none => s
  | some p => s.modPart p fun a => { a with wdCount := 0, wdFired := false }

/-- A change of the hart's own STATE: BLKRD and BLKWR take the cycles it lasted (01 R44), the watchdog count returns to
zero (16 R370). -/
def State.setOwn (s : State) (h : Nat) (st : HState) (port : BitVec 4) : State :=
  let a := s.hart h
  if a.own = st ∧ a.port = port then s
  else
    let now := s.cycle (tileOf h)
    let d := BitVec.ofNat 64 (now - a.blkSince)
    let a1 := { a with
      own := st, port := port, blkSince := now
      blkrd := if a.state = 1 then a.blkrd + d else a.blkrd
      blkwr := if a.state = 2 then a.blkwr + d else a.blkwr }
    (s.setHart h a1).progress a.part

/-! ### Retiring and waiting -/

/-- The instruction of hart h completes: WFLAG takes w, the next instruction is at pc. -/
def State.retireTo (s : State) (h : Nat) (c : Ctl) (w : BitVec 13) (pc : W64) : State :=
  (s.setOwn h .running 0).modHart h fun a =>
    { a with pc := pc, wflag := a.wflag ||| w, stalled := false, yielded := c.yld }

/-- The instruction of hart h completes and the next one in sequence follows (03 R82). -/
def State.retire (s : State) (h : Nat) (c : Ctl) (w : BitVec 13) : State :=
  s.retireTo h c w ((s.hart h).pc + 12)

/-- The instruction of hart h waits without effect and will run again (07 R208, R241). -/
def State.wait (s : State) (h : Nat) (st : HState) (port : BitVec 4) : State :=
  (s.setOwn h st port).modHart h fun a => { a with stalled := true }

/-! ### Traps -/

/-- What a trap says of itself (16 R360, R361). -/
structure Trap where
  cause : BitVec 8
  addr : W64
  info : W64
  defer : Bool
  async : Bool
  deriving DecidableEq, Repr

/-- A precise trap. -/
def Trap.mk' (cause : BitVec 8) (addr info : W64) : Trap :=
  { cause := cause, addr := addr, info := info, defer := false, async := false }

/-- TRAPCAUSE (01 R33). -/
def Trap.word (t : Trap) : W64 :=
  BitVec.ofNat 64 (t.cause.toNat + (if t.async then 256 else 0) + (if t.defer then 512 else 0))

/-- ILL at a step of 03 R95, with the field at step 2 (16 R360). -/
def trapIll (at_ : IllAt) : Trap := Trap.mk' 0x01 0 (BitVec.ofNat 64 (at_.step.toNat + 16 * at_.field.toNat))
def trapAlign (addr : W64) (n : Nat) : Trap := Trap.mk' 0x02 addr (BitVec.ofNat 64 n)
def trapGuard (addr : W64) (wr prot : Bool) : Trap :=
  Trap.mk' 0x03 addr (BitVec.ofNat 64 ((if wr then 1 else 0) + (if prot then 2 else 0)))
def trapWin (addr : W64) : Trap := Trap.mk' 0x04 addr 0
def trapPage (addr : W64) (wr : Bool) : Trap := Trap.mk' 0x05 addr (if wr then 1 else 0)
def trapOvl (pc : W64) : Trap := Trap.mk' 0x06 pc 0
def trapMmx (addr : W64) (report : BitVec 8) : Trap := Trap.mk' 0x07 addr (report.zeroExtend 64)
def trapPoisonMem (addr : W64) : Trap := Trap.mk' 0x09 addr 0
def trapPoisonReg (v : Nat) : Trap := Trap.mk' 0x09 0 (BitVec.ofNat 64 (128 + v))
/-- DOM of a kind, with the kind's other bits. -/
def trapDom (kind : Nat) (info : Nat) : Trap := Trap.mk' 0x0A 0 (BitVec.ofNat 64 (kind * 4096 + info))
def trapNd : Trap := Trap.mk' 0x0C 0 0
/-- FMT: the tag found and its field. -/
def trapFmt (tag : BitVec 16) (field : Nat) : Trap := Trap.mk' 0x0F 0 (BitVec.ofNat 64 (tag.toNat + field * 65536))
/-- SYS and BRK (04 R129). -/
def trapSoft (cause : BitVec 8) (n : Imm) : Trap := Trap.mk' cause 0 (n.zeroExtend 64)

/-- The 256 newest reports of the ROM ring (19 R423). -/
def pushRing (r : List RomReport) (x : RomReport) : List RomReport := (x :: r).take 256

/-- The last-resort handler (16 R368): the trap registers, RMR, TD and UNREAD stay; a report goes to the bridge; the hart is
held. When it is the device supervisor, bring-up is at stage 0xE (19 R431). -/
def State.romHold (s : State) (h : Nat) (cause : BitVec 8) (addr pc : W64) (fatal : Bool) : State :=
  let a := s.hart h
  let rep : RomReport := {
    hart := h, trappc := a.trappc, trapcause := a.trapcause, trapaddr := a.trapaddr, trapinfo := a.trapinfo
    cause := cause, addr := addr, pc := pc, fatal := fatal }
  let s1 := (s.setOwn h .running 0).modHart h fun a => { a with held := true, stalled := false, waitAcc := none, timeTarget := none }
  { s1 with
    romRing := pushRing s.romRing rep
    bootstat := if h = 0 then 0xE else s.bootstat }

/-- The start of an unwind (04 R142): it waits in STATE 3 and raises no TD. -/
def State.beginUnwind (s : State) (h : Nat) (cause : BitVec 8) : State :=
  (s.setOwn h .waiting 0).modHart h fun a => { a with unwind := some { cause := cause, dropped := false }, stalled := false, waitAcc := none, timeTarget := none }

/-- Hart h takes a trap whose TRAPPC is pc (16 R357). -/
def State.takeTrap (s : State) (h : Nat) (pc : W64) (t : Trap) : State :=
  let a := s.hart h
  if a.unread || a.td = 7 || (a.trapvecF = 0 && a.gdepth = 0) then s.romHold h t.cause t.addr pc false
  else if a.trapvecF = 0 then s.beginUnwind h t.cause
  else
    (s.setOwn h .running 0).modHart h fun a =>
      { a with
        trappc := pc
        trapcause := t.word
        trapaddr := t.addr
        trapinfo := t.info
        rmrSvc := if a.td = 0 then a.svc else a.rmrSvc
        rmrKahn := if a.td = 0 then a.kahn else a.rmrKahn
        td := a.td + 1
        svc := true
        kahn := false
        unread := true
        readCause := false
        readAddr := false
        stalled := false
        waitAcc := none
        timeTarget := none
        pc := a.trapvecF.zeroExtend 64 }

/-- A precise trap at the instruction of hart h. -/
def State.trapHere (s : State) (h : Nat) (t : Trap) : State := s.takeTrap h (s.hart h).pc t

/-- The new depth's entries may be reported again after this TRET (07 R221). -/
def clearReports (d : Nat) : List (Nat × Option JEntry) → List (Nat × Option JEntry)
  | [] => []
  | (i, none) :: r => (i, none) :: clearReports d r
  | (i, some e) :: r => (i, some (if e.rep = some d then { e with rep := none } else e)) :: clearReports d r

/-- 8 × GDEPTH + TD: the handler or gate call that the hart runs in. -/
def Hart.depth (a : Hart) : Nat := 8 * a.gdepth.toNat + a.td.toNat

/-- The instruction at the hart's PC has issued and stalls in its middle (07 R221, 16 R364). -/
def Hart.inMiddle (a : Hart) : Bool :=
  a.resume.any fun r => r.mid && decide (r.pc = a.pc) && decide (r.depth = a.depth)

/-- What stays of the records of stopped instructions when a trap return leads to pc at depth d: those of outer depths, and that of the
instruction returned to (16 R364). -/
def Hart.keepResume (a : Hart) (d : Nat) (pc : W64) : List Resume :=
  a.resume.filter fun r => decide (r.depth < d) || (decide (r.depth = d) && decide (r.pc = pc))

/-- A trap return to pc (04 R130, 16 R358): the mode is restored, fetched words are discarded, and TRAPVEC and XBND as
written govern fetch (01 R30). -/
def State.trapReturn (s : State) (h : Nat) (c : Ctl) (w : BitVec 13) (pc : W64) : State :=
  (s.retireTo h c w pc).modHart h fun a =>
    { a with
      svc := if a.td = 0 then a.svc else if a.td = 1 then a.rmrSvc else true
      kahn := if a.td = 0 then a.kahn else if a.td = 1 then a.rmrKahn else false
      journal := clearReports a.depth a.journal
      resume := a.keepResume (a.depth - (if a.td = 0 then 0 else 1)) pc
      td := if a.td = 0 then 0 else a.td - 1
      unread := false
      trapvecF := a.trapvec
      xbndF := a.xbnd
      syncAt := s.stlog.length }

end Sys2Proof.Machine
end

