-- ==== Sys2Proof/Machine/Flags.lean ====
section
/-! DEFINITION. The sticky flags: WFLAG, one bit for each fallback of 03 R97, and FFLAGS (01 R34). -/

namespace Sys2Proof

/-- Modifiers of the common map (03 R91). -/
def Ctl.x5 (c : Ctl) : Bool := c.mod.getLsbD 5
def Ctl.u (c : Ctl) : Bool := c.mod.getLsbD 4
def Ctl.sat (c : Ctl) : Bool := c.mod.getLsbD 3
def Ctl.rounds (c : Ctl) : Bool := decide (c.mod.extractLsb' 0 3 ≠ 0)
/-- W of 04 R108. -/
def Ctl.w (c : Ctl) : Nat := if c.x5 then 32 else 64

/-- The vector register of an operand that may be a scalar. -/
def VXI.regs : VXI → List VReg
  | .v r => [r]
  | _ => []

end Sys2Proof

namespace Sys2Proof.Machine

/-- WFLAG bit n if b (03 R97). -/
def wfIf (n : Nat) (b : Bool) : BitVec 13 := if b then BitVec.twoPow 13 n else 0

/-- The decode-time bits of 03 R97: 2 GUARDHI, 3 GUARDNA, 4 HINTRSV, 5 HINTNA, 6 MODNA, 7 STLAST0. `mods` are the MOD bits
the entry defines; `unguarded` marks TRET, GATE, GRET, ISYNC; `aV`, `bV` say that fields A and B are of class 001. -/
def decodeFlags (c : Ctl) (mods : BitVec 6) (unguarded aV bV last0 : Bool) : BitVec 13 :=
  wfIf 2 (!unguarded && decide (96 ≤ c.gpred.toNat))
    ||| wfIf 3 (unguarded && (decide (c.gpred ≠ 0) || c.ginv))
    ||| wfIf 4 (decide (c.rsv ≠ 0))
    ||| wfIf 5 ((c.la && !aV) || (c.lb && !bV))
    ||| wfIf 6 (decide (c.mod &&& ~~~mods ≠ 0))
    ||| wfIf 7 last0

/-- FFLAGS bits (01 R34). -/
def fNV : BitVec 5 := 16
def fDZ : BitVec 5 := 8
def fOF : BitVec 5 := 4
def fUF : BitVec 5 := 2
def fNX : BitVec 5 := 1
def flagIf (f : BitVec 5) (b : Bool) : BitVec 5 := if b then f else 0

/-- FFLAGS gathers f (01 R31, 02 R57). -/
def Hart.addFlags (a : Hart) (f : BitVec 5) : Hart := { a with fflags := a.fflags ||| f }

/-- The rounding modes of 02 R55. -/
inductive Rnd where
  | rne | rtz | rup | rdn
  deriving DecidableEq, Repr

def rndOf (n : Nat) : Rnd :=
  match n with
  | 0 => .rne | 1 => .rtz | 2 => .rup | _ => .rdn

/-- The mode an instruction uses: its modifier, or FCTL.RM (01 R34, 03 R91). -/
def Hart.rnd (a : Hart) (c : Ctl) : Rnd :=
  let m := (c.mod.extractLsb' 0 3).toNat
  if m = 0 then rndOf a.fctl.toNat else rndOf (m - 1)

end Sys2Proof.Machine
end

