-- ==== Sys2Proof/Machine/Operands.lean ====
section
/-! DEFINITION. Operands as values, the guard, and the steps of 03 R95 between decoding and execution: the RC multiple, the
decode-time fallbacks, DOM and ND, and retirement under the guard or at VL = 0. -/

namespace Sys2Proof.Machine

/-- A class-000 or class-100 operand: the register, or the immediate sign-extended (03 R86). -/
def Hart.xi (a : Hart) : XI → W64
  | .x r => a.rx r
  | .i v => v.signExtend 64

/-- An operand of n bits read unsigned; a register gives its low n bits. -/
def Hart.xu {n : Nat} (a : Hart) : XU n → BitVec n
  | .x r => (a.rx r).setWidth n
  | .i v => v

/-- The effective address of a memory operand (03 R85). -/
def Hart.ea (a : Hart) (m : MemOp) (scale : Nat) : W64 :=
  a.rx m.base + m.off.signExtend 64 * BitVec.ofNat 64 scale

/-- A PC-relative operand: 4-byte units from the instruction's own address (03 R86). -/
def relTo (pc : W64) (i : Imm) : W64 := pc + i.signExtend 64 * 4

/-- The guard bits of every element (03 R88): GPRED 96 to 127 reads p0. -/
def Hart.guard (a : Hart) (c : Ctl) : PData :=
  let p := if 96 ≤ c.gpred.toNat then BitVec.allOnes 2048 else a.rp c.gpred
  if c.ginv then ~~~p else p

/-- g(0) of 03 R88. -/
def Hart.guard0 (a : Hart) (c : Ctl) : Bool := (a.guard c).getLsbD 0

/-- What decoding says of an instruction before it executes: vector operand fields, those checked against RC = 1, p and g
indices that must be multiples of RC (05 R150), predicate fields, whether it names
something 04 R140 bars at once, which of A and B are of class 001, the MOD bits its entry defines, whether it takes no guard,
whether it is element-wise, fallback bit 7, the first DOM check of its entry that fails, and whether Kahn mode bars it. -/
structure Head where
  vs : List VReg := []
  vone : List VReg := []
  mults : List Nat := []
  ps : List PReg := []
  barred : Bool := false
  aV : Bool := false
  bV : Bool := false
  mods : BitVec 6 := 0
  unguarded : Bool := false
  elem : Bool := false
  last0 : Bool := false
  dom : Option Trap := none
  nd : Bool := false

/-- The frame of the innermost open gate call: its first byte in State.mem (18 R410). -/
def State.frameAt (s : State) (h : Nat) : Nat :=
  let a := s.hart h
  match a.gcalls with
  | [] => storeBase (tileOf h) + a.gframe.base.toNat / 4096 * 4096
  | g :: _ => storeBase (tileOf h) + (a.gframe.base.toNat / 4096 + a.gframe.used.toNat - g.units) * 4096 % 2 ^ 21

/-- VMASK of the innermost open call, held in its frame (18 R411). -/
def State.vmask (s : State) (h : Nat) : Byte := s.byte (s.frameAt h + 0xA8)

/-- A limit of 04 R140 that the instruction meets inside a gate call. -/
def State.gateBars (s : State) (h : Nat) (c : Ctl) (hd : Head) : Bool :=
  decide ((s.hart h).gdepth ≠ 0) &&
    (hd.barred
      || (!hd.unguarded && decide (8 ≤ c.gpred.toNat) && decide (c.gpred.toNat < 96))
      || hd.ps.any (fun p => decide (8 ≤ p.toNat))
      || (hd.vs ++ hd.vone).any (fun v => !(s.vmask h).getLsbD (v.toNat / 8)))

/-- Steps 4 to 7 of 03 R95 for the instruction of hart `cur`, then `k` with the decode-time WFLAG bits. -/
def State.issue (s : State) (c : Ctl) (hd : Head) (k : BitVec 13 → State) : State :=
  let h := s.cur
  let a := s.hart h
  if !(hd.vs.all (fun v => decide (v.toNat % a.rc = 0)) && hd.mults.all (fun n => decide (n % a.rc = 0))) then s.trapHere h (trapIll { step := 4, field := 0 })
  else if s.gateBars h c hd then s.trapHere h (trapDom 4 0)
  else
    match hd.dom with
    | some t => s.trapHere h t
    | none =>
      if hd.nd && a.kahn then s.trapHere h trapNd
      else
        let w := decodeFlags c hd.mods hd.unguarded hd.aV hd.bV hd.last0
        if hd.elem then
          if a.vl = 0 then s.retire h c w else k w
        else if hd.unguarded || a.guard0 c then k w
        else s.retire h c w

/-- An instruction whose whole effect is a new value of the hart's registers (04 R107). -/
def State.onHart (s : State) (c : Ctl) (hd : Head) (f : Hart → Hart) : State :=
  s.issue c hd fun w => (s.modHart s.cur f).retire s.cur c w

/-- An instruction whose whole effect is to write x[D]. -/
def State.onX (s : State) (c : Ctl) (mods : BitVec 6) (d : XReg) (f : Hart → W64) : State :=
  s.onHart c { mods := mods } fun a => a.wx d (f a)

end Sys2Proof.Machine
end

