-- ==== Sys2Proof/Machine/Pointers.lean ====
section
/-! DEFINITION. Generic pointers and their windows (07 R204, 18 R388, R389), node ids (10 R299) and where links lead (10 R286). -/

namespace Sys2Proof.Machine

/-- Bits [63:62]. -/
def winOf (p : W64) : Nat := (p.extractLsb' 62 2).toNat
/-- Offset in a tile store, of window 00 or 01. -/
def offOf (p : W64) : Nat := (p.extractLsb' 0 21).toNat
/-- Tile id of a window-01 pointer. -/
def tileIdOf (p : W64) : Nat := (p.extractLsb' 32 10).toNat
/-- Virtual address of a window-10 or window-11 pointer. -/
def vaOf (p : W64) : Nat := (p.extractLsb' 0 43).toNat
/-- Node id of a window-11 pointer. -/
def nodeOf (p : W64) : Nat := (p.extractLsb' 43 19).toNat

/-- The bits a window leaves unused are zero (18 R388). -/
def ptrValid (p : W64) : Bool :=
  match winOf p with
  | 0 => decide (p.extractLsb' 21 41 = 0)
  | 1 => decide (p.extractLsb' 42 20 = 0) && decide (p.extractLsb' 21 11 = 0)
  | 2 => decide (p.extractLsb' 43 19 = 0)
  | _ => true

/-- The coordinates of a node id (10 R299). -/
def nodeX (n : Nat) : Nat := n % 4
def nodeY (n : Nat) : Nat := n / 4 % 4
def nodeZ (n : Nat) : Nat := n / 16 % 128
def nodeW (n : Nat) : Nat := n / 2048 % 256

/-- The reset routes between modules (10 R286, R299): W, then Z, then Y, then X, by the plain coordinate difference; 8 is the
local mesh. -/
def defaultPort (here there : Nat) : Nat :=
  if nodeW here < nodeW there then 6 else if nodeW there < nodeW here then 7
  else if nodeZ here < nodeZ there then 4 else if nodeZ there < nodeZ here then 5
  else if nodeY here < nodeY there then 2 else if nodeY there < nodeY here then 3
  else if nodeX here < nodeX there then 0 else if nodeX there < nodeX here then 1
  else 8

/-- The sizes of the Z and W tori (10 R299; log 33). -/
def torusZ : Nat := Config.sizeZ % 128 + 1
def torusW : Nat := Config.sizeW % 256 + 1

/-- The shorter way round a torus, and the + way when both ways are equal (10 R300). -/
def shorterWay (size here there plus : Nat) : Nat :=
  let up := (there + size - here) % size
  if up ≤ size - up then plus else plus + 1

/-- The routes that Wilnil writes (10 R300): those of `defaultPort`, but the shorter way round each torus to a node of the system. -/
def torusPort (here there : Nat) : Nat :=
  if torusZ ≤ nodeZ there || torusW ≤ nodeW there then defaultPort here there
  else if nodeW here ≠ nodeW there then shorterWay torusW (nodeW here) (nodeW there) 6
  else if nodeZ here ≠ nodeZ there then shorterWay torusZ (nodeZ here) (nodeZ there) 4
  else defaultPort here there

/-- The node at the other end of port l of node n; none where the port is left unconnected (10 R299). X and Y are meshes. -/
def peerOf (n l : Nat) : Option Nat :=
  let z := n - 16 * nodeZ n
  let w := n - 2048 * nodeW n
  match l with
  | 0 => if nodeX n < 3 then some (n + 1) else none
  | 1 => if 0 < nodeX n then some (n - 1) else none
  | 2 => if nodeY n < 3 then some (n + 4) else none
  | 3 => if 0 < nodeY n then some (n - 4) else none
  | 4 => if torusZ = 1 then none else some (z + 16 * ((nodeZ n + 1) % torusZ))
  | 5 => if torusZ = 1 then none else some (z + 16 * ((nodeZ n + torusZ - 1) % torusZ))
  | 6 => if torusW = 1 then none else some (w + 2048 * ((nodeW n + 1) % torusW))
  | 7 => if torusW = 1 then none else some (w + 2048 * ((nodeW n + torusW - 1) % torusW))
  | _ => none

/-- Port l of node n crosses the dateline of its torus: the link between coordinate 0 and the largest (10 R300; log 33). -/
def crosses (n l : Nat) : Bool :=
  match l with
  | 4 => decide (nodeZ n + 1 = torusZ)
  | 5 => decide (nodeZ n = 0)
  | 6 => decide (nodeW n + 1 = torusW)
  | 7 => decide (nodeW n = 0)
  | _ => false

/-- A link station's routing entry for a node, in a bank (10 R286, R300). -/
def State.linkRoute (s : State) (l : Nat) (bank : Bool) (node : Nat) : Nat :=
  let k := s.link l
  let old := if k.torus then torusPort s.node node else defaultPort s.node node
  (mget (BitVec.ofNat 8 old) (if bank then k.route1 else k.route0) node).toNat

/-- A node other than this one to which the link stations hold a route (18 R388). -/
def State.routed (s : State) (node : Nat) : Bool :=
  decide (node ≠ s.node) && decide (s.linkRoute 0 s.inj node < 8)

/-- The tile or node that a pointer names beside its window. -/
def ptrHome (p : W64) : Nat :=
  match winOf p with
  | 1 => tileIdOf p
  | 3 => nodeOf p
  | _ => 0

/-- Two bytes lie inside one window (18 R389). -/
def State.sameWindow (s : State) (a z : W64) : Bool :=
  ptrValid a && ptrValid z && decide (winOf a = winOf z) && decide (ptrHome a = ptrHome z)
    && (decide (winOf a ≠ 3) || s.routed (nodeOf a))

/-- An access of n bytes at a lies inside one window (18 R389). -/
def State.inWindow (s : State) (a : W64) (n : Nat) : Bool := s.sameWindow a (a + BitVec.ofNat 64 (n - 1))

/-- Windows an instruction accepts (07 R204), by number. -/
def winIn (ws : List Nat) (p : W64) : Bool := ws.any (fun w => decide (winOf p = w))

/-- The WIN and then ALIGN check of an address (07 R204, 16 R362). -/
def State.ptrTrap (s : State) (ws : List Nat) (a : W64) (n align : Nat) : Option Trap :=
  if !winIn ws a || !s.inWindow a n then some (trapWin a)
  else if a.toNat % align ≠ 0 then some (trapAlign a align)
  else none

end Sys2Proof.Machine
end

