-- ==== Sys2Proof/Machine/Guard.lean ====
section
/-! DEFINITION. Store guards and execute-only code (01 R36, 18 R390 to R392), and race detection in tile stores (14 R343 to
R350). -/

namespace Sys2Proof.Machine

/-- Why an owner does not perform an access; byte counts are from the access's first byte. -/
inductive AErr where
  | guard (byte : Nat)
  | mmx (report : BitVec 8)
  | page (byte : Nat)
  | prot (byte : Nat)
  | poison (byte : Nat)
  | fatal
  deriving DecidableEq, Repr

/-- A window that is enabled for the ASID and covers the line of offset o (01 R36). -/
def guardCovers (g : W64) (asid : BitVec 16) (o : Nat) : Bool :=
  let line := o / 64
  g.getLsbD 63 && decide (g.extractLsb' 43 16 = asid) && decide ((g.extractLsb' 6 15).toNat ≤ line)
    && decide (line ≤ (g.extractLsb' 28 15).toNat)

/-- The first window that covers o decides (18 R390). -/
def guardFor : List W64 → BitVec 16 → Nat → Option W64
  | [], _, _ => none
  | g :: r, asid, o => if guardCovers g asid o then some g else guardFor r asid o

/-- The eight windows of a hart. -/
def Hart.windows (a : Hart) : List W64 := (List.range 8).map a.guardReg
/-- The 32 windows of a tile, in order of hart and then n (18 R391). -/
def State.tileWindows (s : State) (t : Nat) : List W64 := (hartsOf t).flatMap fun h => (s.hart h).windows

/-- The largest XBND among the tile's harts (18 R392). -/
def State.execOnly (s : State) (t : Nat) : Nat := (hartsOf t).foldl (fun m h => max m (s.hart h).xbnd.toNat) 0

/-- What an access does: reads, writes, and whether it is synchronising, atomic, and a write that follows its own release
within one instruction (14 R337, R346, R347). -/
structure AccKind where
  rd : Bool
  wr : Bool
  sync : Bool
  atomic : Bool
  afterRel : Bool
  /-- checked as a write that then writes nothing: a CAS that fails (07 R229) -/
  silent : Bool := false
  deriving DecidableEq, Repr

def kRead : AccKind := { rd := true, wr := false, sync := false, atomic := false, afterRel := false }
def kWrite : AccKind := { rd := false, wr := true, sync := false, atomic := false, afterRel := false }

/-- The lines an access of n bytes at o touches: each with the first byte of the access in it. -/
def linesOf (o n : Nat) : List (Nat × Nat) :=
  (List.range ((o + n - 1) / 64 + 1 - o / 64)).map fun i => (o / 64 + i, max o ((o / 64 + i) * 64))

/-- The guard's verdict on the lines of an access: the first refused byte, or the lines that are race-checked. -/
def guardLines (ws : List W64) (asid : BitVec 16) (xo : Nat) (k : AccKind) : List (Nat × Nat) → Except Nat (List Nat)
  | [] => .ok []
  | (line, first) :: r =>
    match guardFor ws asid first with
    | none => .error first
    | some g =>
      if first < xo || (k.rd && !g.getLsbD 61) || (k.wr && !g.getLsbD 60) then .error first
      else
        match guardLines ws asid xo k r with
        | .error b => .error b
        | .ok ls => .ok (if g.getLsbD 62 then line :: ls else ls)

/-! ### Clocks (14 R344, R346) -/

def Tile.clkAt (t : Tile) (a n : Nat) : Nat := mget 0 t.clk (8 * a + n)
def Tile.rclkAt (t : Tile) (a n : Nat) : Nat := mget 0 t.rclk (8 * a + n)

/-- Clear every race tag and clock of the tile (14 R350). -/
def Tile.raceReset (t : Tile) : Tile := { t with clk := [], rclk := [], tags := [] }

/-- Set row a of a clock matrix. -/
def setRow (m : SMap Nat) (a : Nat) (f : Nat → Nat) : SMap Nat :=
  (List.range 8).foldl (fun m n => mset 0 m (8 * a + n) (f n)) m

/-- A release by agent a; an epoch above 65,535 resets first (14 R346, R350). -/
def Tile.release (t : Tile) (a : Nat) : Tile :=
  let t := if 65535 ≤ t.clkAt a a then t.raceReset else t
  { t with rclk := setRow t.rclk a (t.clkAt a), clk := mset 0 t.clk (8 * a + a) (t.clkAt a a + 1) }

/-- The wider join: CLK(a) with RCLK of all eight agents (14 R346). -/
def Tile.joinAll (t : Tile) (a : Nat) : Tile :=
  { t with clk := setRow t.clk a fun n => (List.range 8).foldl (fun m b => max m (t.rclkAt b n)) (t.clkAt a n) }

def Tile.tag (t : Tile) (line : Nat) : RaceTag := mget .init t.tags line

/-- An acquire that reads a line of its own tile: CLK(a) with the line's SCLK (14 R346). -/
def Tile.joinLine (t : Tile) (a line : Nat) : Tile :=
  { t with clk := setRow t.clk a fun n => max (t.clkAt a n) (mget 0 (t.tag line).sclk n) }

/-- The race report of a checked access by agent b to a line (14 R347, R348). -/
def Tile.raceFinds (t : Tile) (line b : Nat) (k : AccKind) : Option (BitVec 8) :=
  let g := t.tag line
  let report := fun (kind agent : Nat) => BitVec.ofNat 8 ((if k.sync then 32 else 0) + kind * 8 + agent)
  let stale := g.wv && decide (g.wa ≠ b) && !(k.sync && g.ws) && decide (t.clkAt b g.wa < g.we)
  if k.rd && stale then some (report 1 g.wa)
  else if k.wr && stale then some (report 2 g.wa)
  else if k.wr then
    match (List.range 8).find? (fun n => decide (n ≠ b) && g.rm.getLsbD n && decide (t.clkAt n n = mget 0 g.re n)) with
    | some n => some (report 3 n)
    | none => none
  else none

/-- The tag after an access by agent b (14 R347). -/
def Tile.raceNote (t : Tile) (b : Nat) (k : AccKind) (line : Nat) : Tile :=
  let g := t.tag line
  let g := if k.rd && !k.sync && decide (b ≠ 5) && decide (b ≠ 7) then
      { g with rm := g.rm ||| BitVec.twoPow 8 b, re := mset 0 g.re b (t.clkAt b b) }
    else g
  let g := if k.wr && !k.silent then
      { g with
        wv := true, wa := b, ws := k.sync
        we := if k.afterRel then t.rclkAt b b else t.clkAt b b
        rm := 0
        sclk := (List.range 8).foldl (fun m n =>
          mset 0 m n (if k.atomic then max (mget 0 g.sclk n) (t.rclkAt b n) else t.rclkAt b n)) g.sclk }
    else g
  { t with tags := mset .init t.tags line g }

/-- The first race among checked lines. -/
def Tile.raceScan (t : Tile) (b : Nat) (k : AccKind) : List Nat → Option (BitVec 8)
  | [] => none
  | l :: r => match t.raceFinds l b k with | some x => some x | none => t.raceScan b k r

/-- An access that touches the given lines of tile t's store, by agent b under the windows ws and the ASID: refused, or the
tile with its tags updated. Agents 4, 5 and 7 join before every access (14 R346). -/
def State.linesAccess (s : State) (t b : Nat) (ws : List W64) (asid : BitVec 16) (o : Nat) (k : AccKind)
    (lines : List (Nat × Nat)) : Except AErr State :=
  match guardLines ws asid (s.execOnly t) k lines with
  | .error first => .error (.guard (first - o))
  | .ok checked =>
    let tl := s.tile t
    let tl := if b = 4 || b = 5 || b = 7 then tl.joinAll b else tl
    match tl.raceScan b k checked with
    | some rep => .error (.mmx rep)
    | none => .ok (s.setTile t (lines.foldl (fun tl l => tl.raceNote b k l.1) tl))

def State.tileAccess (s : State) (t b : Nat) (ws : List W64) (asid : BitVec 16) (o n : Nat) (k : AccKind) :
    Except AErr State := s.linesAccess t b ws asid o k (linesOf o n)

/-- The first poisoned byte that an access of n bytes at physical place a meets: any for a read; for a write, one in a unit
that it does not cover whole (19 R430). -/
def State.poisonMet (s : State) (a n : Nat) (k : AccKind) : Option Nat :=
  if k.rd then firstPoison s.poison a n
  else firstPoison (s.poison.filter fun u => !(decide (a ≤ u) && decide (u + unitLen u ≤ a + n))) a n

/-- An AErr as the trap of an access at pointer p (07 R205, 16 R360). -/
def AErr.trap (e : AErr) (p : W64) (wr : Bool) : Trap :=
  match e with
  | .guard b => trapGuard (p + BitVec.ofNat 64 b) wr false
  | .mmx r => trapMmx p r
  | .page b => trapPage (p + BitVec.ofNat 64 b) wr
  | .prot b => trapGuard (p + BitVec.ofNat 64 b) wr true
  | .poison _ => trapPoisonMem p
  | .fatal => trapPage p wr

/-- An AErr as the refusal reason of a posted write (07 R220). -/
def AErr.reason : AErr → BitVec 4
  | .guard _ => 1
  | .page _ => 2
  | .prot _ => 3
  | .mmx _ => 4
  | .poison _ => 5
  | .fatal => 7

/-- A window-00 access of hart h at pointer p: guard, race check, poison (07 R205, 16 R362 order). -/
def State.localAccess (s : State) (h : Nat) (p : W64) (n : Nat) (k : AccKind) : Except AErr State :=
  let t := tileOf h
  let a := s.hart h
  match s.tileAccess t (h % 4) a.windows a.asid (offOf p) n k with
  | .error e => .error e
  | .ok s1 =>
    match s.poisonMet (storeBase t + offOf p) n k with
    | some u => .error (.poison (u - (storeBase t + offOf p)))
    | none => .ok s1

end Sys2Proof.Machine
end

