-- ==== Sys2Proof/Machine/Translate.lean ====
section
/-! DEFINITION. Translation at stations (18 R394 to R398, R402) and the physical address map (19 R422). -/

namespace Sys2Proof.Machine

/-- First byte of the management bridge (19 R422). -/
def bridgeBase : Nat := 0xF00000000000

/-- A populated physical byte (19 R422). -/
def populated (a : Nat) : Bool :=
  decide (a < 0x006000000000)
    || (decide (0x010000000000 ≤ a) && decide (a < 0x010000000000 + 3072000000000))
    || (decide (0x080000000000 ≤ a) && decide (a < 0x080000000000 + min Config.cxlBytes 0x080000000000))
    || (decide (bridgeBase ≤ a) && decide (a < bridgeBase + 0x100000000))

/-- Every byte of a run lies in one populated range: its ends are populated and in the same 2^40-aligned region. -/
def populatedRun (a n : Nat) : Bool :=
  populated a && populated (a + n - 1) && decide (a / 2 ^ 43 = (a + n - 1) / 2 ^ 43)
    && (decide (0x006000000000 ≤ a) || decide (a + n ≤ 0x006000000000))
    && (decide (0x080000000000 ≤ a) || decide (a + n ≤ 0x010000000000 + 3072000000000))

/-- The station that serves a physical address (19 R422). -/
def servedBy (a : Nat) : Nat :=
  if a < 0x006000000000 then a / 4096 % 16
  else if a < 0x080000000000 then 16 + a / 4096 % 4
  else if a < bridgeBase then 19
  else 29

/-- Fields of a table entry (18 R396). -/
def xeV (e : W64) : Bool := e.getLsbD 63
def xeLeaf (e : W64) : Bool := e.getLsbD 62
def xePa (e : W64) : Nat := (e.extractLsb' 8 40).toNat * 256
def xeBad (e : W64) : Bool := !xeV e || decide (e.extractLsb' 48 9 ≠ 0) || decide (e.extractLsb' 0 8 ≠ 0)

/-- Walk the levels, each given by its lowest index bit and its number of index bits (18 R395, R397). -/
def State.walkLevels (s : State) (asid : BitVec 16) (va : Nat) (table : Nat) : List (Nat × Nat) → Option Leaf
  | [] => none
  | (lo, n) :: r =>
    let at_ := table + 8 * (va / 2 ^ lo % 2 ^ n)
    let e := s.peek64 at_
    if xeBad e then none
    else if xeLeaf e then
      let pa := xePa e
      if pa % 2 ^ lo ≠ 0 || !populatedRun pa (2 ^ lo) then none
      else some {
        asid := asid, va := va - va % 2 ^ lo, pa := pa, size := 2 ^ lo
        rd := e.getLsbD 61, wr := e.getLsbD 60, pin := e.getLsbD 59, at_ := at_ }
    else s.walkLevels asid va (xePa e) r

/-- The walk of a virtual address under an ASID (18 R395). -/
def State.walk (s : State) (asid : BitVec 16) (va : Nat) : Option Leaf :=
  let root := s.peek64 (s.xlBase.toNat + 8 * asid.toNat)
  if xeBad root || xeLeaf root then none
  else s.walkLevels asid va (xePa root) [(38, 5), (30, 8), (21, 9), (16, 5)]

def Leaf.covers (l : Leaf) (asid : BitVec 16) (va : Nat) : Bool :=
  decide (l.asid = asid) && decide (l.va ≤ va) && decide (va < l.va + l.size)

/-- A station's translation of a demand access: one it caches, or that of its walk, which it then caches (18 "A station caches the
translations it has walked", R402). The memory and second-tier stations cache, which are those that a shoot-down reaches (18 R401, R403). -/
def State.leafFor (s : State) (st : Nat) (asid : BitVec 16) (va : Nat) : Option Leaf × State :=
  let note := fun (x : Station) => { x with recent := (asid, va) :: x.recent }
  match (s.station st).tlb.find? (fun l => l.covers asid va) with
  | some l => (some l, s.modStation st note)
  | none =>
    match s.walk asid va with
    | none => (none, s)
    | some l => (some l, s.modStation st fun x => if st < 20 then { note x with tlb := l :: x.tlb } else note x)

/-- Set A, and D for a write, in the leaf by one atomic update (18 R397). -/
def State.setAD (s : State) (l : Leaf) (wr : Bool) : State :=
  let e := s.peek64 l.at_
  let e' := e ||| BitVec.twoPow 64 58 ||| (if wr then BitVec.twoPow 64 57 else 0)
  if e' = e then s else s.poke64 l.at_ e'

/-- Translate one address for a demand access (18 R397, R398). `remote` is a window-11 access, `pair` a station pair's: both
need PIN = 1. -/
def State.translate (s : State) (st : Nat) (asid : BitVec 16) (va : Nat) (k : AccKind) (remote : Bool) :
    Except AErr (Nat × State) :=
  match s.leafFor st asid va with
  | (none, _) => .error (if remote then .fatal else .page 0)
  | (some l, s1) =>
    if (k.rd && !l.rd) || (k.wr && !l.wr) then .error (.prot 0)
    else if remote && !l.pin then .error .fatal
    else .ok (l.pa + (va - l.va), s1.setAD l k.wr)

/-- An error of the part of an access that begins i bytes in. -/
def AErr.shift (e : AErr) (i : Nat) : AErr :=
  match e with
  | .guard b => .guard (b + i) | .page b => .page (b + i) | .prot b => .prot (b + i) | .poison b => .poison (b + i)
  | .mmx r => .mmx r | .fatal => .fatal

/-- Translate a run: at most two pages of 64 KiB for runs up to 64 KiB (18 R397). -/
def State.translateRun (s : State) (st : Nat) (asid : BitVec 16) (va n : Nat) (k : AccKind) (remote : Bool) :
    Except AErr (List (Nat × Nat) × State) :=
  let first := 65536 - va % 65536
  if n ≤ first then
    match s.translate st asid va k remote with
    | .error e => .error e
    | .ok (pa, s1) => .ok ([(pa, n)], s1)
  else
    match s.translate st asid va k remote with
    | .error e => .error e
    | .ok (pa, s1) =>
      match s1.translate st asid (va + first) k remote with
      | .error e => .error (e.shift first)
      | .ok (pb, s2) => .ok ([(pa, first), (pb, n - first)], s2)

/-- The same run under station pair or host rules, of any length: every 64 KiB piece (09 R261, 19 R421). -/
def State.translateAll (s : State) (st : Nat) (asid : BitVec 16) (k : AccKind) (pinned : Bool) :
    Nat → Nat → Nat → Option (List (Nat × Nat) × State)
  | _, _, 0 => some ([], s)
  | va, n, fuel + 1 =>
    if n = 0 then some ([], s)
    else
      let first := min n (65536 - va % 65536)
      match s.leafFor st asid va with
      | (none, _) => none
      | (some l, s1) =>
        if (k.rd && !l.rd) || (k.wr && !l.wr) || (pinned && !l.pin) then none
        else
          match (s1.setAD l k.wr).translateAll st asid k pinned (va + first) (n - first) fuel with
          | none => none
          | some (rs, s2) => some ((l.pa + (va - l.va), first) :: rs, s2)

/-- The bytes of physical runs. -/
def State.peekRuns (s : State) : List (Nat × Nat) → List Byte
  | [] => []
  | (a, n) :: r => s.peek a n ++ s.peekRuns r

/-- Write bytes over physical runs. -/
def State.pokeRuns (s : State) : List (Nat × Nat) → List Byte → State
  | [], _ => s
  | (a, n) :: r, bs => (s.poke a (bs.take n)).pokeRuns r (bs.drop n)

/-- The first n bytes of a list of runs, and the rest. -/
def cutRuns : List (Nat × Nat) → Nat → List (Nat × Nat) × List (Nat × Nat)
  | [], _ => ([], [])
  | (a, k) :: r, n =>
    if n = 0 then ([], (a, k) :: r)
    else if k ≤ n then
      let x := cutRuns r (n - k)
      ((a, k) :: x.1, x.2)
    else ([(a, n)], (a + n, k - n) :: r)

/-- How many of the leading bytes of runs station st serves, granule by granule (19 R422); the first argument bounds the granules. -/
def servedBytes : Nat → Nat → List (Nat × Nat) → Nat
  | 0, _, _ => 0
  | _, _, [] => 0
  | f + 1, st, (a, n) :: r =>
    if servedBy a ≠ st then 0
    else
      let k := min n (4096 - a % 4096)
      k + servedBytes f st (if k = n then r else (a + k, n - k) :: r)

/-- The first poison that an access to physical runs meets. -/
def State.poisonRuns (s : State) (k : AccKind) : Nat → List (Nat × Nat) → Option Nat
  | _, [] => none
  | i, (a, n) :: r =>
    match s.poisonMet a n k with
    | some u => some (i + (u - a))
    | none => s.poisonRuns k (i + n) r

end Sys2Proof.Machine
end

