-- ==== Sys2Proof/Machine/Net.lean ====
section
/-! DEFINITION. Packets: what each is, its virtual channel and length, where it enters the mesh, and taking it at its endpoint
(10 R276 to R281, R287). -/

namespace Sys2Proof.Machine

/-- Endpoint of station n (10 R277). -/
def stEp (n : Nat) : Nat := 1024 + n

/-- The virtual channel of a message (10 R279). -/
def Msg.vc : Msg → Nat
  | .tokens _ _ _ _ => 0
  | .write _ _ _ | .skip _ _ _ _ _ | .rest _ _ _ _ | .member _ _ _ _ | .piece _ _ _ _ _ | .arrive _ _ _ _ _ => 1
  | .ack _ _ _ | .nack _ _ _ _ | .readRep _ _ _ | .atomicRep _ _ _ | .slots _ _ _ _ | .grant _ _ _ _ => 2
  | .elemsRep _ _ _ _ _ | .pieceRep _ _ _ | .memberRep _ _ _ _ | .pairDone _ _ _ => 2
  | .pairPart _ _ wr _ _ _ _ => if wr then 1 else 3
  | .read _ _ _ _ _ _ | .readOn _ _ _ _ _ _ | .atomic _ _ _ _ _ _ _ | .elems _ _ _ _ _ _ _ => 3
  | .load _ _ => 4

/-- The hart that a message comes from or answers. -/
def Msg.hart : Msg → Option Nat
  | .write h _ _ | .ack h _ _ | .nack h _ _ _ | .skip h _ _ _ _ | .read h _ _ _ _ _ | .readRep h _ _ | .elems h _ _ _ _ _ _ => some h
  | .elemsRep h _ _ _ _ | .readOn h _ _ _ _ _ | .rest h _ _ _ | .member h _ _ _ | .memberRep h _ _ _ | .piece h _ _ _ _ => some h
  | .arrive h _ _ _ _ | .pieceRep h _ _ | .atomic h _ _ _ _ _ _ | .atomicRep h _ _ => some h
  | .pairPart _ _ _ _ _ _ _ | .pairDone _ _ _ | .tokens _ _ _ _ | .slots _ _ _ _ | .grant _ _ _ _ | .load _ _ => none

/-- Payload bytes of a message, which fix its flits: 48 in the head flit, 64 in each later one (10 "Packets"). -/
def Msg.bytes : Msg → Nat
  | .tokens _ _ _ ts => 8 * ts.length
  | .write _ _ e | .member _ _ e _ => e.data.length
  | .elemsRep _ _ _ _ rs => (rs.map fun r => match r.2 with | .data bs => bs.length | _ => 0).foldl (· + ·) 0
  | .readRep _ _ (.data bs) | .atomicRep _ _ (.data bs) => bs.length
  | .load _ bs | .piece _ _ _ bs _ | .readOn _ _ _ _ _ bs => bs.length
  | .rest _ _ e d => e.data.length - d
  | .pairPart _ _ _ _ _ ds bs => ds.length + bs.length
  | .pairDone _ _ ts => 8 * ts.length
  | _ => 0

def Msg.flits (m : Msg) : Nat := if m.bytes ≤ 48 then 1 else 1 + (m.bytes - 48 + 63) / 64

/-- Channel packets are counted as injected and ejected for their partition (09 R267). -/
def Msg.chanPart : Msg → Option Nat
  | .tokens p _ _ _ | .slots p _ _ _ | .grant p _ _ _ => some p
  | _ => none

/-- The attachment tiles of a station (10 R277): a memory station has two. -/
def stationTiles (n : Nat) : List Nat :=
  let xy := fun (x y : Nat) => 32 * y + x
  if n < 8 then [xy 0 (4 * n + 1), xy 0 (4 * n + 2)]
  else if n < 16 then [xy 31 (4 * (n - 8) + 1), xy 31 (4 * (n - 8) + 2)]
  else if n < 20 then [xy (8 * (n - 16) + 4) 0]
  else if n = 20 then [xy 15 31]
  else if n < 29 then [xy ([2, 5, 8, 11, 20, 23, 26, 29].getD (n - 21) 2) 31]
  else [xy 16 31]
def stationTile (n : Nat) : Nat := (stationTiles n).headD 0

/-- The station at the X port of junction t, if it has one. -/
def stationAt (t : Nat) : Option Nat := (List.range 30).find? fun n => (stationTiles n).contains t

/-- Where an endpoint's packets leave by the reset routes: its junction and port (10 R276, R277, R286). -/
def epJunction (e : Nat) : Nat × Nat := if e < 1024 then (e, 4) else (stationTile (e - 1024), 5)

/-- Where endpoint e injects a packet for endpoint d: of a memory station's two X ports the one that d picks, so that packets of one source
and destination take one way (10 R277, R281; log 25). -/
def injectAt (e d : Nat) : Nat × Nat :=
  if e < 1024 then (e, 4)
  else
    let ts := stationTiles (e - 1024)
    (ts.getD (d % max 1 ts.length) 0, 5)

/-- The link station whose tables route a packet that came from endpoint e to another node: the one it entered by, or else that of port 0
(10 R286, R287; log 25). -/
def srcLink (e : Nat) : Nat := if 1045 ≤ e ∧ e < 1053 then e - 1045 else 0

/-- A destination inside this module: another node is reached through the link station its route names (10 R286). -/
def State.localEp (s : State) : Dest → Nat
  | .ep e => e
  | .node n => stEp (21 + s.linkRoute 0 s.inj n)
  | .rect x0 _ y0 _ => 32 * y0 + x0

/-- The port that a packet for another node leaves the module by, under its own bank; 8 is the local mesh. -/
def State.exitPort (s : State) (p : Packet) (n : Nat) : Nat := s.linkRoute (srcLink p.src) p.bank n

/-- The endpoint a packet goes to in this module, under its own bank (10 R286, R287). -/
def State.packetEp (s : State) (p : Packet) : Nat :=
  match p.dst with
  | .node n => stEp (21 + s.exitPort p n)
  | d => s.localEp d

/-- The flits of a packet. -/
def flitsOf (p : Packet) : List Flit := (List.range p.msg.flits).map fun i => { pkt := p, idx := i, n := p.msg.flits }

/-- The flits waiting at input index 6 × port + VC: 8 at most (10 R279). -/
def Junction.buf (j : Junction) (idx : Nat) : List Flit := mget [] j.bufs idx

/-- Flits that wait to be injected take the free places of an input's buffer. -/
def Junction.refill (j : Junction) (idx : Nat) : Junction :=
  let q := mget [] j.inq idx
  let n := 8 - (j.buf idx).length
  if q.isEmpty || n = 0 then j else { j with bufs := mput j.bufs idx (j.buf idx ++ q.take n), inq := mput j.inq idx (q.drop n) }

/-- Flits enter behind those of a junction's input from the next junction, which had a credit for each. -/
def State.enqueue (s : State) (j port vc : Nat) (fs : List Flit) : State :=
  s.modTile j fun t => { t with jn := { t.jn with
    bufs := mput t.jn.bufs (6 * port + vc) (t.jn.buf (6 * port + vc) ++ fs.map fun (f : Flit) => { f with at_ := s.tick }) } }

/-- Flits come to wait behind those of a junction's port T or X. -/
def State.queueAt (s : State) (j port vc : Nat) (fs : List Flit) : State :=
  s.modTile j fun t => { t with jn := { t.jn with
    inq := mput t.jn.inq (6 * port + vc) (mget [] t.jn.inq (6 * port + vc) ++ fs.map fun (f : Flit) => { f with at_ := s.tick }) }.refill (6 * port + vc) }

/-- The packet is of partition p of this module: another module's harts and the packets that only pass through bear numbers of partitions of
their own. -/
def State.holds (s : State) (p : Nat) (q : Packet) : Bool :=
  decide (q.part = some p) && q.msg.hart.all (fun h => decide (h < 4096)) && (match q.dst with | .node _ => decide (q.home = s.node) | _ => true)

/-- The partition is stopped at a switch. -/
def State.frozen (s : State) (p : Option Nat) : Bool := p.any fun p => (s.part p).stopped

/-- The packet's partition, where that is stopped at a switch. -/
def State.frozenBy (s : State) (q : Packet) : Option Nat := q.part.filter fun p => s.holds p q && (s.part p).stopped

/-- Packets in flight under a bank (10 R288): one of a multicast for each tile of its rectangle. -/
def Packet.copies (p : Packet) : Nat :=
  match p.dst with
  | .rect x0 x1 y0 y1 => (x1 + 1 - x0) * (y1 + 1 - y0)
  | _ => 1
def State.addFlight (s : State) (bank : Bool) (n : Int) : State :=
  if bank then { s with flight1 := (s.flight1 + n).toNat } else { s with flight0 := (s.flight0 + n).toNat }

/-- Inject a packet that already has its number under the injection bank (10 R287). The host station and the link stations hold one of a
stopped partition (10 R290). -/
def State.inject (s : State) (p : Packet) : State :=
  let p := { p with bank := s.inj }
  match s.frozenBy p, decide (1044 ≤ p.src) && decide (p.src < 1053) with
  | some q, true => s.modPart q fun a => { a with late := a.late ++ [p] }
  | _, _ =>
    let (j, port) := injectAt p.src (s.packetEp p)
    (s.queueAt j port p.vc (flitsOf p)).addFlight p.bank p.copies

/-- One more channel packet that endpoint ep has injected for partition q, and one more that it has ejected (09 R267). -/
def State.countInj (s : State) (ep q : Nat) : State :=
  if ep < 1024 then s.modTile ep fun t => { t with inj := mput t.inj q (mget 0 t.inj q + 1) }
  else s.modStation (ep - 1024) fun x => { x with inj := mput x.inj q (mget 0 x.inj q + 1) }
def State.countEj (s : State) (ep q : Nat) : State :=
  if ep < 1024 then s.modTile ep fun t => { t with ej := mput t.ej q (mget 0 t.ej q + 1) }
  else s.modStation (ep - 1024) fun x => { x with ej := mput x.ej q (mget 0 x.ej q + 1) }

/-- The sums of a partition's counts over the device. -/
def State.injSum (s : State) (q : Nat) : Nat :=
  s.tiles.foldl (fun n e => n + mget 0 e.2.inj q) (s.stations.foldl (fun n e => n + mget 0 e.2.inj q) 0)
def State.ejSum (s : State) (q : Nat) : Nat :=
  s.tiles.foldl (fun n e => n + mget 0 e.2.ej q) (s.stations.foldl (fun n e => n + mget 0 e.2.ej q) 0)

/-- Send a message from an endpoint. -/
def State.send (s : State) (src : Nat) (dst : Dest) (prio : BitVec 2) (part : Option Nat) (m : Msg) : State :=
  let p : Packet := { id := s.nextPkt, src := src, dst := dst, vc := m.vc, prio := prio, bank := s.inj, part := part, hops := 0, home := s.node, dl := 0, msg := m }
  let s1 := { s with nextPkt := s.nextPkt + 1 }
  let s2 := match m.chanPart with
    | some q => s1.countInj src q
    | none => s1
  s2.inject p

/-- The packet that has arrived under a number. -/
def findPkt : List Packet → Nat → Option Packet
  | [], _ => none
  | p :: r, i => if p.id = i then some p else findPkt r i

/-- Take packet i from those that have arrived; a channel packet is counted as ejected and is progress (09 R267, 16 R370). -/
def State.take (s : State) (i : Nat) : Option (Packet × State) :=
  match findPkt s.arrived i with
  | none => none
  | some p =>
    let s1 := { s with arrived := s.arrived.filter fun q => decide (q.id ≠ i) }
    match p.msg.chanPart with
    | none => some (p, s1)
    | some q => some (p, (s1.countEj (s.localEp p.dst) q).progress (some q))

/-- Hold an arrived packet back: it stays at the end of those arrived. -/
def State.putBack (s : State) (p : Packet) : State := { s with arrived := s.arrived ++ [p] }

/-! ### Packets as bytes: where the manual names a header's fields and not their places (log 25) -/

/-- The bytes of a packet. -/
opaque packetImage : Packet → List Byte
/-- The packet that such bytes are, if they are one. -/
opaque packetRead : List Byte → Option Packet

/-- A packet as its flits of 64 bytes: its length in flits, which is never 0, comes first. -/
def packetBytes (p : Packet) : List Byte :=
  (toBytes 2 p.msg.flits ++ packetImage p ++ toBytes (64 * p.msg.flits) 0).take (64 * p.msg.flits)

/-- The packets that a run of bytes holds, and the bytes of one that is not complete. Where a length of 0 stands nothing follows but the
filling of its flit. -/
def readPackets : Nat → List Byte → List Packet × List Byte
  | 0, bs => ([], bs)
  | f + 1, bs =>
    let n := 64 * leNat (bs.take 2)
    if n = 0 then ([], [])
    else if bs.length < n then ([], bs)
    else
      let r := readPackets f (bs.drop n)
      ((packetRead ((bs.take n).drop 2)).toList ++ r.1, r.2)

/-- Packets whose bytes all lie within the first n of a run, and how many bytes of the next one do. -/
def wholePackets : List Packet → Nat → List Packet × Nat
  | [], n => ([], n)
  | p :: r, n =>
    if n < 64 * p.msg.flits then ([], n)
    else
      let x := wholePackets r (n - 64 * p.msg.flits)
      (p :: x.1, x.2)

/-- The class of a packet on port l of node n: its VC, and DL once it has crossed the dateline of this dimension (10 R300). -/
def packetClass (n l : Nat) (p : Packet) : Nat := 2 * p.vc + (if crosses n l || p.dl = l / 2 + 1 then 1 else 0)

/-- The queued packets of which no byte has been sent. -/
def Link.queued (k : Link) (n l : Nat) : List Packet :=
  let begun := k.tx.filterMap fun e => if e.2 = 0 then none else (k.outq.find? fun p => decide (packetClass n l p = e.1)).map fun p => p.id
  k.outq.filter fun p => !begun.contains p.id

/-- Without the queued packets numbered in `is`. -/
def Link.without (k : Link) (is : List Nat) : Link := { k with outq := k.outq.filter fun q => !is.contains q.id }

end Sys2Proof.Machine
end

