-- ==== Sys2Proof/Machine/Bridge.lean ====
section
/-! DEFINITION. The registers of the management bridge (19 R423, R424) and what reads and writes of them do: TSCHED (12 R316),
JARB (10 R282), JINJ (12 R318), GFRAME (18 R410), routing entries (10 R288), RTBANK, XLBASE (18 R394), XLINV (18 R401), GOVCTL
(19 R426), HDMA (19 R421), SBUDGET (12 R319), WDCFG (16 R370), SWCFG, SWBAR, SWCTL (16 R371), CKCFG, CKBASE (16 R377) and CKREQ
(19 R432). -/

namespace Sys2Proof.Machine

/-- A write that a register refuses has no effect and is counted (19 R424). -/
def State.bridgeRefuse (s : State) : State := { s with bridgeRefused := s.bridgeRefused + 1 }

/-- Bits [lo + n - 1 : lo] as a number. -/
def bitsAt (v : W64) (lo n : Nat) : Nat := (v.extractLsb' lo n).toNat

/-! ### A tile's registers -/

/-- Some hart of the tile is released and not stopped at a switch (12 R316). -/
def State.tileRuns (s : State) (t : Nat) : Bool :=
  (hartsOf t).any fun h => decide ((s.hart h).own ≠ .parked) && !(s.hart h).stopped

/-- CPB of hart h of a tile; unlisted is 128 (12 R316). -/
def Tile.cpbOf (t : Tile) (h : Nat) : Nat := mget 128 t.cpb h
/-- JINJ budget of a class; unlisted is 1,024 (12 R318). -/
def Tile.jinjOf (t : Tile) (vc : Nat) : Nat := mget 1024 t.jinj vc

def State.writeTsched (s : State) (t : Nat) (v : W64) : State :=
  let d : BitVec 2 := v.extractLsb' 32 2
  if d ≠ (s.tile t).div && s.tileRuns t then s.bridgeRefuse
  else s.modTile t fun x =>
    let b := (List.range 4).foldl (fun m h => mput m h (min 128 (bitsAt v (8 * h) 8))) x.cpb
    { x with div := d, cpb := b }

def Tile.tsched (t : Tile) : W64 :=
  BitVec.ofNat 64 (t.div.toNat * 2 ^ 32 + t.cpbOf 3 * 2 ^ 24 + t.cpbOf 2 * 2 ^ 16 + t.cpbOf 1 * 2 ^ 8 + t.cpbOf 0)

def State.writeJarb (s : State) (t : Nat) (v : W64) : State :=
  s.modTile t fun x =>
    { x with
      agemax := max 1 (bitsAt v 32 8)
      weight := (List.range 4).foldl (fun m k => mput m k (bitsAt v (8 * k) 8)) x.weight }

def Tile.weightOf (t : Tile) (k : Nat) : Nat := mget 1 t.weight k
def Tile.jarb (t : Tile) : W64 :=
  BitVec.ofNat 64 (t.agemax * 2 ^ 32 + t.weightOf 3 * 2 ^ 24 + t.weightOf 2 * 2 ^ 16 + t.weightOf 1 * 2 ^ 8 + t.weightOf 0)

def State.writeJinj (s : State) (t : Nat) (v : W64) : State :=
  s.modTile t fun x =>
    let b01 := mput (mput x.jinj 0 (min 1024 (bitsAt v 0 11))) 1 (min 1024 (bitsAt v 16 11))
    { x with jinj := mput b01 3 (min 1024 (bitsAt v 32 11)) }

def Tile.jinjReg (t : Tile) : W64 := BitVec.ofNat 64 (t.jinjOf 3 * 2 ^ 32 + t.jinjOf 1 * 2 ^ 16 + t.jinjOf 0)

/-- Refused while USED is not zero (18 R410). -/
def State.writeGframe (s : State) (h : Nat) (v : W64) : State :=
  if (s.hart h).gframe.used ≠ 0 then s.bridgeRefuse
  else s.modHart h fun a => { a with gframe := { size := v.extractLsb' 32 21, used := 0, base := v.extractLsb' 0 21 } }

def GFrame.word (g : GFrame) : W64 := BitVec.ofNat 64 (g.size.toNat * 2 ^ 32 + g.used.toNat * 2 ^ 21 + g.base.toNat)
/-- BASE with [11:0] ignored, and SIZE in bytes with [43:32] ignored. -/
def GFrame.start (g : GFrame) : Nat := g.base.toNat / 4096 * 4096
def GFrame.bytes (g : GFrame) : Nat := g.size.toNat / 4096 * 4096

/-! ### Routing -/

/-- RET0 and RET1: not the injection bank, and no packet in flight (10 R288). -/
def State.ret (s : State) (bank : Bool) : Bool :=
  if bank then !s.inj && decide (s.flight1 = 0) else s.inj && decide (s.flight0 = 0)

def State.writeRtbank (s : State) (v : W64) : State := { s with inj := v.getLsbD 0 }
def State.rtbank (s : State) : W64 :=
  BitVec.ofNat 64 ((if s.ret true then 512 else 0) + (if s.ret false then 256 else 0) + (if s.inj then 1 else 0))

/-- Refused unless the bank's RET bit is 1 (10 R288). -/
def State.writeJunctionRoute (s : State) (t : Nat) (bank : Bool) (e : Nat) (v : Byte) : State :=
  if !s.ret bank then s.bridgeRefuse
  else s.modTile t fun x =>
    if bank then { x with route1 := mput x.route1 e (v.setWidth 3) } else { x with route0 := mput x.route0 e (v.setWidth 3) }

def State.writeLinkRoute (s : State) (l : Nat) (bank : Bool) (node : Nat) (v : Byte) : State :=
  if !s.ret bank then s.bridgeRefuse
  else s.modLink l fun x =>
    if bank then { x with route1 := mput x.route1 node v } else { x with route0 := mput x.route0 node v }

/-- The default route of a junction: along X, then along Y, then out (10 R286). -/
def defaultRoute (t e : Nat) : Nat :=
  let (j, port) := epJunction e
  if t % 32 < j % 32 then 1 else if j % 32 < t % 32 then 3
  else if t / 32 < j / 32 then 2 else if j / 32 < t / 32 then 0
  else port

def State.junctionRoute (s : State) (t : Nat) (bank : Bool) (e : Nat) : Nat :=
  let r := if bank then (s.tile t).route1 else (s.tile t).route0
  (mget (BitVec.ofNat 3 (defaultRoute t e)) r e).toNat

/-! ### Device registers -/

def State.writeXlbase (s : State) (v : W64) : State :=
  if s.xlLock then s else { s with xlBase := BitVec.ofNat 48 (bitsAt v 19 29 * 2 ^ 19), xlLock := v.getLsbD 63 }
def State.xlbaseReg (s : State) : W64 := BitVec.ofNat 64 ((if s.xlLock then 2 ^ 63 else 0) + s.xlBase.toNat)

/-- A shoot-down goes to every memory and second-tier station (18 R401). -/
def State.writeXlinv (s : State) (v : W64) : State :=
  if s.xlBusy || decide (v.extractLsb' 61 2 = 3) then s
  else
    let s1 := { s with xlBusy := true, xlKind := v.extractLsb' 61 2, xlAsid := v.extractLsb' 43 16, xlVa := v.extractLsb' 16 27 }
    (List.range 20).foldl (fun s n => s.modStation n fun x => { x with shoot := true, ackDue := true }) s1
def State.xlinvReg (s : State) : W64 :=
  BitVec.ofNat 64 ((if s.xlBusy then 2 ^ 63 else 0) + s.xlKind.toNat * 2 ^ 61 + s.xlAsid.toNat * 2 ^ 43 + s.xlVa.toNat * 2 ^ 16)

/-- The fuses (19 R426). -/
def fuseTshut : Nat := 110
def fuseTthr : Nat := 95
def fusePmax : Nat := 3200
def fuseReg : W64 := BitVec.ofNat 64 (fuseTshut * 2 ^ 24 + fuseTthr * 2 ^ 16 + fusePmax)

def State.writeGovctl (s : State) (v : W64) : State := { s with plimit := BitVec.ofNat 16 (min fusePmax (bitsAt v 0 16)) }
def State.govctlReg (s : State) : W64 :=
  BitVec.ofNat 64 ((if s.thr then 2 ^ 40 else 0) + s.temp.toNat * 2 ^ 32 + s.pnow.toNat * 2 ^ 16 + s.plimit.toNat)

/-! ### HDMA windows (19 R421) -/

def State.hdmaRegA (s : State) (n : Nat) : W64 := mget 0 s.hdmaA n
def State.hdmaRegB (s : State) (n : Nat) : W64 := mget 0 s.hdmaB n
def hdmaMaskA (v : W64) : W64 := v &&& ~~~(BitVec.twoPow 64 59) &&& ~~~0xFFFF
def hdmaMaskB (v : W64) : W64 := v &&& 0x000FFFFF000FFFFF

/-- The new range of a window lies within the old one with the same mapping. -/
def hdmaWithin (a b a' b' : W64) : Bool :=
  let off := bitsAt b 0 20
  let len := bitsAt b 32 20
  let off' := bitsAt b' 0 20
  let len' := bitsAt b' 32 20
  decide (off ≤ off') && decide (off' + len' ≤ off + len) && decide (bitsAt a 16 27 + off' = bitsAt a' 16 27 + off)

/-- A write after LOCK that narrows: EN, RD, WR only from 1 to 0, the ASID unchanged, the range within. -/
def hdmaNarrows (a b a' b' : W64) : Bool :=
  (a.getLsbD 62 || !a'.getLsbD 62) && (a.getLsbD 61 || !a'.getLsbD 61) && (a.getLsbD 60 || !a'.getLsbD 60)
    && decide (a.extractLsb' 43 16 = a'.extractLsb' 43 16) && hdmaWithin a b a' b'

def State.writeHdma (s : State) (n : Nat) (second : Bool) (v : W64) : State :=
  let a := s.hdmaRegA n
  let b := s.hdmaRegB n
  let locked := a.getLsbD 63
  if second then
    let b' := hdmaMaskB v
    if locked && !hdmaNarrows a b a b' then s else { s with hdmaB := mset 0 s.hdmaB n b' }
  else
    let a' := hdmaMaskA v ||| (if locked then BitVec.twoPow 64 63 else 0)
    if locked && !hdmaNarrows a b a' b then s else { s with hdmaA := mset 0 s.hdmaA n a' }

/-! ### Partition registers -/

def State.wdcfg (s : State) (p : Nat) : W64 := (s.part p).wdPeriod.setWidth 64
/-- A SAVE, LOAD or checkpoint is in progress. -/
def Partition.busy (a : Partition) : Bool := a.savePend || a.loadPend || a.ckWriting
def Partition.swctl (a : Partition) : W64 :=
  BitVec.ofNat 64 ((if a.busy then 2 ^ 11 else 0) + (if a.stopped then 2 ^ 10 else 0))

/-- SWCTL is ignored while STOPPED = 0 or BUSY = 1 (16 R371); what it asks for is done by the station next. -/
def State.writeSwctl (s : State) (p : Nat) (v : W64) : State :=
  let a := s.part p
  if !a.stopped || a.busy then s.bridgeRefuse
  else s.setPart p { a with
    savePend := a.savePend || v.getLsbD 0, loadPend := a.loadPend || v.getLsbD 1, goPend := a.goPend || v.getLsbD 2 }

/-- GO of CKREQ is accepted at stage 7, while the partition is unbound or stopped and BUSY = 0 (19 R432). -/
def State.writeCkreq (s : State) (p : Nat) (v : W64) : State :=
  let a := s.part p
  if v.getLsbD 0 && (!a.bound || a.stopped) && !a.ckBusy && decide (s.bootstat = 7) then s.setPart p { a with ckGoPend := true, ckBusy := true }
  else s

def State.writePartReg (s : State) (p r : Nat) (v : W64) : State :=
  match r with
  | 0x00 => s.modPart p fun a => { a with wdPeriod := v.extractLsb' 0 32 }
  | 0x08 => s.modPart p fun a => { a with swBase := v.extractLsb' 0 43 }
  | 0x10 => s.modPart p fun a => { a with swBar := v }
  | 0x18 => s.writeSwctl p v
  | 0x20 => s.modPart p fun a => { a with ckEn := v.getLsbD 63, ckPeriod := v.extractLsb' 32 31 }
  | 0x28 => s.modPart p fun a => { a with ckSlotG := v.extractLsb' 48 11, ckBase := v.extractLsb' 0 43 }
  | 0x30 => s.writeCkreq p v
  | _ => s

def State.readPartReg (s : State) (p r : Nat) : W64 :=
  let a := s.part p
  match r with
  | 0x00 => s.wdcfg p
  | 0x08 => a.swBase.setWidth 64
  | 0x10 => a.swBar
  | 0x18 => a.swctl
  | 0x20 => BitVec.ofNat 64 ((if a.ckEn then 2 ^ 63 else 0) + a.ckPeriod.toNat * 2 ^ 32)
  | 0x28 => BitVec.ofNat 64 (a.ckSlotG.toNat * 2 ^ 48 + a.ckBase.toNat)
  | 0x30 => BitVec.ofNat 64 ((if a.ckBusy then 4 else 0) + (if a.ckFail then 2 else 0))
  | _ => 0

/-! ### Reports -/

/-- A ROM report as 64 bytes (16 R368). The manual names its contents and not their places (log 12); bit 0 of byte 63 marks a
fatal context error (18 R399). -/
def RomReport.bytes (r : RomReport) : List Byte :=
  toBytes 4 r.hart ++ toBytes 4 r.cause.toNat ++ bytes64 r.trappc ++ bytes64 r.trapcause ++ bytes64 r.trapaddr
    ++ bytes64 r.trapinfo ++ bytes64 r.addr ++ bytes64 r.pc ++ toBytes 7 0 ++ toBytes 1 (if r.fatal then 1 else 0)

/-- A fault-log record as 64 bytes (18 R399; places: log 12). -/
def XlFault.bytes (r : XlFault) : List Byte :=
  toBytes 8 r.asid.toNat ++ bytes64 r.va ++ toBytes 8 r.node ++ toBytes 8 r.ep ++ toBytes 32 (if r.write then 1 else 0)

/-- Eight bytes of a log, record by record. -/
def logWord (rs : List (List Byte)) (off : Nat) : W64 := le64 (((rs.getD (off / 64) []).drop (off % 64)).take 8)

/-! ### The address map (19 R423) -/

/-- An 8-byte read at an offset from the bridge's first byte; SPECDROP clears on read (18 R404). -/
def State.bridgeRead (s : State) (off : Nat) : W64 × State :=
  if off < 0x10000 then
    let t := off / 0x40
    let r := off % 0x40
    (if r = 0 then (s.tile t).tsched else if r = 8 then (s.tile t).jarb else if r = 0x10 then (s.tile t).jinjReg
      else if 0x20 ≤ r then (s.hart (4 * t + (r - 0x20) / 8)).gframe.word else 0, s)
  else if 0x02000000 ≤ off && off < 0x02000000 + 0x2000 * 30 then
    let n := (off - 0x02000000) / 0x2000
    let r := (off - 0x02000000) % 0x2000
    if r = 0 then ((s.station n).specdrop, s.modStation n fun x => { x with specdrop := 0 })
    else if 0x100 ≤ r && r < 0x180 then (BitVec.ofNat 64 (mget 0xFFFF (s.station n).sbudget ((r - 0x100) / 8)), s)
    else if 0x1000 ≤ r then (logWord ((s.station n).flog.map XlFault.bytes) (r - 0x1000), s)
    else (0, s)
  else if 0x03000000 ≤ off && off < 0x03000180 then
    let r := off - 0x03000000
    (if r = 0 then s.rtbank else if r = 8 then s.xlbaseReg else if r = 0x10 then s.xlinvReg else if r = 0x18 then fuseReg
      else if r = 0x20 then s.govctlReg else if r = 0x28 then s.bootstat.setWidth 64
      else if 0x100 ≤ r then (if r % 16 = 0 then s.hdmaRegA ((r - 0x100) / 16) else s.hdmaRegB ((r - 0x100) / 16)) else 0, s)
  else if 0x03001000 ≤ off && off < 0x03002000 then
    (s.readPartReg ((off - 0x03001000) / 0x100) ((off - 0x03001000) % 0x100), s)
  else if 0x03100000 ≤ off && off < 0x03104000 then (logWord (s.romRing.map RomReport.bytes) (off - 0x03100000), s)
  else (0, s)

/-- An 8-byte write. -/
def State.bridgeWrite (s : State) (off : Nat) (v : W64) : State :=
  if off < 0x10000 then
    let t := off / 0x40
    let r := off % 0x40
    if r = 0 then s.writeTsched t v else if r = 8 then s.writeJarb t v else if r = 0x10 then s.writeJinj t v
    else if 0x20 ≤ r then s.writeGframe (4 * t + (r - 0x20) / 8) v else s
  else if 0x02000000 ≤ off && off < 0x02000000 + 0x2000 * 30 then
    let n := (off - 0x02000000) / 0x2000
    let r := (off - 0x02000000) % 0x2000
    if 0x100 ≤ r && r < 0x180 then
      s.modStation n fun x => { x with sbudget := mput x.sbudget ((r - 0x100) / 8) (bitsAt v 0 16) }
    else s
  else if 0x03000000 ≤ off && off < 0x03000180 then
    let r := off - 0x03000000
    if r = 0 then s.writeRtbank v else if r = 8 then s.writeXlbase v else if r = 0x10 then s.writeXlinv v
    else if r = 0x20 then s.writeGovctl v
    else if 0x100 ≤ r then s.writeHdma ((r - 0x100) / 16) (decide (r % 16 ≠ 0)) v
    else s
  else if 0x03001000 ≤ off && off < 0x03002000 then
    s.writePartReg ((off - 0x03001000) / 0x100) ((off - 0x03001000) % 0x100) v
  else s

/-- A one-byte read of a routing entry. -/
def State.bridgeReadByte (s : State) (off : Nat) : Byte :=
  if 0x01000000 ≤ off && off < 0x01400000 then
    let t := (off - 0x01000000) / 0x1000
    let r := (off - 0x01000000) % 0x1000
    if r % 0x800 < 1054 then BitVec.ofNat 8 (s.junctionRoute t (decide (0x800 ≤ r)) (r % 0x800)) else 0
  else if 0x10000000 ≤ off && off < 0x10800000 then
    let l := (off - 0x10000000) / 0x100000
    let r := (off - 0x10000000) % 0x100000
    BitVec.ofNat 8 (s.linkRoute l (decide (0x80000 ≤ r)) (r % 0x80000))
  else 0

/-- A one-byte write of a routing entry. -/
def State.bridgeWriteByte (s : State) (off : Nat) (v : Byte) : State :=
  if 0x01000000 ≤ off && off < 0x01400000 then
    let t := (off - 0x01000000) / 0x1000
    let r := (off - 0x01000000) % 0x1000
    if r % 0x800 < 1054 then s.writeJunctionRoute t (decide (0x800 ≤ r)) (r % 0x800) v else s
  else if 0x10000000 ≤ off && off < 0x10800000 then
    let l := (off - 0x10000000) / 0x100000
    let r := (off - 0x10000000) % 0x100000
    s.writeLinkRoute l (decide (0x80000 ≤ r)) (r % 0x80000) v
  else s

/-- A read of n bytes at a physical address of the bridge: any but its two forms reads zero (19 R424). -/
def State.bridgeLoad (s : State) (pa n : Nat) : List Byte × State :=
  let off := pa - bridgeBase
  if n = 8 && pa % 8 = 0 then
    let (v, s1) := s.bridgeRead off
    (bytes64 v, s1)
  else if n = 1 then ([s.bridgeReadByte off], s)
  else (toBytes n 0, s)

/-- The register at an offset may be written by hart `who`: SWCFG, SWBAR and SWCTL only by their partition's supervisor (16 R371). -/
def State.mayWriteReg (s : State) (off : Nat) (who : Option Nat) : Bool :=
  let r := (off - 0x03001000) % 0x100
  if 0x03001000 ≤ off && off < 0x03002000 && 0x08 ≤ r && r < 0x20 then decide (who = some (s.part ((off - 0x03001000) / 0x100)).sup) else true

/-- A write of bytes at a physical address of the bridge, by a hart or for the host: any but its two forms writes nothing. -/
def State.bridgeStore (s : State) (who : Option Nat) (pa : Nat) (bs : List Byte) : State :=
  let off := pa - bridgeBase
  if bs.length = 8 && pa % 8 = 0 then (if s.mayWriteReg off who then s.bridgeWrite off (le64 bs) else s.bridgeRefuse)
  else match bs with
    | [b] => s.bridgeWriteByte off b
    | _ => s

/-! ### The rows of the opcode table -/

def execRtbankWrite (v : W64) (s : State) : Out := .next (s.writeRtbank v)
def execRoutingEntryWrite (junction : Bool) (n : Nat) (bank : Bool) (e : Nat) (v : Byte) (s : State) : Out :=
  .next (if junction then s.writeJunctionRoute n bank e v else s.writeLinkRoute n bank e v)
def execTschedWrite (tile : Nat) (v : W64) (s : State) : Out := .next (s.writeTsched tile v)
def execJarbWrite (tile : Nat) (v : W64) (s : State) : Out := .next (s.writeJarb tile v)
def execJinjWrite (tile : Nat) (v : W64) (s : State) : Out := .next (s.writeJinj tile v)
def execGframeWrite (hart : Nat) (v : W64) (s : State) : Out := .next (s.writeGframe hart v)
def execXlbaseWrite (v : W64) (s : State) : Out := .next (s.writeXlbase v)
def execXlinvWrite (v : W64) (s : State) : Out := .next (s.writeXlinv v)
def execGovctlWrite (v : W64) (s : State) : Out := .next (s.writeGovctl v)
def execHdmaWrite (n : Nat) (b : Bool) (v : W64) (s : State) : Out := .next (s.writeHdma n b v)
/-- A write that management makes; a hart's own reach the bridge by `bridgeStore` (19 R424). One that is not 8-byte aligned writes nothing.
In stage 0xE the module accepts a reset and nothing else (19 R432). -/
def execBridgeRegisterWrite (off : Nat) (v : W64) (s : State) : Out :=
  .next (if off % 8 ≠ 0 then s
    else if s.mayWriteReg off none && decide (s.bootstat ≠ 0xE) then s.bridgeWrite off v else s.bridgeRefuse)

/-- An access that management makes of len bytes: a read of any register, or a write (19 R424; for the ROM report 16 R369, 19 R432). -/
def State.bridgeAccess (s : State) (off len : Nat) (data : Option W64) : State :=
  match data with
  | some v =>
    if s.bootstat = 0xE ∨ (len ≠ 8 ∧ len ≠ 1) then s.bridgeRefuse
    else s.bridgeStore none (bridgeBase + off) (toBytes len v.toNat)
  | none => let r := s.bridgeLoad (bridgeBase + off) len; { r.2 with answer := [BitVec.ofNat 64 (leNat r.1)] }
/-- SPECDROP is read and cleared (18 R404). -/
def execSpecdropRead (station : Nat) (s : State) : Out :=
  .next { s.modStation station fun x => { x with specdrop := 0 } with answer := [(s.station station).specdrop] }

end Sys2Proof.Machine
end

