-- ==== Sys2Proof/Machine/Forms.lean ====
section
/-! DEFINITION. Format codes and widths (01 R12, R19 to R21), and which operand and modifier values an instruction word may
hold (03 R83, R84, R91, and the entries of chapters 04 to 07). -/

namespace Sys2Proof

/-- The format code of 01 R20. -/
def fmtCode : Fmt → BitVec 5
  | .raw => 0x00 | .i8 => 0x01 | .i16 => 0x02 | .i32 => 0x03 | .i64 => 0x04 | .i4 => 0x05
  | .e2m1 => 0x08 | .e4m3 => 0x0B | .e5m2 => 0x0C | .f16 => 0x0D | .bf16 => 0x0E | .f32 => 0x0F | .f64 => 0x10
  | .mx4 => 0x11 | .mx8a => 0x14 | .mx8b => 0x15 | .q4 => 0x16 | .q8 => 0x17

/-- The format of a code; none for a reserved code (01 R20). -/
def fmtOfCode (c : BitVec 5) : Option Fmt :=
  match c.toNat with
  | 0x00 => some .raw | 0x01 => some .i8 | 0x02 => some .i16 | 0x03 => some .i32 | 0x04 => some .i64 | 0x05 => some .i4
  | 0x08 => some .e2m1 | 0x0B => some .e4m3 | 0x0C => some .e5m2 | 0x0D => some .f16 | 0x0E => some .bf16
  | 0x0F => some .f32 | 0x10 => some .f64 | 0x11 => some .mx4 | 0x14 => some .mx8a | 0x15 => some .mx8b
  | 0x16 => some .q4 | 0x17 => some .q8
  | _ => none

/-- Element width in bits (01 R12, R20); 0 for raw, which has none. -/
def fmtWidth : Fmt → Nat
  | .raw => 0
  | .i4 | .e2m1 | .mx4 | .q4 => 4
  | .i8 | .e4m3 | .e5m2 | .mx8a | .mx8b | .q8 => 8
  | .i16 | .f16 | .bf16 => 16
  | .i32 | .f32 => 32
  | .i64 | .f64 => 64

/-- VLMAX of a format (01 R12). -/
def vlMax (f : Fmt) : Nat := 8192 / fmtWidth f

/-- The element formats of 05 R152's class Int. -/
def isInt : Fmt → Bool
  | .i8 | .i16 | .i32 | .i64 => true
  | _ => false

/-- 05 R152's class FP. -/
def isFp : Fmt → Bool
  | .f16 | .bf16 | .f32 | .f64 => true
  | _ => false

def isMx : Fmt → Bool
  | .mx4 | .mx8a | .mx8b => true
  | _ => false

def isQ : Fmt → Bool
  | .q4 | .q8 => true
  | _ => false

/-- The block formats (01 R21). -/
def isBlock (f : Fmt) : Bool := isMx f || isQ f

/-- The narrow floating-point formats without a register arithmetic of their own (02 R50). -/
def isSmallFp : Fmt → Bool
  | .e5m2 | .e4m3 | .e2m1 => true
  | _ => false

/-- A format whose elements are floating-point codes (02 R50). -/
def isFloat (f : Fmt) : Bool := isFp f || isSmallFp f

/-- Formats SETVL, SETVLI accept: any but raw (04 R125). -/
def vlOk (f : Fmt) : Bool := decide (f ≠ .raw)
/-- Formats VCVT converts between (05 R161). -/
def cvtOk (f : Fmt) : Bool := isInt f || decide (f = .i4) || isFloat f
def fpOk (f : Fmt) : Bool := isFp f
/-- Formats VSPLAT accepts (05 R166). -/
def splatOk (f : Fmt) : Bool := decide (f ≠ .raw) && !isBlock f
/-- Formats VIOTA accepts (05 R168). -/
def iotaOk (f : Fmt) : Bool := isInt f || decide (f = .i4)
/-- Formats TSHAPE accepts (06 R184). -/
def tshapeOk : Fmt → Bool
  | .i4 | .i8 | .e2m1 | .e4m3 | .e5m2 | .f16 | .bf16 | .f32 | .mx4 | .mx8a | .mx8b | .q4 | .q8 => true
  | _ => false

/-- A tag operand that some register may hold, but for an MX format's GRP, which falls back (05 R151). -/
def tagOk (ok : TagOp → Bool) (t : TagOp) : Bool :=
  decide (t.grp ≠ 3) && (isBlock t.fmt || (decide (t.grp = 0) && decide (t.scl = 0))) && ok t

def anyOk (_ : TagOp) : Bool := true
/-- VQNT's destination (05 R162). -/
def blockOk (t : TagOp) : Bool := isBlock t.fmt
/-- VSMAX's tag (05 R164). -/
def smaxOk (t : TagOp) : Bool := isMx t.fmt && decide (t.scl = 0)

/-- A predicate register p0 to p95 (03 R83). -/
def pOk (p : PReg) : Bool := decide (p.toNat < 96)
def pOptOk : Option PReg → Bool
  | none => true
  | some p => pOk p

/-- A stream handle of SFENCE: LAST only with slot 0 (07 R223). -/
def streamOk (s : Stream) : Bool := !s.last || decide (s.slot = 0)

/-- MOD[2:0] of an instruction with rounding modifiers (03 R91). -/
def rndOk (m : BitVec 6) : Bool := decide ((m.extractLsb' 0 3).toNat ≤ 4)
/-- MOD[1:0] of an instruction with a scope (07 R209, R228). -/
def scopeOk (m : BitVec 6) : Bool := decide (m.extractLsb' 0 2 ≠ 3)
/-- MOD[4:0] of VLDS and VGATH (07 R212). -/
def ldFmtOk (m : BitVec 6) : Bool :=
  match fmtOfCode (m.extractLsb' 0 5) with
  | some f => decide (f = .raw) || isInt f || isFp f || decide (f = .e4m3) || decide (f = .e5m2)
  | none => false

/-- The control value of VSHFL as an immediate (05 R171). -/
def shflOk : XI → Bool
  | .x _ => true
  | .i v => !v.getLsbD 11 && !v.getLsbD 16 && decide ((v.extractLsb' 12 4).toNat ≤ 11)

/-- The control operand of MCVT as an immediate (06 R196). -/
def mcvtOk : XI → Bool
  | .x _ => true
  | .i v => !v.getLsbD 16 && decide (v.extractLsb' 4 3 = 0)

/-- The tag operand names a g register: that of a block format does (05 R151). -/
def namesScale (t : TagOp) : Bool := isBlock t.fmt

/-- The 16-bit format tag of a tag operand (01 R19). -/
def tagBits (t : TagOp) : BitVec 16 := fmtCode t.fmt ++ t.grp ++ t.scl ++ (0 : BitVec 5)

end Sys2Proof
end

