-- ==== Sys2Proof/Machine/Journal.lean ====
section
/-! DEFINITION. The posted-store journal (07 R207, R218 to R220), stream slots (07 R224 to R226), the waits of releases and
acquires (07 R227, 14 R333, R334), and the loads in flight that a store waits for. -/

namespace Sys2Proof.Machine

/-- Two runs of bytes overlap. -/
def overlaps (a n b m : Nat) : Bool := decide (0 < n) && decide (0 < m) && decide (a < b + m) && decide (b < a + n)

/-- Bytes as a hart names them: a window-01 pointer to its own tile reaches window-00 bytes (14 R329). -/
def byteKey (h : Nat) (p : W64) : Nat :=
  if winOf p = 1 && tileIdOf p = tileOf h then offOf p else p.toNat

/-- Which count of JNLCOUNT an entry stands in: 0 tile, 1 device, 2 system (01 R38). -/
def scopeOf (h : Nat) (p : W64) : Nat :=
  match winOf p with
  | 0 => 0
  | 3 => 2
  | 1 => if tileIdOf p = tileOf h then 0 else 1
  | _ => 1

def countScope (h k : Nat) (es : List (Nat × JEntry)) : Nat := (es.filter fun e => decide (scopeOf h e.2.addr = k)).length

/-- The journal count of a scope is zero (07 R227). -/
def Hart.drained (a : Hart) (h : Nat) (k : Scope) : Bool :=
  match k with
  | .sys => a.ents.isEmpty
  | .dev => decide (countScope h 0 a.ents + countScope h 1 a.ents = 0)
  | .tile => decide (countScope h 0 a.ents = 0)

/-! ### Loads in flight -/

/-- Width in bits of what a load loads: 8 for raw (07 R213). -/
def tagFmt (tag : BitVec 16) : Fmt := (fmtOfCode (tag.extractLsb' 11 5)).getD .raw
def accWidth (tag : BitVec 16) : Nat := if tagFmt tag = .raw then 8 else fmtWidth (tagFmt tag)

/-- Element e, of width w, of 8,192 bits (02 R47). -/
def elemAt (d : VData) (w e : Nat) : Nat := d.toNat / 2 ^ (w * e) % 2 ^ w

/-- The signed offset that element e of an index row holds (07 R213). -/
def indexAt (data : VData) (tag : BitVec 16) (e : Nat) : W64 :=
  let w := fmtWidth (tagFmt tag)
  let u := elemAt data w e
  if u < 2 ^ (w - 1) then BitVec.ofNat 64 u else BitVec.ofInt 64 ((u : Int) - 2 ^ w)

/-- The address of the byte that holds element e of row j (07 R213). -/
def elemAddr (kind : LoadKind) (base stride : W64) (w vl j e : Nat) (idx : VData) (idxTag : BitVec 16) : W64 :=
  match kind with
  | .unit => base + BitVec.ofNat 64 ((j * vl + e) * w / 8)
  | .strided => base + BitVec.ofNat 64 (j * vl + e) * stride
  | .gather => base + indexAt idx idxTag e

/-- Bytes one element spans. -/
def elemBytes (w : Nat) : Nat := (w + 7) / 8

/-- The elements of width w that lie in element group g: a group is 128 bits (01 R10). -/
def groupElems (w g : Nat) : List Nat := (List.range (128 / w)).map fun i => g * (128 / w) + i

/-- The active elements of a load in group g of a row (07 R213, R214). -/
def LoadDesc.elems (d : LoadDesc) (g : Nat) : List Nat :=
  (groupElems (accWidth d.tag) g).filter fun e => decide (e < d.vl) && d.guard.getLsbD e

def Flight.addr (f : Flight) (v e : Nat) : W64 :=
  elemAddr f.desc.kind f.desc.base f.desc.stride (accWidth f.desc.tag) f.desc.vl (v - f.desc.d.toNat) e f.idxData f.idxTag

/-- Groups of a row that have still to land. -/
def Flight.pending (f : Flight) : List Nat := (List.range 64).filter fun g => !f.landed.getLsbD g

/-- The groups a flight from group `from_` on counts as landed: those below, and those with no active element (07 R214). -/
def LoadDesc.landedFrom (d : LoadDesc) (from_ : Nat) : BitVec 64 :=
  (List.range 64).foldl (fun m g => if g < from_ || (d.elems g).isEmpty then m ||| BitVec.twoPow 64 g else m) 0

/-- The load of a record, as it stands at group PI of its row. -/
def LoadRec.stopped (l : LoadRec) (pi : Nat) : Flight :=
  { desc := l.desc, landed := l.desc.landedFrom pi, idxData := l.idxData, idxTag := l.idxTag, id := 0
    again := l.again, spoilt := l.spoilt }

/-- The load into a row that has still to land: in flight, or stopped at a fault or a switch until VRESUME or GO issues it again
(07 R207, R216, R227; 14 R331). -/
def VecReg.loading (r : VecReg) : Option Flight :=
  match r.flight, r.lrec with
  | some f, _ => some f
  | none, some l => if r.pi < 64 then some (l.stopped r.pi) else none
  | none, none => none

/-- No element group of the hart's asynchronous loads is still to land (07 R227). -/
def Hart.landed (a : Hart) : Bool := a.v.all fun e => e.2.loading.isNone

/-- No row of a hart's loads is in flight: each has landed, stopped at a fault or been cancelled. -/
def Hart.noFlight (a : Hart) : Bool := a.v.all fun e => e.2.flight.isNone

/-- An element of a load that has still to be read overlaps the n bytes at key k (07 R207). -/
def Hart.loadsOverlap (a : Hart) (h k n : Nat) : Bool :=
  a.v.any fun r =>
    match r.2.loading with
    | none => false
    | some f =>
      f.pending.any fun g =>
        (f.desc.elems g).any fun e =>
          !(f.early.any fun x => decide (x.1 = e)) && overlaps k n (byteKey h (f.addr r.1 e)) (elemBytes (accWidth f.desc.tag))

/-- An outstanding entry, other than one of the same stream binding, overlaps the n bytes at key k (07 R207, R219). -/
def Hart.entriesOverlap (a : Hart) (h k n : Nat) (gen : Nat) : Bool :=
  a.ents.any fun e =>
    !(decide (gen ≠ 0) && decide (e.2.gen = gen)) && decide (e.2.kind ≠ 4)
      && overlaps k n (byteKey h e.2.addr) e.2.len

/-- An access to window 00 at p comes after the hart's FADDX, FCLR and BARA of window 00 that are still to be performed, refused ones
among them (07 R207, 14 R330). -/
def Hart.tileOrder (a : Hart) (p : W64) : Bool :=
  decide (winOf p = 0) && a.ents.any fun e => decide (winOf e.2.addr = 0)

/-! ### Posting -/

/-- The lowest free indices of the journal (07 R218). -/
def Hart.freeEntries (a : Hart) (n : Nat) : List Nat :=
  ((List.range 128).filter fun i => (a.entry i).isNone).take n

/-- A store's destination matches the binding of a slot (07 R225). -/
def destMatches (p ptr : W64) : Bool :=
  decide (winOf p = winOf ptr) &&
    (match winOf p with
     | 1 => decide (tileIdOf p = tileIdOf ptr)
     | 2 => true
     | 3 => decide (nodeOf p = nodeOf ptr)
     | _ => false)

/-- The slot a store is sent in: its stream, or slot 0 with fallback bit 12 (03 R97, 07 R225). -/
def Hart.memberOf (a : Hart) (b : Option Stream) (p : W64) : Nat × Bool :=
  match b with
  | none => (0, false)
  | some t =>
    if t.slot = 0 then (0, false)
    else
      let sl := a.slot t.slot.toNat
      if sl.isOpen && !sl.closing && destMatches p sl.ptr then (t.slot.toNat, false) else (0, true)

/-- Unacknowledged members of a binding (07 R225). -/
def Hart.members (a : Hart) (gen : Nat) : Nat := (a.ents.filter fun e => decide (e.2.gen = gen) && decide (gen ≠ 0)).length

/-- One piece to post: its first byte, its bytes, and their mask. -/
structure Piece where
  addr : W64
  data : List Byte
  mask : List (BitVec 2)
  deriving DecidableEq, Repr

/-- Where an entry of hart h is sent: a member to its stream's destination, any other to the tile, or the station that its
address names by bits [15:12] (07 R224, R326; log 5). -/
def entryDest (h : Nat) (e : JEntry) : Dest :=
  let p := if e.gen ≠ 0 then e.dest else e.addr
  match winOf p with
  | 0 => .ep (tileOf h)
  | 1 => .ep (tileIdOf p)
  | 3 => .node (nodeOf p)
  | _ => .ep (stEp (vaOf p / 4096 % 16))

/-- Send entry i of hart h. -/
def State.sendEntry (s : State) (h i : Nat) (e : JEntry) : State :=
  s.send (tileOf h) (entryDest h e) e.prio (s.hart h).part (.write h i e)

/-- Take entries for pieces in ascending address order at the given free indices, and send them. -/
def State.postAt (s : State) (h : Nat) (mk : Nat → Piece → JEntry) : Nat → List Nat → List Piece → State
  | _, [], _ => s
  | _, _, [] => s
  | n, i :: is, p :: ps =>
    let e := { mk n p with stamp := s.nextStamp }
    let s1 := { s.modHart h (fun a => a.setEntry i (some e)) with nextStamp := s.nextStamp + 1 }
    (s1.sendEntry h i e).postAt h mk (n + 1) is ps

/-- An entry as the hart that posts it makes it (07 R219). -/
def Hart.mkEntry (a : Hart) (c : Ctl) (kind : BitVec 3) (slot : Nat) (last mark rel : Bool) (n : Nat) (p : Piece) : JEntry :=
  let sl := a.slot slot
  { addr := p.addr
    seq := if slot = 0 then 0 else sl.seq + BitVec.ofNat 20 n
    slot := BitVec.ofNat 4 slot
    last := last
    refused := false
    mark := mark
    reason := 0
    kind := kind
    svc := a.svc
    len := if mark then 0 else if kind = 1 || kind = 2 then 64 else if kind = 3 then 32 else p.data.length
    pc := a.pc &&& 0x1FFFFF
    asid := a.asid
    data := p.data
    mask := p.mask
    strm := if slot = 0 then 0 else sl.num
    dest := if slot = 0 then 0 else sl.ptr
    gen := if slot = 0 then 0 else sl.gen
    stamp := 0
    rep := none
    rel := rel
    prio := c.prio
    ws := if winOf p.addr ≤ 1 then a.windows else [] }

/-- The slot after n members, the last of which may close it (07 R225). -/
def StreamSlot.after (sl : StreamSlot) (n : Nat) (last : Bool) : StreamSlot :=
  { sl with seq := sl.seq + BitVec.ofNat 20 n, isOpen := sl.isOpen && !last }

/-- Post pieces in a slot when the journal and the stream's window have room; none where the instruction must wait
(07 R207, R218, R225); stores alone wait for the reads of loads (14 R330). The last piece of a .last store carries LAST (log 5). -/
def State.post (s : State) (h : Nat) (c : Ctl) (kind : BitVec 3) (slot : Nat) (last rel : Bool) (ps : List Piece) :
    Option State :=
  let a := s.hart h
  let free := a.freeEntries ps.length
  let sl := a.slot slot
  let gen := if slot = 0 then 0 else sl.gen
  if free.length < ps.length then none
  else if slot ≠ 0 && 64 < a.members gen + ps.length then none
  else if ps.any (fun p =>
      let len := if kind = 1 || kind = 2 then 64 else if kind = 3 then 32 else p.data.length
      a.tileOrder p.addr || a.entriesOverlap h (byteKey h p.addr) len gen
        || decide (kind = 0) && a.loadsOverlap h (byteKey h p.addr) len) then none
  else
    let mk := fun n p => a.mkEntry c kind slot (last && decide (n + 1 = ps.length)) false rel n p
    let s1 := s.postAt h mk 0 free ps
    some (if slot = 0 then s1
      else if ps.isEmpty then s1
      else s1.modHart h fun t => t.setSlot slot (sl.after ps.length last))

/-- Free an entry and every report of it (07 R218). -/
def State.freeEntry (s : State) (h i : Nat) : State := s.modHart h fun a => a.setEntry i none

/-- A new binding's name, which no slot has held (07 R226, 18 R408). -/
def State.freshGen (s : State) : Nat × State := (s.nextStamp + 1, { s with nextStamp := s.nextStamp + 1 })

/-- JDROP of a refused entry: it is freed, and a stream's destination is sent a skip for its SEQ (07 R222), in the class given (12 R320). -/
def State.dropEntry (s : State) (h i : Nat) (e : JEntry) (prio : BitVec 2) : State :=
  let s1 := s.freeEntry h i
  if e.gen = 0 then s1
  else s1.send (tileOf h) (entryDest h e) prio (s.hart h).part (.skip h e.strm e.seq e.dest e.gen)

/-! ### Releases and acquires of a hart (14 R333, R334, R346) -/

/-- A release by hart h advances its clock. -/
def State.hartRelease (s : State) (h : Nat) : State := s.modTile (tileOf h) fun t => t.release (h % 4)
/-- An acquire that is not a read of a line of the hart's own tile. -/
def State.hartAcquire (s : State) (h : Nat) : State := s.modTile (tileOf h) fun t => t.joinAll (h % 4)
/-- An acquire that reads bytes of its own tile. -/
def State.lineAcquire (s : State) (h o : Nat) : State := s.modTile (tileOf h) fun t => t.joinLine (h % 4) (o / 64)

/-- Every earlier synchronising write of the hart has been performed (14 R335): its STL, stream-member, FADDX, FCLR and BARA
entries. -/
def Hart.syncDrained (a : Hart) : Bool :=
  a.ents.all fun e => decide (e.2.gen = 0) && !e.2.rel && decide (e.2.kind = 0)

/-- A Ctl of which retirement reads the YLD hint alone. -/
def ctlYld (y : Bool) : Ctl :=
  { mod := 0, ginv := false, gpred := 0, yld := y, la := false, lb := false, prio := 0, rsv := 0 }

/-- Where a load or atomic through pointer p goes (07 R205, R229; log 5). -/
def accessDest (h : Nat) (p : W64) : Dest :=
  match winOf p with
  | 0 => .ep (tileOf h)
  | 1 => .ep (tileIdOf p)
  | 2 => .ep (stEp (vaOf p / 4096 % 16))
  | _ => .node (nodeOf p)

/-- Hart h sends a request and stalls for its reply with STATE 0 (07 R208). -/
def State.request (s : State) (h : Nat) (c : Ctl) (w : BitVec 13) (p : W64) (k : PendKind) (m : Nat → Msg) : State :=
  let id := s.nextReq
  let s1 := { s with nextReq := id + 1 }
  (s1.send (tileOf h) (accessDest h p) c.prio (s.hart h).part (m id)).setOwn h .running 0 |>.modHart h fun a =>
    { a with pend := some { id := id, kind := k, wflag := w, yld := c.yld }, stalled := true }

/-- JNLHEAD (07 R218). -/
def Hart.jnlHead (a : Hart) : Nat := match oldest a.ents with | some e => e.1 | none => 0

/-- JNLCOUNT (01 R38). -/
def Hart.jnlCount (a : Hart) (h : Nat) : Nat :=
  a.ents.length + countScope h 0 a.ents * 2 ^ 8 + countScope h 1 a.ents * 2 ^ 16 + countScope h 2 a.ents * 2 ^ 24

end Sys2Proof.Machine
end

