-- ==== Sys2Proof/Machine/Scalar.lean ====
section
/-! DEFINITION. Integer arithmetic and logic, bit fields, comparison, selection, constants and addresses (04 R107 to R121). -/

namespace Sys2Proof.Machine

/-- The low w bits of a value, read signed or unsigned (04 R108). -/
def readInt (w : Nat) (u : Bool) (v : W64) : Int :=
  if u then ((v.setWidth w).toNat : Int) else (v.setWidth w).toInt

/-- Write a w-bit result: extended from its top bit, or zeroed under .u (04 R108). -/
def extendTo64 (w : Nat) (u : Bool) (r : BitVec w) : W64 := if u then r.setWidth 64 else r.signExtend 64

/-- The ends of the range of w bits (02 R48). -/
def rangeLo (w : Nat) (u : Bool) : Int := if u then 0 else -(2 ^ (w - 1) : Int)
def rangeHi (w : Nat) (u : Bool) : Int := if u then (2 ^ w : Int) - 1 else (2 ^ (w - 1) : Int) - 1

def clampInt (lo hi r : Int) : Int := if r < lo then lo else if hi < r then hi else r

/-- An exact result at w bits: clamped under .sat, else its low bits (02 R49). -/
def fitInt (w : Nat) (u sat : Bool) (r : Int) : BitVec w :=
  BitVec.ofInt w (if sat then clampInt (rangeLo w u) (rangeHi w u) r else r)

/-- ADD, SUB, MUL, MULH, MIN and MAX (04 R110), with the modifiers the entry defines. -/
def aluInt (w : Nat) (u sat : Bool) (f : Int → Int → Int) (a b : W64) : W64 :=
  extendTo64 w u (fitInt w u sat (f (readInt w u a) (readInt w u b)))

/-- 04 R111. -/
def divInt (w : Nat) (u : Bool) (a b : Int) : Int :=
  if b = 0 then -1
  else if !u && a = rangeLo w false && b = -1 then a
  else Int.tdiv a b

def remInt (w : Nat) (u : Bool) (a b : Int) : Int :=
  if b = 0 then a
  else if !u && a = rangeLo w false && b = -1 then 0
  else a - b * Int.tdiv a b

/-- The shift amount: b mod W (04 R112). -/
def shiftBy (w : Nat) (b : W64) : Nat := b.toNat % w

/-- SHL, SHR, SHA and ROT on the low W bits (04 R112). -/
def shiftOp (w : Nat) (f : BitVec w → Nat → BitVec w) (a b : W64) : W64 :=
  extendTo64 w false (f (a.setWidth w) (shiftBy w b))

/-- Bit length of a natural number. -/
def bitLen (n : Nat) : Nat := if n = 0 then 0 else n.log2 + 1

/-- The number of trailing zero bits among w. -/
def trailZeros : Nat → Nat → Nat
  | 0, _ => 0
  | w + 1, n => if n % 2 = 1 then 0 else trailZeros w (n / 2) + 1

/-- The number of one bits among w. -/
def popCount : Nat → Nat → Nat
  | 0, _ => 0
  | w + 1, n => n % 2 + popCount w (n / 2)

/-- The low w bits in reverse order. -/
def reverseBits : Nat → Nat → Nat
  | 0, _ => 0
  | w + 1, n => (n % 2) * 2 ^ w + reverseBits w (n / 2)

/-- The conditions of 04 R116. -/
def condHolds (k : Cond) (a b : W64) : Bool :=
  match k with
  | .eq => decide (a = b)
  | .ne => decide (a ≠ b)
  | .lt => a.slt b
  | .ge => !a.slt b
  | .ltu => a.ult b
  | .geu => !a.ult b
  | .gt => b.slt a
  | .le => !b.slt a
  | .gtu => b.ult a
  | .leu => !b.ult a

/-- A field descriptor (04 R114). -/
def fieldPos (b : BitVec 12) : Nat := (b.extractLsb' 0 6).toNat
def fieldLen (b : BitVec 12) : Nat := (b.extractLsb' 6 6).toNat + 1

/-- EXT (04 R115). -/
def extField (u : Bool) (a : W64) (b : BitVec 12) : W64 :=
  let n := fieldLen b
  let f := (a.toNat / 2 ^ fieldPos b) % 2 ^ n
  if u || f < 2 ^ (n - 1) then BitVec.ofNat 64 f else BitVec.ofInt 64 ((f : Int) - 2 ^ n)

/-- INS (04 R115). -/
def insField (d a : W64) (b : BitVec 12) : W64 :=
  let m := BitVec.ofNat 64 ((2 ^ fieldLen b - 1) * 2 ^ fieldPos b)
  (d &&& ~~~m) ||| ((a <<< fieldPos b) &&& m)

/-- SEXT and ZEXT (04 R115). -/
def sextFrom (a : W64) (n : Nat) : W64 := (a.setWidth (n + 1)).signExtend 64
def zextFrom (a : W64) (n : Nat) : W64 := (a.setWidth (n + 1)).setWidth 64

/-- LIH (03 R87). -/
def lihValue (old : W64) (v : BitVec 24) : W64 := v ++ old.extractLsb' 0 40

/-- MOD bits .w .u .sat; .w .u; .w .sat; .w; .u (04 R109, R113). -/
def mWUS : BitVec 6 := 0x38
def mWU : BitVec 6 := 0x30
def mWS : BitVec 6 := 0x28
def mW : BitVec 6 := 0x20
def mU : BitVec 6 := 0x10

def execAdd (c : Ctl) (d a : XReg) (b : XI) (s : State) : Out :=
  .next (s.onX c mWUS d fun h => aluInt c.w c.u c.sat (fun x y => x + y) (h.rx a) (h.xi b))

def execSub (c : Ctl) (d a : XReg) (b : XI) (s : State) : Out :=
  .next (s.onX c mWUS d fun h => aluInt c.w c.u c.sat (fun x y => x - y) (h.rx a) (h.xi b))

def execMul (c : Ctl) (d a : XReg) (b : XI) (s : State) : Out :=
  .next (s.onX c mWUS d fun h => aluInt c.w c.u c.sat (fun x y => x * y) (h.rx a) (h.xi b))

def execMulh (c : Ctl) (d a : XReg) (b : XI) (s : State) : Out :=
  .next (s.onX c mU d fun h => aluInt 64 c.u false (fun x y => (x * y) / 2 ^ 64) (h.rx a) (h.xi b))

def execDiv (c : Ctl) (d a : XReg) (b : XI) (s : State) : Out :=
  .next (s.onX c mWU d fun h => aluInt c.w c.u false (divInt c.w c.u) (h.rx a) (h.xi b))

def execRem (c : Ctl) (d a : XReg) (b : XI) (s : State) : Out :=
  .next (s.onX c mWU d fun h => aluInt c.w c.u false (remInt c.w c.u) (h.rx a) (h.xi b))

def execAnd (c : Ctl) (d a : XReg) (b : XI) (s : State) : Out :=
  .next (s.onX c 0 d fun h => h.rx a &&& h.xi b)

def execOr (c : Ctl) (d a : XReg) (b : XI) (s : State) : Out :=
  .next (s.onX c 0 d fun h => h.rx a ||| h.xi b)

def execXor (c : Ctl) (d a : XReg) (b : XI) (s : State) : Out :=
  .next (s.onX c 0 d fun h => h.rx a ^^^ h.xi b)

def execAndn (c : Ctl) (d a : XReg) (b : XI) (s : State) : Out :=
  .next (s.onX c 0 d fun h => h.rx a &&& ~~~(h.xi b))

def execOrn (c : Ctl) (d a : XReg) (b : XI) (s : State) : Out :=
  .next (s.onX c 0 d fun h => h.rx a ||| ~~~(h.xi b))

def execShl (c : Ctl) (d a : XReg) (b : XI) (s : State) : Out :=
  .next (s.onX c mW d fun h => shiftOp c.w (fun v n => v <<< n) (h.rx a) (h.xi b))

def execShr (c : Ctl) (d a : XReg) (b : XI) (s : State) : Out :=
  .next (s.onX c mW d fun h => shiftOp c.w (fun v n => v >>> n) (h.rx a) (h.xi b))

def execSha (c : Ctl) (d a : XReg) (b : XI) (s : State) : Out :=
  .next (s.onX c mW d fun h => shiftOp c.w (fun v n => v.sshiftRight n) (h.rx a) (h.xi b))

def execRot (c : Ctl) (d a : XReg) (b : XI) (s : State) : Out :=
  .next (s.onX c mW d fun h => shiftOp c.w (fun v n => v.rotateLeft n) (h.rx a) (h.xi b))

def execMin (c : Ctl) (d a : XReg) (b : XI) (s : State) : Out :=
  .next (s.onX c mU d fun h => aluInt 64 c.u false (fun x y => if x ≤ y then x else y) (h.rx a) (h.xi b))

def execMax (c : Ctl) (d a : XReg) (b : XI) (s : State) : Out :=
  .next (s.onX c mU d fun h => aluInt 64 c.u false (fun x y => if x ≤ y then y else x) (h.rx a) (h.xi b))

def execAbs (c : Ctl) (d a : XReg) (s : State) : Out :=
  .next (s.onX c mWS d fun h => aluInt c.w false c.sat (fun x _ => if x < 0 then -x else x) (h.rx a) 0)

def execNeg (c : Ctl) (d a : XReg) (s : State) : Out :=
  .next (s.onX c mWS d fun h => aluInt c.w false c.sat (fun x _ => -x) (h.rx a) 0)

def execClz (c : Ctl) (d a : XReg) (s : State) : Out :=
  .next (s.onX c mW d fun h => BitVec.ofNat 64 (c.w - bitLen ((h.rx a).toNat % 2 ^ c.w)))

def execCtz (c : Ctl) (d a : XReg) (s : State) : Out :=
  .next (s.onX c mW d fun h => BitVec.ofNat 64 (trailZeros c.w (h.rx a).toNat))

def execPopc (c : Ctl) (d a : XReg) (s : State) : Out :=
  .next (s.onX c mW d fun h => BitVec.ofNat 64 (popCount c.w (h.rx a).toNat))

def execBrev (c : Ctl) (d a : XReg) (s : State) : Out :=
  .next (s.onX c 0 d fun h => BitVec.ofNat 64 (reverseBits 64 (h.rx a).toNat))

def execBswap (c : Ctl) (d a : XReg) (s : State) : Out :=
  .next (s.onX c 0 d fun h => le64 (bytes64 (h.rx a)).reverse)

def execExt (c : Ctl) (d a : XReg) (b : XU 12) (s : State) : Out :=
  .next (s.onX c mU d fun h => extField c.u (h.rx a) (h.xu b))

def execIns (c : Ctl) (d a : XReg) (b : XU 12) (s : State) : Out :=
  .next (s.onX c 0 d fun h => insField (h.rx d) (h.rx a) (h.xu b))

def execSext (c : Ctl) (d a : XReg) (b : XU 6) (s : State) : Out :=
  .next (s.onX c 0 d fun h => sextFrom (h.rx a) (h.xu b).toNat)

def execZext (c : Ctl) (d a : XReg) (b : XU 6) (s : State) : Out :=
  .next (s.onX c 0 d fun h => zextFrom (h.rx a) (h.xu b).toNat)

def execSetc (c : Ctl) (k : Cond) (d a : XReg) (b : XI) (s : State) : Out :=
  .next (s.onX c 0 d fun h => if condHolds k (h.rx a) (h.xi b) then 1 else 0)

def execSel (c : Ctl) (d a : XReg) (b : XI) (s : State) : Out :=
  .next (s.onX c 0 d fun h => if h.rx d ≠ 0 then h.rx a else h.xi b)

def execLi (c : Ctl) (d : XReg) (v : BitVec 40) (s : State) : Out :=
  .next (s.onX c 0 d fun _ => v.signExtend 64)

def execLih (c : Ctl) (d : XReg) (v : BitVec 24) (s : State) : Out :=
  .next (s.onX c 0 d fun h => lihValue (h.rx d) v)

def execLea (c : Ctl) (d : XReg) (a : MemOp) (b : XReg) (s : State) : Out :=
  .next (s.onX c 0 d fun h => h.ea a 1 + h.rx b)

def execAddpc (c : Ctl) (d : XReg) (a : Imm) (s : State) : Out :=
  .next (s.onX c 0 d fun h => relTo h.pc a)

end Sys2Proof.Machine
end

