-- ==== Sys2Proof/Machine/Num.lean ====
section
/-! DEFINITION. Floating-point values, rounding and flags (02 R50 to R60), the functions of 05 R153 to R156, conversions
(R58 to R61), block formats (R62 to R68) and ordering keys (R79). A finite value is an exact integer times a power of two; every
result is formed exactly, or as a truncation with a sticky mark, and rounded once. -/

namespace Sys2Proof.Machine

/-- A format's parameters: width, significand bits, bias, code of the largest finite magnitude, canonical NaN (02 R50, R52). -/
structure FpSpec where
  w : Nat
  m : Nat
  bias : Nat
  maxc : Nat
  nan : Nat
  deriving DecidableEq, Repr

/-- 02 R50, R52; the formats that are not floating point take f32's. e2m1 has no NaN: +0 stands in its place (R58). -/
def fpSpec : Fmt → FpSpec
  | .f64 => { w := 64, m := 52, bias := 1023, maxc := 0x7FEFFFFFFFFFFFFF, nan := 0x7FF8000000000000 }
  | .f16 => { w := 16, m := 10, bias := 15, maxc := 0x7BFF, nan := 0x7E00 }
  | .bf16 => { w := 16, m := 7, bias := 127, maxc := 0x7F7F, nan := 0x7FC0 }
  | .e5m2 => { w := 8, m := 2, bias := 15, maxc := 0x7B, nan := 0x7E }
  | .e4m3 => { w := 8, m := 3, bias := 7, maxc := 0x7E, nan := 0x7F }
  | .e2m1 => { w := 4, m := 1, bias := 1, maxc := 0x7, nan := 0 }
  | _ => { w := 32, m := 23, bias := 127, maxc := 0x7F7FFFFF, nan := 0x7FC00000 }

/-- What a code means: NaN, infinity, or (-1)^neg n 2^e (02 R51, R53). -/
inductive FVal where
  | nan (sig : Bool)
  | inf (neg : Bool)
  | fin (neg : Bool) (n : Nat) (e : Int)
  deriving DecidableEq, Repr

/-- The sign bit's weight. -/
def FpSpec.sgn (f : FpSpec) (neg : Bool) : Nat := if neg then 2 ^ (f.w - 1) else 0

/-- Decode a code (02 R51). e4m3's one NaN and e5m2's are quiet (R53). -/
def fdec (t : Fmt) (c : Nat) : FVal :=
  let f := fpSpec t
  let neg := decide (2 ^ (f.w - 1) ≤ c)
  let mag := c % 2 ^ (f.w - 1)
  let ex := mag / 2 ^ f.m
  let fr := mag % 2 ^ f.m
  if f.maxc < mag then
    if t = .e4m3 then .nan false
    else if mag = f.maxc + 1 then .inf neg
    else .nan (decide (8 < f.w) && decide (fr < 2 ^ (f.m - 1)))
  else if ex = 0 then .fin neg fr (1 - (f.bias : Int) - f.m)
  else .fin neg (2 ^ f.m + fr) ((ex : Int) - f.bias - f.m)

/-! ### Rounding (02 R55 to R57) -/

/-- Whether to take the next multiple up: t is twice the remainder plus a sticky mark, h the step. -/
def roundsUp (r : Rnd) (neg odd : Bool) (t h : Nat) : Bool :=
  match r with
  | .rne => decide (h < t) || (decide (t = h) && odd)
  | .rtz => false
  | .rup => decide (t ≠ 0) && !neg
  | .rdn => decide (t ≠ 0) && neg

/-- n 2^e, or a little more with `st`, in multiples of 2^q: how many, and whether that is inexact. -/
def roundAt (r : Rnd) (neg : Bool) (n : Nat) (e q : Int) (st : Bool) : Nat × Bool :=
  if q ≤ e then (n * 2 ^ (e - q).toNat, st)
  else
    let h := 2 ^ (q - e).toNat
    let t := 2 * (n % h) + (if st then 1 else 0)
    (if roundsUp r neg (decide (n / h % 2 = 1)) t h then n / h + 1 else n / h, decide (t ≠ 0))

/-- The code of an overflow (02 R56). -/
def overflowCode (t : Fmt) (r : Rnd) (sat neg : Bool) : Nat :=
  let f := fpSpec t
  let toInf := match r with
    | .rne => true | .rtz => false | .rup => !neg | .rdn => neg
  if sat || !toInf || decide (t = .e2m1) then f.sgn neg + f.maxc
  else if t = .e4m3 then f.nan
  else f.sgn neg + f.maxc + 1

/-- Round an exact finite value (with `st`, one strictly between n 2^e and (n+1) 2^e) to a format: code and flags. -/
def roundFin (t : Fmt) (r : Rnd) (sat neg : Bool) (n : Nat) (e : Int) (st : Bool) : Nat × BitVec 5 :=
  let f := fpSpec t
  if n = 0 then (f.sgn neg, 0)
  else
    let top : Int := e + (bitLen n : Int) - 1
    let emin : Int := 1 - (f.bias : Int)
    let q := max (top - f.m) (emin - f.m)
    let (k, inex) := roundAt r neg n e q st
    let mag := ((q + f.m + f.bias - 1) * 2 ^ f.m).toNat + k
    let tiny := decide (top < emin)
      && !(decide (top + 1 = emin) && decide ((roundAt r neg n e (top - f.m) st).1 = 2 ^ (f.m + 1)))
    if f.maxc < mag then (overflowCode t r sat neg, fOF ||| fNX)
    else (f.sgn neg + mag, flagIf fNX inex ||| flagIf fUF (tiny && inex))

/-- A result before rounding. `inv` and `dz` are the flags of 02 R54. -/
inductive Ex where
  | nan (inv : Bool)
  | inf (neg dz : Bool)
  | fin (neg : Bool) (n : Nat) (e : Int) (st : Bool)
  deriving DecidableEq, Repr

/-- Round once and give the flags (02 R53 to R57). -/
def Ex.round (x : Ex) (t : Fmt) (r : Rnd) (sat : Bool) : Nat × BitVec 5 :=
  let f := fpSpec t
  match x with
  | .nan inv => (f.nan, flagIf fNV inv)
  | .inf neg dz => (f.sgn neg + f.maxc + 1, flagIf fDZ dz)
  | .fin neg n e st => roundFin t r sat neg n e st

def FVal.isSig : FVal → Bool
  | .nan s => s
  | _ => false
def FVal.isNan : FVal → Bool
  | .nan _ => true
  | _ => false
def FVal.neg : FVal → FVal
  | .nan s => .nan s
  | .inf n => .inf !n
  | .fin s n e => .fin (!s) n e
def FVal.ex : FVal → Ex
  | .nan s => .nan s
  | .inf n => .inf n false
  | .fin s n e => .fin s n e false
def Ex.neg : Ex → Ex
  | .nan i => .nan i
  | .inf n d => .inf (!n) d
  | .fin s n e t => .fin (!s) n e t

/-- A signed integer at a scale. -/
def signed (neg : Bool) (n : Nat) : Int := if neg then -(n : Int) else n

/-- The exact sum of two finite values; zero results take their sign as 02 R54 gives. -/
def addFin (r : Rnd) (s1 : Bool) (n1 : Nat) (e1 : Int) (s2 : Bool) (n2 : Nat) (e2 : Int) : Ex :=
  let e := min e1 e2
  let t := signed s1 (n1 * 2 ^ (e1 - e).toNat) + signed s2 (n2 * 2 ^ (e2 - e).toNat)
  if t = 0 then .fin (if s1 = s2 then s1 else decide (r = .rdn)) 0 e false
  else .fin (decide (t < 0)) t.natAbs e false

/-- An exact result plus a value (02 R54). -/
def Ex.plus (r : Rnd) (x : Ex) (y : FVal) : Ex :=
  match x, y with
  | .nan i, .nan s => .nan (i || s)
  | .nan i, _ => .nan i
  | _, .nan s => .nan s
  | .inf a _, .inf b => if a = b then .inf a false else .nan true
  | .inf a d, .fin _ _ _ => .inf a d
  | .fin _ _ _ _, .inf b => .inf b false
  | .fin s1 n1 e1 _, .fin s2 n2 e2 => addFin r s1 n1 e1 s2 n2 e2

def exMul (a b : FVal) : Ex :=
  match a, b with
  | .nan s, .nan t => .nan (s || t)
  | .nan s, _ => .nan s
  | _, .nan t => .nan t
  | .inf x, .inf y => .inf (x != y) false
  | .inf x, .fin s n _ => if n = 0 then .nan true else .inf (x != s) false
  | .fin s n _, .inf y => if n = 0 then .nan true else .inf (s != y) false
  | .fin s n e, .fin t m f => .fin (s != t) (n * m) (e + f) false

/-- The truncated quotient n / m with at least 70 significant bits. -/
def divFin (neg : Bool) (n : Nat) (e : Int) (m : Nat) (f : Int) : Ex :=
  let k := 70 + bitLen m
  .fin neg (n * 2 ^ k / m) (e - f - k) (decide (n * 2 ^ k % m ≠ 0))

def exDiv (a b : FVal) : Ex :=
  match a, b with
  | .nan s, .nan t => .nan (s || t)
  | .nan s, _ => .nan s
  | _, .nan t => .nan t
  | .inf _, .inf _ => .nan true
  | .inf x, .fin s _ _ => .inf (x != s) false
  | .fin s _ _, .inf y => .fin (s != y) 0 0 false
  | .fin s n e, .fin t m f =>
    if m = 0 then (if n = 0 then .nan true else .inf (s != t) true)
    else if n = 0 then .fin (s != t) 0 0 false
    else divFin (s != t) n e m f

/-- The integer square root of n by its bits from 2^(k-1) down. -/
def isqrt : Nat → Nat → Nat → Nat
  | 0, _, r => r
  | k + 1, n, r => if (r + 2 ^ k) * (r + 2 ^ k) ≤ n then isqrt k n (r + 2 ^ k) else isqrt k n r

/-- √a (02 R54). -/
def exSqrt (a : FVal) : Ex :=
  match a with
  | .nan s => .nan s
  | .inf neg => if neg then .nan true else .inf false false
  | .fin neg n e =>
    if n = 0 then .fin neg 0 0 false
    else if neg then .nan true
    else
      let odd := decide (e % 2 ≠ 0)
      let n1 := (if odd then 2 * n else n) * 2 ^ 140
      let e1 := (if odd then e - 1 else e) / 2 - 70
      let r := isqrt (bitLen n1 / 2 + 1) n1 0
      .fin false r e1 (decide (r * r ≠ n1))

def exRcp (a : FVal) : Ex := exDiv (.fin false 1 0) a

/-- 1/√a (05 R156). -/
def exRsqrt (a : FVal) : Ex :=
  match a with
  | .nan s => .nan s
  | .inf neg => if neg then .nan true else .fin false 0 0 false
  | .fin neg n e =>
    if n = 0 then .inf neg true
    else if neg then .nan true
    else
      let odd := decide (e % 2 ≠ 0)
      let n1 := if odd then 2 * n else n
      let e1 := (if odd then e - 1 else e) / 2
      let k := 70 + bitLen n1
      let r := isqrt (k + 1) (2 ^ (2 * k) / n1) 0
      .fin false r (-e1 - k) (decide (r * r * n1 ≠ 2 ^ (2 * k)))

/-! ### 2^a and log2 a, in 384 fraction bits. A result that is no power of two is irrational, so its rounding is never exact and
never a tie; the precision leaves more than a hundred bits beyond any known hard case of binary64 (log 11). -/

def fixBits : Nat := 384

/-- x^(2i+1)/(2i+1) summed: `p` is the running power and `x2` the square. -/
def atanhSum : Nat → Nat → Nat → Nat → Nat
  | 0, _, _, _ => 0
  | k + 1, i, p, x2 => p / (2 * i + 1) + atanhSum k (i + 1) (p * x2 / 2 ^ fixBits) x2

/-- ln(n / m) for m ≤ n < 2m. -/
def lnFix (n m : Nat) : Nat :=
  let z := (n - m) * 2 ^ fixBits / (n + m)
  2 * atanhSum 130 0 z (z * z / 2 ^ fixBits)

def ln2Fix : Nat := 2 * atanhSum 130 0 (2 ^ fixBits / 3) (2 ^ fixBits / 9)

/-- The exponential series from term i on. -/
def expSum : Nat → Nat → Nat → Nat → Nat
  | 0, _, _, _ => 0
  | k + 1, i, t, x => t + expSum k (i + 1) (t * x / 2 ^ fixBits / (i + 1)) x

def exExp2 (a : FVal) : Ex :=
  match a with
  | .nan s => .nan s
  | .inf neg => if neg then .fin false 0 0 false else .inf false false
  | .fin neg n e =>
    if n = 0 then .fin false 1 0 false
    else if 12 < e + (bitLen n : Int) then
      -- |a| ≥ 4096: beyond every format
      .fin false (2 ^ 100) (if neg then -1000000 else 1000000) true
    else if e + (bitLen n : Int) < -200 then
      if neg then .fin false (2 ^ 300 - 1) (-300) true else .fin false (2 ^ 300) (-300) true
    else
      let fx : Int := signed neg (if 0 ≤ e then n * 2 ^ (e.toNat + fixBits) else n * 2 ^ fixBits / 2 ^ (-e).toNat)
      let whole := fx / (2 ^ fixBits : Int)
      let frac := (fx % (2 ^ fixBits : Int)).toNat
      if frac = 0 then .fin false 1 whole false
      else .fin false (expSum 110 0 (2 ^ fixBits) (frac * ln2Fix / 2 ^ fixBits)) (whole - fixBits) true

def exLog2 (a : FVal) : Ex :=
  match a with
  | .nan s => .nan s
  | .inf neg => if neg then .nan true else .inf false false
  | .fin neg n e =>
    if n = 0 then .inf true true
    else if neg then .nan true
    else
      let k := bitLen n - 1
      let whole : Int := e + k
      if n = 2 ^ k then
        (if whole = 0 then .fin false 0 0 false else .fin (decide (whole < 0)) whole.natAbs 0 false)
      else
        let v : Int := whole * (2 ^ fixBits : Int) + (lnFix n (2 ^ k) * 2 ^ fixBits / ln2Fix : Nat)
        .fin (decide (v < 0)) v.natAbs (-(fixBits : Int)) true

/-! ### Elements read as integers (02 R48, R49) -/

def intOf (w : Nat) (u : Bool) (c : Nat) : Int := if u || c < 2 ^ (w - 1) then (c : Int) else (c : Int) - 2 ^ w
def codeOf (w : Nat) (i : Int) : Nat := (i % (2 ^ w : Int)).toNat
def fitCode (w : Nat) (u sat : Bool) (i : Int) : Nat :=
  codeOf w (if sat then clampInt (rangeLo w u) (rangeHi w u) i else i)

/-! ### Conversions (02 R58 to R61) -/

/-- A value to floating point (02 R58, R56). -/
def cvtVal (v : FVal) (dst : Fmt) (r : Rnd) (sat : Bool) : Nat × BitVec 5 :=
  let f := fpSpec dst
  match v with
  | .nan s => (f.nan, flagIf fNV (s || decide (dst = .e2m1)))
  | .inf neg =>
    if sat then (f.sgn neg + f.maxc, 0)
    else if dst = .e4m3 then (f.nan, fNV)
    else if dst = .e2m1 then (f.sgn neg + f.maxc, fNV)
    else (f.sgn neg + f.maxc + 1, 0)
  | .fin neg n e => roundFin dst r sat neg n e false

/-- Floating point to floating point (02 R58). -/
def cvtFF (src dst : Fmt) (r : Rnd) (sat : Bool) (c : Nat) : Nat × BitVec 5 := cvtVal (fdec src c) dst r sat

/-- A value to an integer of w bits (02 R59). -/
def cvtToInt (v : FVal) (w : Nat) (u : Bool) (r : Rnd) : Nat × BitVec 5 :=
  let lo := rangeLo w u
  let hi := rangeHi w u
  match v with
  | .nan _ => (0, fNV)
  | .inf neg => (codeOf w (if neg then lo else hi), fNV)
  | .fin neg n e =>
    let (k, inex) := roundAt r neg n e 0 false
    let i := signed neg k
    if i < lo then (codeOf w lo, fNV)
    else if hi < i then (codeOf w hi, fNV)
    else (codeOf w i, flagIf fNX inex)

/-- An integer to floating point (02 R60). -/
def cvtFromInt (dst : Fmt) (r : Rnd) (sat : Bool) (i : Int) : Nat × BitVec 5 :=
  roundFin dst r sat (decide (i < 0)) i.natAbs 0 false

/-- VCVT of one element (05 R161). -/
def cvtElem (src dst : Fmt) (r : Rnd) (sat u ud : Bool) (c : Nat) : Nat × BitVec 5 :=
  if isFloat src then
    if isFloat dst then cvtFF src dst r sat c else cvtToInt (fdec src c) (fmtWidth dst) ud r
  else if isFloat dst then cvtFromInt dst r sat (intOf (fmtWidth src) u c)
  else (fitCode (fmtWidth dst) ud sat (intOf (fmtWidth src) u c), 0)

/-! ### Order (02 R79, 05 R154, R158) -/

/-- The total-order key of a w-bit floating-point code. -/
def orderKey (w c : Nat) : Nat := if c < 2 ^ (w - 1) then c + 2 ^ (w - 1) else 2 ^ w - 1 - c

/-- Numerical order of codes that are no NaN: −0 and +0 are equal. -/
def orderInt (w c : Nat) : Int := if c < 2 ^ (w - 1) then (c : Int) else -((c - 2 ^ (w - 1) : Nat) : Int)

/-- VMIN (`hi` false) and VMAX of FP codes (05 R154). -/
def minMaxF (t : Fmt) (hi : Bool) (a b : Nat) : Nat × BitVec 5 :=
  let x := fdec t a
  let y := fdec t b
  let fl := flagIf fNV (x.isSig || y.isSig)
  if x.isNan then (if y.isNan then (fpSpec t).nan else b, fl)
  else if y.isNan then (a, fl)
  else
    let less := decide (orderKey (fpSpec t).w a < orderKey (fpSpec t).w b)
    (if less != hi then a else b, fl)

def minMaxI (w : Nat) (u hi : Bool) (a b : Nat) : Nat :=
  let less := decide (intOf w u a < intOf w u b)
  if less != hi then a else b

/-- VCMP's FP conditions: the answer and NV (05 R158). -/
def cmpF (t : Fmt) (k : VCond) (a b : Nat) : Bool × BitVec 5 :=
  let x := fdec t a
  let y := fdec t b
  let w := (fpSpec t).w
  let un := x.isNan || y.isNan
  let quiet := flagIf fNV (x.isSig || y.isSig)
  let sig := flagIf fNV un
  let i := orderInt w a
  let j := orderInt w b
  match k with
  | .base .eq => (!un && decide (i = j), quiet)
  | .base .ne => (un || decide (i ≠ j), quiet)
  | .base .lt => (!un && decide (i < j), sig)
  | .base .ge => (!un && decide (j ≤ i), sig)
  | .base .gt => (!un && decide (j < i), sig)
  | .base .le => (!un && decide (i ≤ j), sig)
  | .base .ltu => (decide (orderKey w a < orderKey w b), 0)
  | .base .geu => (decide (orderKey w b ≤ orderKey w a), 0)
  | .base .gtu => (decide (orderKey w b < orderKey w a), 0)
  | .base .leu => (decide (orderKey w a ≤ orderKey w b), 0)
  | .uo => (un, quiet)

def cmpI (w : Nat) (k : VCond) (a b : Nat) : Bool :=
  let i := intOf w false a
  let j := intOf w false b
  match k with
  | .base .eq => decide (a = b)
  | .base .ne => decide (a ≠ b)
  | .base .lt => decide (i < j)
  | .base .ge => decide (j ≤ i)
  | .base .gt => decide (j < i)
  | .base .le => decide (i ≤ j)
  | .base .ltu => decide (a < b)
  | .base .geu => decide (b ≤ a)
  | .base .gtu => decide (b < a)
  | .base .leu => decide (a ≤ b)
  | .uo => false

/-- The class of a code: 0 to 9 (05 R160). -/
def classOf (t : Fmt) (c : Nat) : Nat :=
  let f := fpSpec t
  match fdec t c with
  | .nan s => if s then 8 else 9
  | .inf neg => if neg then 0 else 7
  | .fin neg n _ =>
    if n = 0 then (if neg then 3 else 4)
    else if c % 2 ^ (f.w - 1) < 2 ^ f.m then (if neg then 2 else 5)
    else if neg then 1 else 6

/-! ### Block formats (01 R16, 02 R62 to R68) -/

/-- The element format of an MX format. -/
def mxElem : Fmt → Fmt
  | .mx4 => .e2m1 | .mx8a => .e4m3 | _ => .e5m2

/-- A g entry's fields. -/
def entryScale (g : Nat) : Nat := g % 65536
def entryE8 (g : Nat) : Nat := g % 256
def entryZp (t : Fmt) (g : Nat) : Nat := if t = .q4 then g / 65536 % 16 else g / 65536 % 256

/-- An exact value times 2^k. -/
def FVal.scale (v : FVal) (k : Int) : FVal :=
  match v with
  | .fin s n e => .fin s n (e + k)
  | v => v

/-- The value of a block element before rounding (02 R64, R67). -/
def blockEx (t : Fmt) (g c : Nat) : Ex :=
  if isMx t then
    if entryE8 g = 255 then .nan false else ((fdec (mxElem t) c).scale ((entryE8 g : Int) - 127)).ex
  else
    let d : Int := (c : Int) - entryZp t g
    exMul (fdec .f16 (entryScale g)) (.fin (decide (d < 0)) d.natAbs 0)

/-- emax of 02 R65. -/
def mxEmax : Fmt → Nat
  | .mx4 => 2 | .mx8a => 8 | _ => 15

/-- floor(log2) of a finite value; none of zero. -/
def FVal.log2? : FVal → Option Int
  | .fin _ n e => if n = 0 then none else some (e + (bitLen n : Int) - 1)
  | _ => none

def maxOpt : Option Int → Option Int → Option Int
  | none, b => b
  | a, none => a
  | some a, some b => some (max a b)

/-- The scale of a block's active elements (02 R65). -/
def mxScale (dst src : Fmt) (cs : List Nat) : Nat :=
  let vs := cs.map (fdec src)
  if vs.any (fun v => match v with | .fin _ _ _ => false | _ => true) then 255
  else
    match vs.foldl (fun m v => maxOpt m v.log2?) none with
    | none => 127
    | some k => (clampInt 0 254 (k - mxEmax dst + 127)).toNat

/-- Quantize into an MX element (02 R66). -/
def quantMx (dst src : Fmt) (r : Rnd) (g c : Nat) : Nat × BitVec 5 :=
  let el := mxElem dst
  let f := fpSpec el
  let v := fdec src c
  if entryE8 g = 255 then (0, flagIf fNV v.isSig)
  else
    match v with
    | .nan s => (f.nan, flagIf fNV (s || decide (el = .e2m1)))
    | .inf neg => (f.sgn neg + f.maxc, 0)
    | .fin neg n e => roundFin el r true neg n (e - ((entryE8 g : Int) - 127)) false

/-- Quantize into a q element (02 R68). -/
def quantQ (dst src : Fmt) (r : Rnd) (g c : Nat) : Nat × BitVec 5 :=
  let z := entryZp dst g
  let top : Int := 2 ^ fmtWidth dst - 1
  let v := fdec src c
  match v, fdec .f16 (entryScale g) with
  | .nan _, _ => (z, fNV)
  | _, .nan _ => (z, fNV)
  | _, .inf _ => (z, fNV)
  | .inf neg, .fin sn m _ => if m = 0 then (z, fNV) else (if neg = sn then top.toNat else 0, fNV)
  | .fin neg n e, .fin sn m f =>
    if m = 0 then (z, fNV)
    else
      match divFin (neg != sn) n e m f with
      | .fin s k q st =>
        let (i, inex) := roundAt r s k q 0 st
        let code := (z : Int) + signed s i
        if code < 0 then (0, 0)
        else if top < code then (top.toNat, 0)
        else (code.toNat, flagIf fNX inex)
      | _ => (z, fNV)

/-- A block element's key (02 R79): every value of R64 and R67 is exact at f64, so its key there orders the values, and -0
below +0. -/
def blockKey (t : Fmt) (g c : Nat) : Nat := orderKey 64 ((blockEx t g c).round .f64 .rne false).1

end Sys2Proof.Machine
end

