-- ==== Sys2Proof/Machine/Platforms.lean ====
section
/-! DEFINITION. The parts of a channel (09 R251 to R257): platforms, slots, what a receive takes, and the next request of a station pair
(09 R259 to R261). -/

namespace Sys2Proof.Machine

/-! ### Components -/

def State.chan (s : State) (p c : Nat) : Chan :=
  mget { fmt := .raw, mode := .normal, depth := 0, f := 1, plats := [], slots := [], strip := 0, turn := 0, ended := []
         writers := [], readers := [] } (s.part p).chans c
def State.setChan (s : State) (p c : Nat) (x : Chan) : State := s.modPart p fun a => { a with chans := mput a.chans c x }
def State.modChan (s : State) (p c : Nat) (f : Chan → Chan) : State := s.setChan p c (f (s.chan p c))
def Chan.plat (x : Chan) (i : Nat) : Platform := mget .init x.plats i
def Chan.setPlat (x : Chan) (i : Nat) (a : Platform) : Chan := { x with plats := mput x.plats i a }
/-- The place of the k-th token that stands on a platform. -/
def Platform.placeOf (q : Platform) (k : Nat) : Nat := (q.head + k) % max 1 q.cap

/-- S(p) of 09 R253. -/
def Chan.slotCount (x : Chan) (i : Nat) : Nat := mget 0 x.slots i
def Chan.addSlots (x : Chan) (i n : Nat) : Chan := { x with slots := mput x.slots i (x.slotCount i + n) }
def Chan.takeSlots (x : Chan) (i n : Nat) : Chan := { x with slots := mput x.slots i (x.slotCount i - n) }

/-- How many platforms the channel has (09 R251). -/
def Chan.count (x : Chan) : Nat := match x.mode with | .normal => 1 | _ => x.f

/-- The station of a pair (09 R259). -/
def State.pairOf (s : State) (p n : Nat) : StPair := mget { req := 0, rep := 0, home := 0, asid := 0, out := [] } (s.part p).pairs n

/-! ### What a receive takes (09 R254, R257) -/

/-- What a receive takes: data tokens in order, whether an end is delivered, tokens taken from each platform, the turn and the
ended set after, and whether a token it takes is poisoned. -/
structure Taken where
  data : List W64
  ended : Bool
  counts : SMap Nat
  turn : Nat
  endedSet : List Nat
  bad : Bool
  deriving DecidableEq, Repr

/-- The next index after t, cyclically, that is not in the ended set. -/
def nextTurn (f t : Nat) (e : List Nat) : Nat :=
  match ((List.range f).map fun i => (t + 1 + i) % f).find? fun i => !e.contains i with
  | some i => i
  | none => t

/-- Take up to `need` data tokens from one platform (07 R232, R233). -/
def takePlain : List Token → Nat → List W64 → Bool → Option (List W64 × Bool × Bool)
  | _, 0, acc, bad => some (acc.reverse, false, bad)
  | [], _ + 1, _, _ => none
  | t :: r, n + 1, acc, bad =>
    if t.isEnd then some (acc.reverse, true, bad || t.bad) else takePlain r n (t.data :: acc) (bad || t.bad)

/-- Take up to `need` data tokens by turns (09 R257). `pos` counts the tokens already taken from each platform. -/
def takeMerge (x : Chan) : Nat → Nat → Taken → Option Taken
  | 0, _, _ => none
  | _ + 1, 0, k => some { k with data := k.data.reverse }
  | f + 1, n + 1, k =>
    let i := k.turn
    match ((x.plat i).toks.drop (mget 0 k.counts i)).head? with
    | none => none
    | some t =>
      let k1 := { k with counts := mput k.counts i (mget 0 k.counts i + 1), bad := k.bad || t.bad }
      if t.isEnd then
        let e := i :: k.endedSet
        if (List.range x.f).all fun j => e.contains j then
          some { k1 with data := k.data.reverse, ended := true, turn := 0, endedSet := [] }
        else takeMerge x f (n + 1) { k1 with endedSet := e, turn := nextTurn x.f i e }
      else
        takeMerge x f n { k1 with data := t.data :: k.data, turn := if t.stripEnd then nextTurn x.f i k.endedSet else i }

/-- Tokens that stand on a channel. -/
def Chan.standing (x : Chan) : Nat := x.plats.foldl (fun n p => n + p.2.toks.length) 0

/-- What a receive of `need` tokens by reader idx takes; none where it waits. -/
def Chan.receive (x : Chan) (idx need : Nat) : Option Taken :=
  let k : Taken := { data := [], ended := false, counts := [], turn := x.turn, endedSet := x.ended, bad := false }
  match x.mode with
  | .merge => takeMerge x (x.standing + 1) need k
  | m =>
    let i := if m = .deal then idx else 0
    match takePlain (x.plat i).toks need [] false with
    | none => none
    | some (ds, e, bad) => some { k with data := ds, ended := e, bad := bad, counts := [(i, ds.length + (if e then 1 else 0))] }

/-! ### Tokens -/

def dataToken (v : W64) : Token := { data := v, isEnd := false, stripEnd := false, bad := false }
def endToken : Token := { data := 0, isEnd := true, stripEnd := false, bad := false }

/-- Bytes in tokens of 8, the last padded with zeros. -/
def packTokens : Nat → List Byte → List Token
  | 0, _ => []
  | f + 1, bs => if bs.isEmpty then [] else dataToken (le64 (bs.take 8)) :: packTokens f (bs.drop 8)

/-! ### Station pairs -/

/-- The index of end e among the ends of one direction of its channel (09 R251, R259). -/
def endAt (es : SMap ChanEnd) (e : ChanEnd) : Nat := ((es.find? fun x => decide (x.2 = e)).map fun x => x.1).getD 0

/-- How many data tokens follow a request token (09 R260). -/
def pairData (req : W64) : Nat := if req.extractLsb' 60 4 = 2 then ((req.extractLsb' 44 16).toNat + 1 + 7) / 8 else 0

/-- The class of the packet that brought the next request of a pair (12 R320). -/
def State.requestClass (s : State) (p n : Nat) : BitVec 2 :=
  let x := s.chan p (s.pairOf p n).req
  let i := match x.mode with | .normal => 0 | .deal => endAt x.readers (.mem n) | .merge => x.turn
  ((x.plat i).toks.head?.map fun t => t.prio).getD 0

/-- The next request that stands whole: its token, its data, and what is taken (09 R254). A token that is poisoned, or an end, stands
for a request that cannot be performed. -/
def State.nextRequest (s : State) (p n : Nat) : Option (W64 × List W64 × Taken) :=
  let x := s.chan p (s.pairOf p n).req
  let i := endAt x.readers (.mem n)
  match x.receive i 1 with
  | none => none
  | some k =>
    match k.data with
    | [] => some (0, [], k)
    | v :: _ => if k.bad then some (0, [], k) else (x.receive i (1 + pairData v)).map fun m => (v, m.data.drop 1, m)

end Sys2Proof.Machine
end

