-- ==== Sys2Proof/Machine/Owner.lean ====
section
/-! DEFINITION. What the owner of a byte does with an access (14 R326 to R328): checks it as 07 R205 says, then reads, writes, or
reads and writes it at one instant. Exact cells (02 R76 to R78), barrier objects (07 R239, R240) and the budgets of stations
(12 R319) are here too. -/

namespace Sys2Proof.Machine

/-- Who asks an owner for an access: the hart, the endpoint that performs it, the agent it counts as at a tile store (14 R343), the windows
and the ASID it is checked under, and whether it came from another module. -/
structure Asker where
  ep : Nat
  agent : Nat
  ws : List W64
  asid : BitVec 16
  remote : Bool
  hart : Nat
  deriving DecidableEq, Repr

/-- A hart of another module is numbered 4096 (node + 1) + hart; a reply goes back to its module. -/
def replyTo (h : Nat) : Dest := if h < 4096 then .ep (tileOf h) else .node (h / 4096 - 1)
/-- The request came from a hart of the tile that performs it. -/
def ownTile (ep h : Nat) : Bool := decide (h < 4096) && decide (tileOf h = ep)

/-- The asker of hart h's access through pointer p at endpoint ep; `late` is the agent that acts for other tiles: 5 for posted
writes and reads, 7 for atomics (14 R343). Window 00 is checked against the hart's own windows (07 R205), window 01 against all
32 of the tile (18 R391). -/
def State.asker (s : State) (ep h : Nat) (asid : BitVec 16) (p : W64) (late : Nat) : Asker :=
  { ep := ep, asid := asid, remote := decide (4096 ≤ h), hart := h
    agent := if ownTile ep h then h % 4 else late
    ws := if winOf p = 0 then (s.hart h).windows else s.tileWindows ep }

/-- The same asker under the hart's own windows as they stood when the access was issued (01 R30): all that count in window 00, and eight
of the 32 where its own tile is reached through window 01. None are known of an entry restored from bytes alone. -/
def Asker.under (q : Asker) (p : W64) (ws : List W64) : Asker :=
  if ws.isEmpty then q
  else if winOf p = 0 then { q with ws := ws }
  else if winOf p = 1 ∧ ownTile q.ep q.hart then
    { q with ws := q.ws.take (8 * (q.hart % 4)) ++ ws ++ q.ws.drop (8 * (q.hart % 4) + 8) }
  else q

/-! ### Masks: two bits a byte, one a nibble (07 R215) -/

def maskAt (m : List (BitVec 2)) (i : Nat) : BitVec 2 := m.getD i 0
def fullMask (n : Nat) : List (BitVec 2) := List.replicate n 3

/-- A byte of which the active nibbles are replaced. -/
def mergeByte (m : BitVec 2) (old new : Byte) : Byte :=
  (if m.getLsbD 1 then new &&& 0xF0 else old &&& 0xF0) ||| (if m.getLsbD 0 then new &&& 0x0F else old &&& 0x0F)

def mergeBytes : List (BitVec 2) → List Byte → List Byte → List Byte
  | m :: ms, o :: os, n :: ns => mergeByte m o n :: mergeBytes ms os ns
  | _, os, _ => os

/-- A masked write at a covers unit u whole. -/
def maskCovers (m : List (BitVec 2)) (a u : Nat) : Bool :=
  (List.range (unitLen u)).all fun i => decide (a ≤ u + i) && decide (maskAt m (u + i - a) = 3)
/-- A masked write at a touches unit u. -/
def maskMeets (m : List (BitVec 2)) (a u : Nat) : Bool :=
  (List.range (unitLen u)).any fun i => decide (a ≤ u + i) && decide (maskAt m (u + i - a) ≠ 0)

/-- A masked write of bytes at a; units it covers whole lose their poison (19 R430). -/
def State.pokeMasked (s : State) (a : Nat) (bs : List Byte) (m : List (BitVec 2)) : State :=
  { s with poison := s.poison.filter fun u => !maskCovers m a u }.pokeRaw a (mergeBytes m (s.peek a bs.length) bs)

/-- The first poisoned unit that a masked write touches and does not cover. -/
def State.maskPoison (s : State) (a : Nat) (m : List (BitVec 2)) : Option Nat :=
  s.poison.find? fun u => maskMeets m a u && !maskCovers m a u

/-- The lines that a masked access at o touches, each with its first active byte. -/
def maskLines (o : Nat) (m : List (BitVec 2)) : List (Nat × Nat) :=
  (linesOf o m.length).filterMap fun l =>
    ((List.range 64).find? fun i => decide (o ≤ l.1 * 64 + i) && decide (maskAt m (l.1 * 64 + i - o) ≠ 0)).map fun i =>
      (l.1, l.1 * 64 + i)

/-! ### Reads -/

/-- The bytes of physical runs, the bridge among them (19 R424). -/
def State.loadRuns (s : State) : List (Nat × Nat) → List Byte × State
  | [] => ([], s)
  | (a, n) :: r =>
    let x := if bridgeBase ≤ a then s.bridgeLoad a n else (s.peek a n, s)
    let y := x.2.loadRuns r
    (x.1 ++ y.1, y.2)

/-- The owner's read of n bytes at p: an error, or the bytes and the state after. -/
def State.ownerRead (s : State) (q : Asker) (p : W64) (n : Nat) (k : AccKind) : Except AErr (List Byte × State) :=
  if q.ep < 1024 then
    match s.tileAccess q.ep q.agent q.ws q.asid (offOf p) n k with
    | .error e => .error e
    | .ok s1 =>
      let a := storeBase q.ep + offOf p
      match s.poisonMet a n k with
      | some u => .error (.poison (u - a))
      | none => .ok (s.peek a n, s1)
  else
    match s.translateRun (q.ep - 1024) q.asid (vaOf p) n k q.remote with
    | .error e => .error e
    | .ok (runs, s1) =>
      match s1.poisonRuns k 0 runs with
      | some i => .error (.poison i)
      | none => .ok (s1.loadRuns runs)

/-- What an access that its owner then refuses has left: A and D of the pages that it passed (18 R397). -/
def State.touched (s : State) (q : Asker) (p : W64) (n : Nat) (k : AccKind) : State :=
  if q.ep < 1024 then s
  else match s.translateRun (q.ep - 1024) q.asid (vaOf p) n k q.remote with
    | .ok (_, s1) => s1
    | .error _ => s

/-- The endpoint that performs an access at p which endpoint ep has been asked for: itself, or the station that serves the byte that
its translation gives (14 R326, 19 R422). -/
def State.servedAt (s : State) (ep : Nat) (asid : BitVec 16) (p : W64) (k : AccKind) (remote : Bool) : Nat :=
  if ep < 1024 then ep
  else match s.translate (ep - 1024) asid (vaOf p) k remote with
    | .ok (a, _) => stEp (servedBy a)
    | .error _ => ep

/-- Of n bytes at p, how many endpoint ep performs, from the first on, and which endpoint performs the next: a run that crosses a granule
may have two owners (14 R326, 19 R422). One whose translation fails is refused by ep. -/
def State.ownedBytes (s : State) (ep : Nat) (asid : BitVec 16) (p : W64) (n : Nat) (k : AccKind) (remote : Bool) : Nat × Nat :=
  if ep < 1024 then (n, ep)
  else match s.translateRun (ep - 1024) asid (vaOf p) n k remote with
    | .error _ => (n, ep)
    | .ok (runs, _) =>
      let m := servedBytes (n / 4096 + 4) (ep - 1024) runs
      match (cutRuns runs m).2 with
      | (a, _) :: _ => (m, stEp (servedBy a))
      | [] => (n, ep)

/-- Send a request on to the station that serves its byte. -/
def State.sendOn (s : State) (q : Packet) (ep : Nat) : State := s.send (s.localEp q.dst) (.ep ep) q.prio q.part q.msg

/-! ### Writes -/

/-- Masked bytes over physical runs, written for hart `who` or the host. -/
def State.storeRuns (s : State) (who : Option Nat) : List (Nat × Nat) → List Byte → List (BitVec 2) → State
  | [], _, _ => s
  | (a, n) :: r, bs, m =>
    let b := bs.take n
    let s1 := if bridgeBase ≤ a then (if (m.take n).all (fun x => decide (x = 3)) then s.bridgeStore who a b else s)
      else s.pokeMasked a b (m.take n)
    s1.storeRuns who r (bs.drop n) (m.drop n)

def State.maskPoisonRuns (s : State) : List (Nat × Nat) → List (BitVec 2) → Bool
  | [], _ => false
  | (a, n) :: r, m => (s.maskPoison a (m.take n)).isSome || s.maskPoisonRuns r (m.drop n)

/-- The owner's write of the active bytes at p; one with no active byte touches nothing. -/
def State.ownerWrite (s : State) (q : Asker) (p : W64) (bs : List Byte) (m : List (BitVec 2)) (k : AccKind) : Except AErr State :=
  if m.all (fun x => decide (x = 0)) then .ok s
  else if q.ep < 1024 then
    let o := offOf p
    match s.linesAccess q.ep q.agent q.ws q.asid o k (maskLines o m) with
    | .error e => .error e
    | .ok s1 =>
      let a := storeBase q.ep + o
      match s.maskPoison a m with
      | some u => .error (.poison (u - a))
      | none => .ok (s1.pokeMasked a bs m)
  else
    match s.translateRun (q.ep - 1024) q.asid (vaOf p) bs.length k q.remote with
    | .error e => .error e
    | .ok (runs, s1) => if s1.maskPoisonRuns runs m then .error (.poison 0) else .ok (s1.storeRuns (some q.hart) runs bs m)

/-! ### Atomics -/

/-- The owner's indivisible read and write of n bytes at p: `f` gives the answer from the old bytes, and the new bytes if it
writes (07 R229). -/
def State.ownerModify (s : State) (q : Asker) (p : W64) (n : Nat) (k : AccKind)
    (f : List Byte → List Byte × Option (List Byte)) : Except AErr (List Byte × State) :=
  if q.ep < 1024 then
    let a := storeBase q.ep + offOf p
    let r := f (s.peek a n)
    match s.tileAccess q.ep q.agent q.ws q.asid (offOf p) n { k with silent := r.2.isNone } with
    | .error e => .error e
    | .ok s1 =>
      match s.poisonMet a n { k with rd := true } with
      | some u => .error (.poison (u - a))
      | none => .ok (r.1, match r.2 with | some new => s1.poke a new | none => s1)
  else
    match s.translateRun (q.ep - 1024) q.asid (vaOf p) n k q.remote with
    | .error e => .error e
    | .ok (runs, s1) =>
      match s1.poisonRuns { k with rd := true } 0 runs with
      | some i => .error (.poison i)
      | none =>
        let x := s1.loadRuns runs
        let r := f x.1
        .ok (r.1, match r.2 with | some new => x.2.storeRuns (some q.hart) runs new (fullMask new.length) | none => x.2)

/-- The low n bytes of v. -/
def lowBytes (n : Nat) (v : W64) : List Byte := toBytes n v.toNat

/-- AMO's new value of n bytes (07 R229). -/
def amoValue (k : AmoOp) (n : Nat) (u : Bool) (old b : Nat) : Nat :=
  let w := 8 * n
  let b := b % 2 ^ w
  let less := decide (intOf w u old < intOf w u b)
  match k with
  | .add => (old + b) % 2 ^ w
  | .and => old &&& b
  | .or => old ||| b
  | .xor => old ^^^ b
  | .min => if less then old else b
  | .max => if less then b else old
  | .swp => b

/-- SUM of an exact cell, a 384-bit signed number (02 R76). -/
def cellSum (bs : List Byte) : Int := intOf 384 false (leNat (bs.take 48))
def cellCount (bs : List Byte) : Nat := leNat ((bs.drop 48).take 4)
def cellFl (bs : List Byte) : Byte := bs.getD 52 0

/-- An exact cell with new fields; its reserved bytes keep their values. -/
def cellOf (sum : Int) (count : Nat) (fl : Byte) (old : List Byte) : List Byte :=
  toBytes 48 (codeOf 384 sum) ++ toBytes 4 count ++ [fl] ++ old.drop 53

/-- FADDX (02 R77). -/
def cellAdd (y : Nat) (old : List Byte) : List Byte :=
  let n := min (cellCount old + 1) (2 ^ 32 - 1)
  match fdec .f32 y with
  | .fin neg m e => cellOf (cellSum old + signed neg (m * 2 ^ (e + 149).toNat)) n (cellFl old) old
  | .inf neg => cellOf (cellSum old) n (cellFl old ||| (if neg then 2 else 1)) old
  | .nan _ => cellOf (cellSum old) n (cellFl old ||| 4) old

/-- The f32 value of a cell (02 R78). -/
def cellValue (bs : List Byte) : Nat :=
  let fl := cellFl bs
  if fl.getLsbD 2 || (fl.getLsbD 0 && fl.getLsbD 1) then 0x7FC00000
  else if fl.getLsbD 0 then 0x7F800000
  else if fl.getLsbD 1 then 0xFF800000
  else
    let s := cellSum bs
    if s = 0 then 0 else (roundFin .f32 .rne false (decide (s < 0)) s.natAbs (-149) false).1

/-- The phase of a barrier object (07 R239). -/
def phaseOf (bs : List Byte) : Bool := (bs.getD 16 0).getLsbD 0
/-- A barrier object with a new EXPECT, ARRIVED and PHASE byte; its reserved bytes keep their values (log 36). -/
def barrierOf (expect arrived : Nat) (phase : Byte) (old : List Byte) : List Byte :=
  toBytes 8 expect ++ toBytes 8 arrived ++ [phase] ++ old.drop 17

/-- BARA of a bytes (07 R240). -/
def barrierArrive (a : Nat) (old : List Byte) : List Byte :=
  let expect := leNat (old.take 8)
  let arrived := (leNat ((old.drop 8).take 8) + a) % 2 ^ 64
  if expect = 0 || expect ≤ arrived then barrierOf expect (if expect = 0 then 0 else arrived - expect) (old.getD 16 0 ^^^ 1) old
  else barrierOf expect arrived (old.getD 16 0) old

/-- Bytes an atomic acts on (07 R204, R229, R230, R240). -/
def AtomicOp.span : AtomicOp → Nat
  | .amo _ n _ _ | .cas n _ _ => n
  | .cas128 _ _ _ _ => 16
  | .fcell => 64
  | .binit _ | .bwait _ => 32

/-- An atomic on the old bytes: its answer, and the new bytes if it writes. -/
def AtomicOp.run (o : AtomicOp) (old : List Byte) : List Byte × Option (List Byte) :=
  match o with
  | .amo k n u b => (old, some (toBytes n (amoValue k n u (leNat old) b.toNat)))
  | .cas n e new => (old, if leNat old = leNat (lowBytes n e) then some (lowBytes n new) else none)
  | .cas128 e0 e1 n0 n1 => (old, if old = bytes64 e0 ++ bytes64 e1 then some (bytes64 n0 ++ bytes64 n1) else none)
  | .fcell => (toBytes 8 (cellCount old * 2 ^ 32 + cellValue old), none)
  | .binit a => ([], some (barrierOf a.toNat 0 0 old))
  | .bwait _ => ([if phaseOf old then 1 else 0], none)

/-- FCELL and BWAIT only read; the others need both permissions. -/
def AtomicOp.kind (o : AtomicOp) (rel : Bool) : AccKind :=
  let w := match o with | .fcell | .bwait _ => false | _ => true
  { rd := true, wr := w, sync := true, atomic := true, afterRel := rel }

/-- A BWAIT whose phase has not changed goes on waiting (07 R240). -/
def AtomicOp.waits (o : AtomicOp) (bs : List Byte) : Bool :=
  match o with
  | .bwait old => decide (bs = [if old then 1 else 0])
  | _ => false

/-- Before agent 7 performs a .rel atomic or BARA of another tile it joins and releases (14 R346); likewise agent 5 for a stream
member. -/
def State.agentRelease (s : State) (ep agent : Nat) : State :=
  if ep < 1024 then s.modTile ep fun t => (t.joinAll agent).release agent else s

/-! ### Budgets of stations (12 R315, R319) -/

/-- The bytes a request asks for; none for a packet that is no request. -/
def Msg.reqLen : Msg → Option Nat
  | .write _ _ e | .member _ _ e _ => some e.len
  | .rest _ _ e d => some (e.len - d)
  | .readOn _ _ _ n _ bs => some (n - bs.length)
  | .pairPart _ _ _ _ rs _ _ => some (rs.foldl (fun n r => n + r.2) 0)
  | .elems _ _ _ _ es n _ => some (es.length * n)
  | .piece _ _ _ bs _ => some bs.length
  | .arrive _ _ _ _ _ => some 32
  | .read _ _ _ n _ _ => some n
  | .atomic _ _ o _ _ _ _ => some o.span
  | _ => none

/-- Partition q still has units at station n. -/
def State.withinUnits (s : State) (n : Nat) (q : Option Nat) : Bool :=
  match q with
  | none => true
  | some q =>
    let b := mget 0xFFFF (s.station n).sbudget q
    decide (b = 0xFFFF) || decide (mget 0 (s.station n).units q < b)

/-- A request that its station could start now: a barrier wait has no work until its phase flips, and a stream member's turn comes by
its stream (07 R225, R240). -/
def State.ready (s : State) (p : Packet) : Bool :=
  (s.frozenBy p).isNone && (match p.msg with
    | .write _ _ e => decide (e.gen = 0)
    | .atomic _ _ (.bwait _) _ _ _ _ => false
    | m => m.reqLen.isSome)

/-- Some contender within its budget has work ready at station n: a request that has arrived, the next member of a stream, or
the next request of a station pair. -/
def State.withinReady (s : State) (n : Nat) : Bool :=
  (s.arrived.any fun r => decide (s.localEp r.dst = stEp n) && s.ready r && s.withinUnits n r.part)
    || (s.station n).streams.any fun x => x.busy.isNone && x.held.any fun r => (s.frozenBy r).isNone && s.withinUnits n r.part
        && (match r.msg with | .write _ _ e => decide (e.seq = x.next) | _ => false)
    || s.parts.any fun q => !s.frozen (some q.1) && s.withinUnits n (some q.1)
        && q.2.pairs.any fun r => decide (r.2.home = n) && !r.2.busy && r.2.out.isEmpty && (s.nextRequest q.1 r.1).isSome

/-- Partition q may be served at station n (12 R315). -/
def State.mayServeAt (s : State) (n : Nat) (q : Option Nat) : Bool := s.withinUnits n q || !s.withinReady n

/-- A request may start at its endpoint: its partition is not stopped at a switch, and its station may serve that partition. -/
def State.mayServe (s : State) (p : Packet) : Bool :=
  let ep := s.localEp p.dst
  (s.frozenBy p).isNone && (decide (ep < 1024) || s.mayServeAt (ep - 1024) p.part)

/-- Units that n bytes are charged at a station. -/
def State.chargeAt (s : State) (n : Nat) (q : Nat) (len : Nat) : State :=
  s.modStation n fun x => { x with units := mput x.units q (mget 0 x.units q + (len + 63) / 64) }

/-- The charge of n bytes of a request, as its station starts it. -/
def State.chargeLen (s : State) (p : Packet) (n : Nat) : State :=
  let ep := s.localEp p.dst
  match p.part with
  | some q => if ep < 1024 then s else s.chargeAt (ep - 1024) q n
  | none => s

/-- The charge of a whole request. -/
def State.chargeUnits (s : State) (p : Packet) : State :=
  match p.msg.reqLen with
  | some n => s.chargeLen p n
  | none => s

end Sys2Proof.Machine
end

