-- ==== Sys2Proof/Machine/Accum.lean ====
section
/-! DEFINITION. Accumulators and their owners (01 R15, 06 R182, R183). -/

namespace Sys2Proof.Machine

def Tile.accum (t : Tile) (m : Nat) : Acc := mget .init t.acc m
def Tile.setAccum (t : Tile) (m : Nat) (a : Acc) : Tile := { t with acc := mput t.acc m a }
/-- The queue of matrix operations of a tile's hart (06 R188). -/
def Tile.queue (t : Tile) (l : Nat) : List MOp := mget [] t.mq l
def Tile.setQueue (t : Tile) (l : Nat) (q : List MOp) : Tile := { t with mq := mput t.mq l q }

def State.accum (s : State) (t m : Nat) : Acc := (s.tile t).accum m

/-- Hart h owns accumulator m of its tile. Owners are numbered within the tile. -/
def State.owns (s : State) (h : Nat) (m : MReg) : Bool :=
  decide ((s.accum (tileOf h) m.toNat).owner = some (h % 4))

/-- The first hart that waits for m, in cyclic order after hart l of the tile (06 R182). -/
def State.nextWaiter (s : State) (h : Nat) (m : MReg) : Option Nat :=
  [1, 2, 3].find? fun i => decide ((s.hart (4 * tileOf h + (h % 4 + i) % 4)).waitAcc = some m)

/-- Zeroed, tagged f32, its flags and poison cleared, and handed to the next waiting hart or to none (06 R182, R183, R202). -/
def State.freeAccum (s : State) (h : Nat) (m : MReg) : State :=
  let owner := (s.nextWaiter h m).map fun i => (h % 4 + i) % 4
  s.modTile (tileOf h) fun t => t.setAccum m.toNat { Acc.init with owner := owner }

/-- Free every accumulator that hart h owns (04 R135). -/
def State.freeAccums (s : State) (h : Nat) : State :=
  ([0, 1, 2, 3] : List MReg).foldl (fun s m => if s.owns h m then s.freeAccum h m else s) s

end Sys2Proof.Machine
end

