-- ==== Sys2Proof/Machine/Rows.lean ====
section
/-! DEFINITION. Vector registers as sources and destinations: poison and deferred faults (01 R27, 16 R361), loads still landing
(01 R26), and rows and scale registers that queued matrix operations have still to copy (06 R199). -/

namespace Sys2Proof.Machine

/-- P of a tag (01 R19). -/
def VecReg.poisoned (r : VecReg) : Bool := r.tag.getLsbD 4
def VecReg.fmt (r : VecReg) : Fmt := tagFmt r.tag
def VecReg.scl (r : VecReg) : Nat := (r.tag.extractLsb' 5 4).toNat
/-- Block length of a tag (01 R19): 32, 64 or 128. -/
def tagGroup (tag : BitVec 16) : Nat := 32 * 2 ^ (tag.extractLsb' 9 2).toNat
/-- A tag without its P bit. -/
def cleanTag (tag : BitVec 16) : BitVec 16 := tag &&& ~~~(16 : BitVec 16)
def poisonTag (tag : BitVec 16) : BitVec 16 := tag ||| 16

/-- The deferred fault of row v (16 R361). -/
def deferredTrap (v : Nat) (r : LoadRec) : Trap :=
  { cause := r.cause, addr := r.addr, defer := true, async := false
    info := BitVec.ofNat 64 (r.detail.toNat * 2 ^ 32 + v * 2 ^ 22 + (r.desc.pc.extractLsb' 0 21).toNat) }

/-- The trap a consumer of row v takes when the row is poisoned (01 R27). -/
def VecReg.trap (r : VecReg) (v : Nat) : Option Trap :=
  if !r.poisoned then none
  else match r.lrec with
    | some l => if r.pi < 64 then some (deferredTrap v l) else some (trapPoisonReg v)
    | none => some (trapPoisonReg v)

/-- The rows that a queued operation has still to copy (06 R189, R195, R199). -/
def MOp.rowsLeft (o : MOp) : List Nat :=
  match o.kind with
  | .mma _ _ | .mrank _ _ _ =>
    ((List.range o.rc).drop o.done).flatMap fun j => [o.a.toNat + j, o.b.toNat + j]
  | .mwr _ => if o.done = 0 then (List.range o.rc).map fun j => o.a.toNat + j else []
  | .mzero => []

/-- A write of row v must wait for the matrix array (06 R199). -/
def State.vReserved (s : State) (h v : Nat) : Bool :=
  ((s.tile (tileOf h)).queue (h % 4)).any fun o => o.rowsLeft.any fun r => decide (r = v)

/-- A write of scale register g must wait for the matrix array (06 R199). -/
def State.gReserved (s : State) (h g : Nat) : Bool :=
  ((s.tile (tileOf h)).queue (h % 4)).any fun o => o.rowsLeft.any fun r =>
    isBlock ((s.hart h).rv r).fmt && decide (((s.hart h).rv r).scl = g)

/-- A write of row v must wait: an earlier load into it is in flight (01 R26), or the array has still to copy it. -/
def State.vBusy (s : State) (h v : Nat) : Bool := ((s.hart h).rv v).flight.isSome || s.vReserved h v

/-- The first trap among rows. -/
def Hart.firstTrap (a : Hart) : List Nat → Option Trap
  | [] => none
  | v :: r => match (a.rv v).trap v with | some t => some t | none => a.firstTrap r

end Sys2Proof.Machine
end

