-- ==== Sys2Proof/Machine/VectorCore.lean ====
section
/-! DEFINITION. How a vector instruction runs (05 R145 to R151; 01 R10 to R13, R25 to R27; 16 R364): its rows in ascending order,
the row and group at which a deferred fault stops it, and the state that leaves. A row's groups below the stop are written before
the trap; an instruction that runs again at the same address goes on from there. -/

namespace Sys2Proof.Machine

/-! ### Elements -/

/-- Element e of width w set to v. -/
def setElem (d : VData) (w e v : Nat) : VData :=
  (d &&& ~~~(BitVec.ofNat 8192 ((2 ^ w - 1) * 2 ^ (w * e)))) ||| BitVec.ofNat 8192 (v % 2 ^ w * 2 ^ (w * e))

/-- Write the elements that f gives, and gather flags. -/
def foldElems (w : Nat) (f : Nat → Option (Nat × BitVec 5)) : List Nat → VData × BitVec 5 → VData × BitVec 5
  | [], x => x
  | e :: r, (d, fl) =>
    match f e with
    | none => foldElems w f r (d, fl)
    | some (v, g) => foldElems w f r (setElem d w e v, fl ||| g)

/-- The elements lo to hi − 1. -/
def spanOf (lo hi : Nat) : List Nat := (List.range (hi - lo)).map fun i => lo + i

/-- Element e of row v of a hart, at width w. -/
def Hart.elem (a : Hart) (v w e : Nat) : Nat := elemAt (a.rv v).data w e

/-- Element e is active: below VL and its guard bit set (00 R8, 03 R88). -/
def actAt (g : PData) (vl e : Nat) : Bool := decide (e < vl) && g.getLsbD e
/-- The active elements of a row, ascending. -/
def activeElems (g : PData) (vl : Nat) : List Nat := (List.range vl).filter fun e => g.getLsbD e

/-- The value a scalar supplies in place of element of format t (05 R145). -/
def Hart.scalar (a : Hart) (t : Fmt) (r : Rnd) (b : XI) : Nat × BitVec 5 :=
  match b with
  | .x x => ((a.rx x).toNat % 2 ^ fmtWidth t, 0)
  | .i v => if isFloat t then cvtFromInt t r false v.toInt else (codeOf (fmtWidth t) v.toInt, 0)

/-- Operand B of element e in row j at format t and width w. -/
def Hart.opB (a : Hart) (t : Fmt) (w : Nat) (r : Rnd) (b : VXI) (j e : Nat) : Nat :=
  match b with
  | .v v => a.elem (v.toNat + j) w e
  | .x x => (a.scalar t r (.x x)).1
  | .i v => (a.scalar t r (.i v)).1

/-- The flags of converting a class-100 scalar (05 R145). -/
def Hart.scalarFlags (a : Hart) (t : Fmt) (r : Rnd) : VXI → BitVec 5
  | .i v => (a.scalar t r (.i v)).2
  | _ => 0

/-! ### What an instruction that has issued goes on with (16 R364; log 6) -/

/-- A record of the instruction at the hart's PC with first destination d, at one of its rows. -/
def Resume.isFor (r : Resume) (a : Hart) (d : Nat) : Bool :=
  decide (r.pc = a.pc) && decide (r.dest = d) && decide (r.depth = a.depth) && decide (r.row < a.rc)

/-- The record of the instruction at the hart's PC, if a stall, a trap or a context save stopped it. It goes on there over whatever
the program has written since: 16 R364 calls the results unpredictable, and this is the model's choice (log 6). -/
def Hart.resumeAt (a : Hart) (d : Nat) : Option Resume := a.resume.find? fun r => r.isFor a d

/-- Forget it. -/
def Hart.clearResume (a : Hart) (d : Nat) : Hart := { a with resume := a.resume.filter fun r => !r.isFor a d }

/-- What the instruction with destination rows d to d + rc − 1 reads whole as it issues. -/
def Hart.issuedNow (a : Hart) (d : Nat) : Issued :=
  { fctl := a.fctl, p := a.p, g := a.g, tags := if d < 64 then (List.range a.rc).map fun j => (a.rv (d + j)).tag else [] }

/-- Destination rows under the tags that they had at issue. -/
def Hart.withRowTags (a : Hart) : Nat → List (BitVec 16) → Hart
  | _, [] => a
  | v, t :: r => (a.wv v { a.rv v with tag := t }).withRowTags (v + 1) r

/-- The hart as the instruction at its PC reads it: for one that has issued, with what it read then (05 R146; 01 R30). -/
def Hart.asIssued (a : Hart) (d : Nat) : Hart :=
  match a.resumeAt d with
  | none => a
  | some r => { a with fctl := r.read.fctl, p := r.read.p, g := r.read.g }.withRowTags d r.read.tags

/-- The issued instruction with destination d stops at row j and group g. -/
def Hart.stopAt (a : Hart) (d : Nat) (mid : Bool) (j g : Nat) (read : Issued) : Hart :=
  { a.clearResume d with
    resume := { pc := a.pc, dest := d, depth := a.depth, mid := mid, row := j, grp := g, read := read } :: (a.clearResume d).resume }

/-! ### Plans -/

/-- A source: its first register, how many of its elements each destination element takes, and its width in row j. -/
structure VSrc where
  base : Nat
  per : Nat
  w : Nat → Nat

/-- A vector instruction after its tag checks. `dw` is the width of the elements that VL counts, whose groups a stop is measured
in; `whole` marks an instruction that reads a whole row before it writes any of it (05 R147); `dest` is the destination's first
register and its rows' tags; `gdest` the scale registers it writes; `row j lo hi` performs elements lo to hi − 1 of row j. -/
structure VPlan where
  vl : Nat
  rc : Nat
  srcs : List VSrc
  dw : Nat → Nat
  whole : Bool := false
  dest : Option (Nat × (Nat → BitVec 16)) := none
  gdest : List Nat := []
  beats : Nat
  wf : BitVec 13 := 0
  sflags : BitVec 5 := 0
  row : Nat → Nat → Nat → Hart → Hart

/-- Element groups that hold the first n elements of width w (01 R10). -/
def groupsFor (n w : Nat) : Nat := min 64 ((n * w + 127) / 128)

/-- Groups of source p that row j needs (05 R146). -/
def VSrc.need (p : VSrc) (vl j : Nat) : Nat := groupsFor (vl * p.per) (p.w j)

/-- A source row is not there yet: its load has still to land, or another instruction's write stopped below there (01 R26). -/
def VecReg.waits (r : VecReg) (need : Nat) : Bool := decide (r.pi < need) && (r.flight.isSome || !r.poisoned)

/-- What stops a row: a group that is not there yet, or a fault. -/
inductive VHalt where
  | wait
  | trap (t : Trap)

/-- The first element of a source row at which it stops the instruction, in destination elements, and how. `own` marks a row that the
instruction writes as well: its groups hold old values until their turn comes. -/
def VSrc.halt (p : VSrc) (a : Hart) (vl j : Nat) (own : Bool) : Option (Nat × VHalt) :=
  let r := a.rv (p.base + j)
  let at_ := fun (g : Nat) => g * 128 / p.w j / p.per
  if r.waits (p.need vl j) && (!own || r.flight.isSome) then some (at_ r.pi, .wait)
  else
    match r.trap (p.base + j) with
    | none => none
    | some t =>
      let g := if r.pi < 64 then r.pi else 0
      if g < p.need vl j then some (at_ g, .trap t) else none

/-- The earlier of two stops; the first wins a tie, but for a wait. -/
def earlier (x y : Option (Nat × VHalt)) : Option (Nat × VHalt) :=
  match x, y with
  | none, y => y
  | x, none => x
  | some (e, t), some (f, u) =>
    if f < e then some (f, u) else if e < f then some (e, t) else match u with | .wait => some (e, .wait) | _ => some (e, t)

/-- Row v is a source in row j. -/
def VPlan.inPlace (p : VPlan) (j v : Nat) : Bool := p.srcs.any fun src => decide (src.base + j = v)

/-- The record of a load that has faulted, which P = 1 stands for below PI = 64 (01 R27). -/
def VecReg.standing (r : VecReg) : Option LoadRec := if r.pi < 64 then r.lrec else none

/-- The destination register of row j. -/
def VPlan.destOf (p : VPlan) (j : Nat) : Option Nat := p.dest.map fun d => d.1 + j

/-- The stop of row j, if a source row stops it. -/
def VPlan.halt (p : VPlan) (a : Hart) (j : Nat) : Option (Nat × VHalt) :=
  p.srcs.foldl (fun m src => earlier m (src.halt a p.vl j (decide (p.destOf j = some (src.base + j))))) none

/-- The destination group at which a stop at element e falls. -/
def VPlan.stopGroup (p : VPlan) (j e : Nat) : Nat := if p.whole then 0 else e * p.dw j / 128

/-- Row v is a source of row j that is poisoned: its P, and its load record if it has one, stay until VRESUME or the completed write
takes them (01 R27, R28). -/
def VPlan.keeps (p : VPlan) (a : Hart) (j v : Nat) : Bool := (a.rv v).poisoned && p.inPlace j v

/-- A completed destination row (01 R25, R27). -/
def VPlan.endRow (p : VPlan) (a : Hart) (j : Nat) : Hart :=
  match p.dest with
  | none => a
  | some (d, tag) => a.wv (d + j) { a.rv (d + j) with tag := tag j, pi := 64, lrec := none, flight := none }

/-- A destination row whose groups below g are written: its tag and PI (05 R148; 01 R25). VRESUME of one that is also its source, and
whose load had faulted, begins at g. -/
def VPlan.stopRow (p : VPlan) (a : Hart) (j g : Nat) : Hart :=
  match p.dest with
  | none => a
  | some (d, tag) =>
    let r := a.rv (d + j)
    let k := p.keeps a j (d + j)
    a.wv (d + j) { r with
      tag := if k then poisonTag (tag j) else tag j, pi := g, lrec := if k then r.standing else none, flight := none }

/-- A destination row as the instruction issues. -/
def VPlan.beginRow (p : VPlan) (a : Hart) (j : Nat) : Hart := p.stopRow a j 0

/-- Where a plan stopped: row, group, and why. -/
structure VStop where
  row : Nat
  grp : Nat
  why : VHalt

/-- Rows in order, the first from element lo, each group once its sources are there (05 R147; 01 R26); where one stopped them, if one
did. -/
def VPlan.rows (p : VPlan) (a0 : Hart) : List (Nat × Nat) → Hart → Hart × Option VStop
  | [], a => (a, none)
  | (j, lo) :: r, a =>
    match p.halt a0 j with
    | none => p.rows a0 r (p.endRow (p.row j lo p.vl a) j)
    | some (e, t) =>
      let g := max (lo * p.dw j / 128) (p.stopGroup j e)
      let hi := g * 128 / p.dw j
      (p.stopRow (if lo < hi then p.row j lo hi a else a) j g, some { row := j, grp := g, why := t })

/-- The destination registers. -/
def VPlan.dests (p : VPlan) : List Nat :=
  match p.dest with
  | some (d, _) => (List.range p.rc).map fun j => d + j
  | none => []

/-- The first destination register; 64 for none. -/
def VPlan.destBase (p : VPlan) : Nat := match p.dest with | some (d, _) => d | none => 64

/-- SPENT takes a charge and stops at 2,047 (12 R308). -/
def Hart.charge (a : Hart) (n : Nat) : Hart := { a with spent := min 2047 (a.spent + n) }

/-- The charge of an instruction without destination rows as it issues; one that goes on in its middle has been charged (12 R308). -/
def Hart.chargeOnce (a : Hart) (n : Nat) : Hart := if (a.resumeAt 64).any fun r => r.mid then a else a.charge n

/-- What such an instruction read whole at issue. -/
def Hart.readNow (a : Hart) : Issued := match a.resumeAt 64 with | some r => r.read | none => a.issuedNow 64

/-- Such an instruction has issued, is charged, and holds the lanes while it waits under R26 from row j and group g on (12 R308, R309). -/
def State.stall (s : State) (h beats j g : Nat) : State :=
  (s.modHart h fun y => (y.chargeOnce beats).stopAt 64 true j g y.readNow).wait h .running 0

/-- The rows still to do: the resume row from its group, then those after it. -/
def VPlan.todo (p : VPlan) (at_ : Option Resume) : List (Nat × Nat) :=
  match at_ with
  | none => (List.range p.rc).map fun j => (j, 0)
  | some r => ((List.range p.rc).filter fun j => decide (r.row ≤ j)).map fun j =>
      (j, if j = r.row then r.grp * 128 / p.dw j else 0)

/-- The instruction cannot issue or go on yet: a destination's earlier write is in progress (01 R26), or the array has still to copy it
(06 R199). A destination that is a source as well must also be free of another instruction's stopped write. -/
def State.planWaits (s : State) (p : VPlan) (at_ : Option Resume) : Bool :=
  let h := s.cur
  let a := s.hart h
  (p.todo at_).any (fun q => (p.destOf q.1).any fun v => s.vBusy h v) || p.gdest.any (fun g => s.gReserved h g)
    || (at_.isNone && (List.range p.rc).any fun j => p.srcs.any fun src =>
      decide (p.destOf j = some (src.base + j)) && (a.rv (src.base + j)).waits (src.need p.vl j))

/-- Run a plan for the instruction of hart `cur`: wait to issue; issue, which charges it and begins its rows; then perform its rows and
retire, or stall in its middle, or stop at a deferred fault or POISON, with the rows and groups before it done (05 R147; 12 R321). -/
def State.runV (s : State) (c : Ctl) (w : BitVec 13) (p : VPlan) : State :=
  let h := s.cur
  let a0 := s.hart h
  let d := p.destBase
  let at_ := a0.resumeAt d
  if s.planWaits p at_ then s.wait h .running 0
  else
    let read := match at_ with | some r => r.read | none => a0.issuedNow d
    let a1 := match at_ with
      | none => (List.range p.rc).foldl p.beginRow a0
      | some r => (p.todo at_).foldl (fun a q => p.stopRow a q.1 (if q.1 = r.row then r.grp else 0)) a0
    let a2 := if at_.any (fun r => r.mid) then a1 else a1.charge p.beats
    match p.rows a0 (p.todo at_) a2 with
    | (a3, none) => (s.setHart h ((a3.clearResume d).addFlags p.sflags)).retire h c (w ||| p.wf)
    | (a3, some { row := j, grp := g, why := .wait }) => (s.setHart h (a3.stopAt d true j g read)).wait h .running 0
    | (a3, some { row := j, grp := g, why := .trap t }) =>
      let a4 := a3.stopAt d false j g read
      let a5 := if j = 0 ∧ g = 0 then a4 else { a4.addFlags p.sflags with wflag := a4.wflag ||| w ||| p.wf }
      (s.setHart h a5).trapHere h t

/-- A tag check: row, register, field, and what the tag must satisfy (05 R148). -/
structure TagCheck where
  row : Nat
  v : Nat
  field : Nat
  ok : BitVec 16 → Bool

/-- FMT for the first register whose check fails, from row j on. -/
def Hart.fmtCheck (a : Hart) (j : Nat) : List TagCheck → Option Trap
  | [] => none
  | k :: r => if k.row < j || k.ok (a.rv k.v).tag then a.fmtCheck j r else some (trapFmt (a.rv k.v).tag k.field)

/-- The rows of a field with one check. -/
def rowChecks (base rc field : Nat) (ok : Nat → BitVec 16 → Bool) : List TagCheck :=
  (List.range rc).map fun j => { row := j, v := base + j, field := field, ok := ok j }

/-- The current hart as its instruction with first destination d reads it. -/
def State.reader (s : State) (d : Nat) : Hart := (s.hart s.cur).asIssued d

/-- Take the first failing tag check, or go on; rows done before a resume point are not checked again. -/
def State.withTags (s : State) (d : Nat) (cs : List TagCheck) (k : State) : State :=
  let a := s.reader d
  let j := match (s.hart s.cur).resumeAt d with | some r => r.row | none => 0
  match a.fmtCheck j cs with
  | some t => s.trapHere s.cur t
  | none => k

/-- VL' of 01 R13 for a width, and whether it differs from VL. -/
def Hart.vlAt (a : Hart) (w : Nat) : Nat := min a.vl.toNat (8192 / w)
def Hart.vlClamps (a : Hart) (w : Nat) : Bool := decide (8192 < a.vl.toNat * w)

/-- The widest of the rows' formats; raw counts as 8. -/
def widestOf (ts : List Fmt) : Nat := ts.foldl (fun m t => max m (if t = .raw then 8 else fmtWidth t)) 0

def Hart.rowFmt (a : Hart) (base j : Nat) : Fmt := (a.rv (base + j)).fmt
def Hart.rowFmts (a : Hart) (base : Nat) : List Fmt := (List.range a.rc).map fun j => a.rowFmt base j

/-- The charge of an element-wise instruction (12 R308). -/
def beatsOf (rc vl w : Nat) : Nat := rc * ((vl * w + 1023) / 1024)

/-- A tag with a format and GRP and SCL zero. -/
def plainTag (t : Fmt) : BitVec 16 := tagBits { fmt := t, grp := 0, scl := 0 }

/-- A row function that writes elements of one destination register (05 R148, R149). -/
def writeRow (d w : Nat) (act : Nat → Bool) (f : Nat → Nat → Nat × BitVec 5) (j lo hi : Nat) (a : Hart) : Hart :=
  let r := a.rv (d + j)
  let (data, fl) := foldElems w (fun e => if act e then some (f j e) else none) (spanOf lo hi) (r.data, 0)
  (a.wv (d + j) { r with data := data }).addFlags fl

end Sys2Proof.Machine
end

