-- ==== Sys2Proof/Machine/VectorArith.lean ====
section
/-! DEFINITION. Vector arithmetic, bitwise operations and shifts (05 R152 to R157). -/

namespace Sys2Proof.Machine

/-- Bits 8 and 9 of 03 R97 for rows of the given formats: a rounding modifier on integers, .u on floating point. -/
def fmtFlags (c : Ctl) (mods : BitVec 6) (ts : List Fmt) : BitVec 13 :=
  wfIf 8 (decide (mods &&& 7 ≠ 0) && c.rounds && ts.any fun t => !isFloat t)
    ||| wfIf 9 (mods.getLsbD 4 && c.u && ts.any isFloat)

/-- What decoding says of a two-source or one-source element-wise instruction. -/
def vHead (d a : VReg) (b : List VReg) (mods : BitVec 6) : Head :=
  { vs := d :: a :: b, aV := true, bV := !b.isEmpty, mods := mods, elem := true }

/-- A source row of the format its own tag names. -/
def Hart.src (h : Hart) (base : VReg) : VSrc :=
  { base := base.toNat, per := 1, w := fun j => fmtWidth (h.rowFmt base.toNat j) }

/-- The conversion flags of a scalar, once, when some element is active (05 R145). -/
def Hart.onceFlags (h : Hart) (g : PData) (vl : Nat) (ts : List Fmt) (r : Rnd) (b : VXI) : BitVec 5 :=
  if (activeElems g vl).isEmpty then 0 else ts.foldl (fun m t => m ||| h.scalarFlags t r b) 0

/-- The shape of 05 R152's arithmetic: every source row has one format that `ok` accepts, and the result keeps it with GRP and
SCL zero. `third` makes the destination a source. `f` answers an element from a, b and d. -/
def State.vArith (s : State) (c : Ctl) (mods : BitVec 6) (d a : VReg) (b : Option VXI) (third : Bool) (ok : Fmt → Bool)
    (f : Rnd → Fmt → Nat → Nat → Nat → Nat × BitVec 5) : State :=
  let bx := b.getD (.i 0)
  let regs := bx.regs
  s.issue c (vHead d a regs mods) fun w =>
    let h := s.reader d.toNat
    let rc := h.rc
    let same := fun (j : Nat) (t : BitVec 16) => decide (tagFmt t = h.rowFmt a.toNat j)
    s.withTags d.toNat (rowChecks a.toNat rc 1 (fun _ t => ok (tagFmt t))
        ++ (regs.flatMap fun r => rowChecks r.toNat rc 2 same)
        ++ (if third then rowChecks d.toNat rc 0 same else [])) <|
      let ts := h.rowFmts a.toNat
      let wd := widestOf ts
      let vl := h.vlAt wd
      let g := h.guard c
      let r := if mods &&& 7 ≠ 0 then h.rnd c else .rne
      s.runV c w {
        vl := vl, rc := rc, beats := beatsOf rc vl wd
        srcs := h.src a :: (regs.map h.src ++ (if third then [h.src d] else []))
        dw := fun j => fmtWidth (h.rowFmt a.toNat j)
        dest := some (d.toNat, fun j => plainTag (h.rowFmt a.toNat j))
        wf := wfIf 0 (h.vlClamps wd) ||| fmtFlags c mods ts
        sflags := h.onceFlags g vl ts r bx
        row := fun j lo hi x =>
          let t := h.rowFmt a.toNat j
          let w := fmtWidth t
          writeRow d.toNat w (actAt g vl) (fun j e =>
            f r t (h.elem (a.toNat + j) w e) (h.opB t w r bx j e) (h.elem (d.toNat + j) w e)) j lo hi x }

/-- Formats Int or FP (05 R152). -/
def intFp (t : Fmt) : Bool := isInt t || isFp t

/-- An operation with an exact integer form and an exact floating-point form (05 R153). -/
def arithElem (c : Ctl) (fi : Int → Int → Int → Int) (ff : Rnd → FVal → FVal → FVal → Ex) (r : Rnd) (t : Fmt)
    (a b d : Nat) : Nat × BitVec 5 :=
  let w := fmtWidth t
  if isInt t then (fitCode w c.u c.sat (fi (intOf w c.u a) (intOf w c.u b) (intOf w c.u d)), 0)
  else (ff r (fdec t a) (fdec t b) (fdec t d)).round t r c.sat

def execVadd (c : Ctl) (d a : VReg) (b : VXI) (s : State) : Out :=
  .next (s.vArith c 0x1F d a (some b) false intFp (arithElem c (fun a b _ => a + b) fun r a b _ => a.ex.plus r b))
def execVsub (c : Ctl) (d a : VReg) (b : VXI) (s : State) : Out :=
  .next (s.vArith c 0x1F d a (some b) false intFp (arithElem c (fun a b _ => a - b) fun r a b _ => a.ex.plus r b.neg))
def execVmul (c : Ctl) (d a : VReg) (b : VXI) (s : State) : Out :=
  .next (s.vArith c 0x1F d a (some b) false intFp (arithElem c (fun a b _ => a * b) fun _ a b _ => exMul a b))
def execVmad (c : Ctl) (d a : VReg) (b : VXI) (s : State) : Out :=
  .next (s.vArith c 0x1F d a (some b) true intFp
    (arithElem c (fun a b d => a * b + d) fun r a b d => (exMul a b).plus r d))
def execVmsb (c : Ctl) (d a : VReg) (b : VXI) (s : State) : Out :=
  .next (s.vArith c 0x1F d a (some b) true intFp
    (arithElem c (fun a b d => a * b - d) fun r a b d => (exMul a b).plus r d.neg))
def execVnmad (c : Ctl) (d a : VReg) (b : VXI) (s : State) : Out :=
  .next (s.vArith c 0x1F d a (some b) true intFp
    (arithElem c (fun a b d => d - a * b) fun r a b d => (exMul a b).neg.plus r d))
def execVdiv (c : Ctl) (d a : VReg) (b : VXI) (s : State) : Out :=
  .next (s.vArith c 0x07 d a (some b) false isFp fun r t a b _ => (exDiv (fdec t a) (fdec t b)).round t r false)

/-- A one-source floating-point function, rounded once (05 R156). -/
def State.vFunc (s : State) (c : Ctl) (d a : VReg) (f : FVal → Ex) : State :=
  s.vArith c 0x07 d a none false isFp fun r t a _ _ => (f (fdec t a)).round t r false

def execVsqrt (c : Ctl) (d a : VReg) (s : State) : Out := .next (s.vFunc c d a exSqrt)
def execVrcp (c : Ctl) (d a : VReg) (s : State) : Out := .next (s.vFunc c d a exRcp)
def execVrsq (c : Ctl) (d a : VReg) (s : State) : Out := .next (s.vFunc c d a exRsqrt)
def execVexp2 (c : Ctl) (d a : VReg) (s : State) : Out := .next (s.vFunc c d a exExp2)
def execVlog2 (c : Ctl) (d a : VReg) (s : State) : Out := .next (s.vFunc c d a exLog2)

/-- VMIN and VMAX of an element (05 R154). -/
def minMax (c : Ctl) (hi : Bool) (t : Fmt) (a b : Nat) : Nat × BitVec 5 :=
  if isInt t then (minMaxI (fmtWidth t) c.u hi a b, 0) else minMaxF t hi a b

def execVmin (c : Ctl) (d a : VReg) (b : VXI) (s : State) : Out :=
  .next (s.vArith c 0x10 d a (some b) false intFp fun _ t a b _ => minMax c false t a b)
def execVmax (c : Ctl) (d a : VReg) (b : VXI) (s : State) : Out :=
  .next (s.vArith c 0x10 d a (some b) false intFp fun _ t a b _ => minMax c true t a b)

/-- VABS and VNEG (05 R155): the sign bit of an FP code, or the exact integer. -/
def signElem (c : Ctl) (neg : Bool) (t : Fmt) (a : Nat) : Nat × BitVec 5 :=
  let w := fmtWidth t
  let i := intOf w false a
  if isInt t then (fitCode w false c.sat (if neg then -i else (i.natAbs : Int)), 0)
  else (if neg then (if a < 2 ^ (w - 1) then a + 2 ^ (w - 1) else a - 2 ^ (w - 1)) else a % 2 ^ (w - 1), 0)

def execVabs (c : Ctl) (d a : VReg) (s : State) : Out :=
  .next (s.vArith c 0x08 d a none false intFp fun _ t a _ _ => signElem c false t a)
def execVneg (c : Ctl) (d a : VReg) (s : State) : Out :=
  .next (s.vArith c 0x08 d a none false intFp fun _ t a _ _ => signElem c true t a)

/-! ### Bitwise and shifts (05 R157) -/

/-- The tag that rules row j: the first tagged vector operand's, A before B. -/
def Hart.bitTag (h : Hart) (a : VReg) (b : Option VXI) (j : Nat) : BitVec 16 :=
  let ta := (h.rv (a.toNat + j)).tag
  if tagFmt ta ≠ .raw then ta
  else match b with
    | some (.v r) => (h.rv (r.toNat + j)).tag
    | _ => ta

/-- The shape of the bitwise instructions and the shifts: element width and result tag come from one tag, `ok` is what A's row
must satisfy, and other operands are read at that width. -/
def State.vBits (s : State) (c : Ctl) (d a : VReg) (b : Option VXI) (ok : Hart → Nat → BitVec 16 → Bool)
    (f : Nat → Nat → Nat → Nat) : State :=
  let bx := b.getD (.i 0)
  let regs := bx.regs
  s.issue c (vHead d a regs 0) fun w =>
    let h := s.reader d.toNat
    let rc := h.rc
    s.withTags d.toNat (rowChecks a.toNat rc 1 (ok h)) <|
      let ft := fun j => tagFmt (h.bitTag a b j)
      let ts := (List.range rc).map ft
      let wd := widestOf ts
      let vl := h.vlAt wd
      let g := h.guard c
      s.runV c w {
        vl := vl, rc := rc, beats := beatsOf rc vl (max wd (widestOf ((a :: regs).flatMap fun r => h.rowFmts r.toNat)))
        srcs := (a :: regs).map fun r => { base := r.toNat, per := 1, w := fun j => fmtWidth (ft j) }
        dw := fun j => fmtWidth (ft j)
        dest := some (d.toNat, fun j => cleanTag (h.bitTag a b j))
        wf := wfIf 0 (h.vlClamps wd)
        sflags := h.onceFlags g vl ts .rne bx
        row := fun j lo hi x =>
          let w := fmtWidth (ft j)
          writeRow d.toNat w (actAt g vl) (fun j e =>
            (f w (h.elem (a.toNat + j) w e) (h.opB (ft j) w .rne bx j e), 0)) j lo hi x }

/-- Some vector operand of the row is tagged. -/
def bitsOk (a : VReg) (b : Option VXI) (h : Hart) (j : Nat) (_ : BitVec 16) : Bool :=
  decide (tagFmt (h.bitTag a b j) ≠ .raw)

def execVand (c : Ctl) (d a : VReg) (b : VXI) (s : State) : Out :=
  .next (s.vBits c d a (some b) (bitsOk a (some b)) fun _ x y => x &&& y)
def execVor (c : Ctl) (d a : VReg) (b : VXI) (s : State) : Out :=
  .next (s.vBits c d a (some b) (bitsOk a (some b)) fun _ x y => x ||| y)
def execVxor (c : Ctl) (d a : VReg) (b : VXI) (s : State) : Out :=
  .next (s.vBits c d a (some b) (bitsOk a (some b)) fun _ x y => x ^^^ y)
def execVnot (c : Ctl) (d a : VReg) (s : State) : Out :=
  .next (s.vBits c d a none (bitsOk a none) fun w x _ => 2 ^ w - 1 - x)

/-- A's tag is Int. -/
def shiftOk (_ : Hart) (_ : Nat) (t : BitVec 16) : Bool := isInt (tagFmt t)

def execVshl (c : Ctl) (d a : VReg) (b : VXI) (s : State) : Out :=
  .next (s.vBits c d a (some b) shiftOk fun w x n => x * 2 ^ (n % w) % 2 ^ w)
def execVshr (c : Ctl) (d a : VReg) (b : VXI) (s : State) : Out :=
  .next (s.vBits c d a (some b) shiftOk fun w x n => x / 2 ^ (n % w))
def execVsha (c : Ctl) (d a : VReg) (b : VXI) (s : State) : Out :=
  .next (s.vBits c d a (some b) shiftOk fun w x n => codeOf w (intOf w false x / 2 ^ (n % w)))

end Sys2Proof.Machine
end

