-- ==== Sys2Proof/Machine/VectorConv.lean ====
section
/-! DEFINITION. Comparison, selection, classification, conversion, quantization, tags and placement (05 R158 to R169). -/

namespace Sys2Proof.Machine

/-- Set or clear bits e of a predicate as f says. -/
def foldBits (f : Nat → Option (Bool × BitVec 5)) : List Nat → PData × BitVec 5 → PData × BitVec 5
  | [], x => x
  | e :: r, (p, fl) =>
    match f e with
    | none => foldBits f r (p, fl)
    | some (b, g) => foldBits f r (if b then p ||| BitVec.twoPow 2048 e else p &&& ~~~(BitVec.twoPow 2048 e), fl ||| g)

/-- The p register j rows after d. -/
def pRow (d : PReg) (j : Nat) : PReg := BitVec.ofNat 7 (d.toNat + j)

/-- The shape of VCMP and VCLASS: row j into p(d + j), active bits only (05 R150, R158). -/
def State.vTest (s : State) (c : Ctl) (d : PReg) (a : VReg) (b : Option VXI) (ok : Fmt → Bool)
    (f : Fmt → Nat → Nat → Bool × BitVec 5) : State :=
  let bx := b.getD (.i 0)
  let regs := bx.regs
  s.issue c { vs := a :: regs, mults := [d.toNat], ps := [d], aV := true, bV := !regs.isEmpty, elem := true } fun w =>
    let h := s.reader 64
    let rc := h.rc
    s.withTags 64 (rowChecks a.toNat rc 1 (fun _ t => ok (tagFmt t))
        ++ (regs.flatMap fun r => rowChecks r.toNat rc 2 fun j t => decide (tagFmt t = h.rowFmt a.toNat j))) <|
      let ts := h.rowFmts a.toNat
      let wd := widestOf ts
      let vl := h.vlAt wd
      let g := h.guard c
      s.runV c w {
        vl := vl, rc := rc, beats := beatsOf rc vl wd
        srcs := h.src a :: regs.map h.src
        dw := fun j => fmtWidth (h.rowFmt a.toNat j)
        wf := wfIf 0 (h.vlClamps wd)
        sflags := h.onceFlags g vl ts .rne bx
        row := fun j lo hi x =>
          let t := h.rowFmt a.toNat j
          let w := fmtWidth t
          let (p, fl) := foldBits (fun e =>
            if actAt g vl e then some (f t (h.elem (a.toNat + j) w e) (h.opB t w .rne bx j e)) else none)
            (spanOf lo hi) (x.rp (pRow d j), 0)
          (x.wp (pRow d j) p).addFlags fl }

def execVcmp (c : Ctl) (k : VCond) (d : PReg) (a : VReg) (b : VXI) (s : State) : Out :=
  .next (s.vTest c d a (some b) intFp fun t x y => if isInt t then (cmpI (fmtWidth t) k x y, 0) else cmpF t k x y)

def execVclass (c : Ctl) (d : PReg) (a : VReg) (b : BitVec 10) (s : State) : Out :=
  .next (s.vTest c d a none isFloat fun t x _ => (b.getLsbD (classOf t x), 0))

/-- VSEL: the guard selects for every element below VL (05 R159). -/
def execVsel (c : Ctl) (d a : VReg) (b : VXI) (s : State) : Out :=
  .next (s.issue c (vHead d a b.regs 0) fun w =>
    let h := s.reader d.toNat
    let rc := h.rc
    let upper := fun (t : BitVec 16) => t.extractLsb' 5 11
    s.withTags d.toNat (rowChecks a.toNat rc 1 (fun _ t => !b.regs.isEmpty || decide (tagFmt t ≠ .raw))
        ++ b.regs.flatMap fun r => rowChecks r.toNat rc 2 fun j t => decide (upper t = upper (h.rv (a.toNat + j)).tag)) <|
      let ts := h.rowFmts a.toNat
      let wd := widestOf ts
      let vl := h.vlAt wd
      let g := h.guard c
      let wj := fun j => if h.rowFmt a.toNat j = .raw then 8 else fmtWidth (h.rowFmt a.toNat j)
      s.runV c w {
        vl := vl, rc := rc, beats := beatsOf rc vl wd
        srcs := (a :: b.regs).map fun r => { base := r.toNat, per := 1, w := wj }
        dw := wj
        dest := some (d.toNat, fun j => cleanTag (h.rv (a.toNat + j)).tag)
        wf := wfIf 0 (h.vlClamps wd)
        row := fun j lo hi x => writeRow d.toNat (wj j) (fun _ => true) (fun j e =>
          (if g.getLsbD e then h.elem (a.toNat + j) (wj j) e else h.opB (h.rowFmt a.toNat j) (wj j) .rne b j e, 0)) j lo hi x })

/-! ### Conversion (05 R161 to R164) -/

/-- One source row to one destination row with its own tag, source width by the source's tag. `ok` is what the source's format
must satisfy. A row that is its own wider destination is read whole before any of it is written: DESIGN CHOICE, log 38. -/
def State.vConv (s : State) (c : Ctl) (hd : Head) (d a : VReg) (ok : Fmt → Bool) (tag : Nat → BitVec 16)
    (wf : List Fmt → BitVec 13) (f : Hart → Nat → Nat → Nat → Nat × BitVec 5) : State :=
  s.issue c hd fun w =>
    let h := s.reader d.toNat
    let rc := h.rc
    s.withTags d.toNat (rowChecks a.toNat rc 1 fun _ t => ok (tagFmt t)) <|
      let ts := h.rowFmts a.toNat
      let wd := max (widestOf ts) (widestOf ((List.range rc).map fun j => tagFmt (tag j)))
      let vl := h.vlAt wd
      let g := h.guard c
      s.runV c w {
        vl := vl, rc := rc, beats := beatsOf rc vl wd
        srcs := [h.src a]
        dw := fun j => fmtWidth (tagFmt (tag j))
        whole := decide (d = a) && (List.range rc).any fun j => decide (fmtWidth (h.rowFmt a.toNat j) < fmtWidth (tagFmt (tag j)))
        dest := some (d.toNat, tag)
        wf := wfIf 0 (h.vlClamps wd) ||| wf ts
        row := fun j lo hi x => writeRow d.toNat (fmtWidth (tagFmt (tag j))) (actAt g vl) (fun j e =>
          f h j e (h.elem (a.toNat + j) (fmtWidth (h.rowFmt a.toNat j)) e)) j lo hi x }

def execVcvt (c : Ctl) (d a : VReg) (b : Fmt) (s : State) : Out :=
  .next (s.vConv c (vHead d a [] 0x3F) d a cvtOk (fun _ => plainTag b)
    (fun ts => wfIf 8 (c.rounds && !isFloat b && ts.any fun t => !isFloat t)
      ||| wfIf 9 ((c.u && ts.any isFloat) || (c.x5 && isFloat b)))
    fun h j _ x => cvtElem (h.rowFmt a.toNat j) b (h.rnd c) c.sat c.u c.x5 x)

/-- A tag operand as the instruction holds it: an MX format has block length 32 (05 R151, 03 R97 bit 10). -/
def normTag (t : TagOp) : TagOp := if isMx t.fmt then { t with grp := 0 } else t
/-- Row j's tag for a tag operand. -/
def rowTag (t : TagOp) (j : Nat) : BitVec 16 :=
  tagBits { normTag t with scl := if isBlock t.fmt then t.scl + BitVec.ofNat 4 j else 0 }
def mxGrpFlag (t : TagOp) : BitVec 13 := wfIf 10 (isMx t.fmt && decide (t.grp ≠ 0))

/-- Entry i of scale register g (01 R16). -/
def Hart.scaleAt (a : Hart) (g i : Nat) : Nat := elemAt (a.rg (g % 16)) 32 i

def execVqnt (c : Ctl) (d a : VReg) (b : TagOp) (s : State) : Out :=
  .next (s.vConv c { vHead d a [] 0x07 with mults := [b.scl.toNat], barred := namesScale b } d a isFp (rowTag b) (fun _ => mxGrpFlag b)
    fun h j e x =>
      let g := h.scaleAt (b.scl.toNat + j) (e / tagGroup (tagBits (normTag b)))
      if isMx b.fmt then quantMx b.fmt (h.rowFmt a.toNat j) (h.rnd c) g x
      else quantQ b.fmt (h.rowFmt a.toNat j) (h.rnd c) g x)

def execVdqnt (c : Ctl) (d a : VReg) (b : Fmt) (s : State) : Out :=
  .next (s.vConv c (vHead d a [] 0x07) d a isBlock (fun _ => plainTag b) (fun _ => 0)
    fun h j e x =>
      let r := h.rv (a.toNat + j)
      (blockEx r.fmt (h.scaleAt r.scl (e / tagGroup r.tag)) x).round b (h.rnd c) false)

/-- Write 32-bit entries of scale register g. -/
def Hart.setScale (a : Hart) (g i v : Nat) : Hart := a.wg (g % 16) (setElem (a.rg (g % 16)) 32 i v)

/-- VSMAX (05 R164): entries of blocks with an active element; a stopped row has written the blocks wholly before the stop. -/
def execVsmax (c : Ctl) (d : GReg) (a : VReg) (b : TagOp) (s : State) : Out :=
  .next (s.issue c { vs := [a], mults := [d.toNat], barred := true, aV := true, elem := true } fun w =>
    let h := s.reader 64
    let rc := h.rc
    s.withTags 64 (rowChecks a.toNat rc 1 fun _ t => isFp (tagFmt t)) <|
      let wd := widestOf (h.rowFmts a.toNat)
      let vl := h.vlAt wd
      let g := h.guard c
      s.runV c w {
        vl := vl, rc := rc, beats := beatsOf rc vl wd
        srcs := [h.src a]
        dw := fun j => fmtWidth (h.rowFmt a.toNat j)
        gdest := (List.range rc).map fun j => d.toNat + j
        wf := wfIf 0 (h.vlClamps wd) ||| mxGrpFlag b
        row := fun j lo hi x =>
          let t := h.rowFmt a.toNat j
          (List.range ((vl + 31) / 32)).foldl (fun x k =>
            let es := (spanOf (32 * k) (min (32 * k + 32) vl)).filter fun e => g.getLsbD e
            if es.isEmpty || hi < min (32 * k + 32) vl || min (32 * k + 32) vl ≤ lo then x
            else x.setScale (d.toNat + j) k (mxScale b.fmt t (es.map fun e => h.elem (a.toNat + j) (fmtWidth t) e))) x })

/-! ### Tags and whole registers (05 R165, R167) -/

/-- Copy whole rows in units of 128 bits, whatever the guard and VL. -/
def State.vWhole (s : State) (c : Ctl) (w : BitVec 13) (d : Nat) (srcs : List VSrc) (tag : Nat → BitVec 16)
    (data : Hart → Nat → VData) (wf : BitVec 13) : State :=
  let h := s.reader d
  s.runV c w {
    vl := 64, rc := h.rc, beats := h.rc * 8, srcs := srcs, dw := fun _ => 128, dest := some (d, tag), wf := wf
    row := fun j lo hi x => writeRow d 128 (fun _ => true) (fun j e => (elemAt (data h j) 128 e, 0)) j lo hi x }

/-- A source row read whole. -/
def wholeSrc (a : VReg) : VSrc := { base := a.toNat, per := 1, w := fun _ => 128 }

def execVtag (c : Ctl) (d a : VReg) (b : TagOp) (s : State) : Out :=
  .next (s.issue c { vHead d a [] 0 with barred := namesScale b } fun w =>
    s.vWhole c w d.toNat [wholeSrc a] (rowTag b) (fun h j => (h.rv (a.toNat + j)).data) (mxGrpFlag b))

def execVmovVFromG (c : Ctl) (d : VReg) (a : GReg) (s : State) : Out :=
  .next (s.issue c { vs := [d], mults := [a.toNat], barred := true, elem := true } fun w =>
    s.vWhole c w d.toNat [] (fun _ => plainTag .i32) (fun h j => h.rg (a.toNat + j)) 0)

def execVmovGFromV (c : Ctl) (d : GReg) (a : VReg) (s : State) : Out :=
  .next (s.issue c { vs := [a], mults := [d.toNat], barred := true, aV := true, elem := true } fun w =>
    let h := s.reader 64
    s.runV c w {
      vl := 64, rc := h.rc, beats := h.rc * 8, srcs := [wholeSrc a], dw := fun _ => 128
      gdest := (List.range h.rc).map fun j => d.toNat + j
      row := fun j lo hi x =>
        let g := (d.toNat + j) % 16
        x.wg g (foldElems 128 (fun e => some (h.elem (a.toNat + j) 128 e, 0)) (spanOf lo hi) (x.rg g, 0)).1 })

/-- VMOV between vector registers: active elements, raw in elements of 8 bits. -/
def execVmovV (c : Ctl) (d a : VReg) (s : State) : Out :=
  .next (s.issue c (vHead d a [] 0) fun w =>
    let h := s.reader d.toNat
    let wj := fun j => if h.rowFmt a.toNat j = .raw then 8 else fmtWidth (h.rowFmt a.toNat j)
    let wd := widestOf (h.rowFmts a.toNat)
    let vl := h.vlAt wd
    let g := h.guard c
    s.runV c w {
      vl := vl, rc := h.rc, beats := beatsOf h.rc vl wd
      srcs := [{ base := a.toNat, per := 1, w := wj }]
      dw := wj
      dest := some (d.toNat, fun j => cleanTag (h.rv (a.toNat + j)).tag)
      wf := wfIf 0 (h.vlClamps wd)
      row := fun j lo hi x => writeRow d.toNat (wj j) (actAt g vl) (fun j e => (h.elem (a.toNat + j) (wj j) e, 0)) j lo hi x })

/-! ### Placement (05 R166, R168, R169) -/

/-- Elements made from a scalar. -/
def State.vMake (s : State) (c : Ctl) (mods : BitVec 6) (d : VReg) (t : Fmt) (wf : BitVec 13)
    (f : Hart → Nat → Nat) (fl : Hart → BitVec 5) : State :=
  s.issue c { vs := [d], mods := mods, elem := true } fun w =>
    let h := s.reader d.toNat
    let wd := fmtWidth t
    let vl := h.vlAt wd
    let g := h.guard c
    s.runV c w {
      vl := vl, rc := h.rc, beats := beatsOf h.rc vl wd, srcs := [], dw := fun _ => wd
      dest := some (d.toNat, fun _ => plainTag t)
      wf := wfIf 0 (h.vlClamps wd) ||| wf
      sflags := if (activeElems g vl).isEmpty then 0 else fl h
      row := fun j lo hi x => writeRow d.toNat wd (actAt g vl) (fun _ e => (f h e, 0)) j lo hi x }

def execVsplat (c : Ctl) (d : VReg) (a : XI) (b : Fmt) (s : State) : Out :=
  .next (s.vMake c 0x07 d b (wfIf 8 (c.rounds && !isFloat b)) (fun h _ => (h.scalar b (h.rnd c) a).1)
    fun h => (h.scalar b (h.rnd c) a).2)

def execViota (c : Ctl) (d : VReg) (a : XI) (b : Fmt) (s : State) : Out :=
  .next (s.vMake c 0 d b 0 (fun h e => ((h.scalar b .rne a).1 + e) % 2 ^ fmtWidth b) fun _ => 0)

/-- What VEXT and VINS meet in the one group they touch: a wait, a trap, or neither (05 R169). -/
def VecReg.groupMeets (r : VecReg) (v g : Nat) : Option (Option Trap) :=
  if r.pi ≤ g && (r.flight.isSome || !r.poisoned) then some none
  else match r.trap v with
    | some t => if r.pi = 64 || r.pi ≤ g then some (some t) else none
    | none => none

/-- VEXT: one element to x[D] (05 R169), as RC = 1 under fallback bit 1. -/
def execVext (c : Ctl) (d : XReg) (a : VReg) (b : XI) (s : State) : Out :=
  .next (s.issue c { vone := [a], aV := true, mods := 0x10, elem := true } fun w =>
    let h := s.reader 64
    s.withTags 64 [{ row := 0, v := a.toNat, field := 1, ok := fun t => decide (tagFmt t ≠ .raw) }] <|
      let r := h.rv a.toNat
      let wd := fmtWidth r.fmt
      let vl := h.vlAt wd
      let i := (h.xi b).toNat
      let wf := w ||| wfIf 0 (h.vlClamps wd) ||| wfIf 1 (decide (h.rc ≠ 1)) ||| wfIf 9 (c.u && isFloat r.fmt)
      let go := s.modHart s.cur fun x => (x.chargeOnce (beatsOf 1 vl wd)).clearResume 64
      if !(actAt (h.guard c) vl i) then go.retire s.cur c wf
      else match r.groupMeets a.toNat (i * wd / 128) with
        | some none => s.stall s.cur (beatsOf 1 vl wd) 0 0
        | some (some t) => go.trapHere s.cur t
        | none =>
          let v := elemAt r.data wd i
          let x := if (isInt r.fmt || r.fmt = .i4) && !c.u then BitVec.ofInt 64 (intOf wd false v) else BitVec.ofNat 64 v
          (go.modHart s.cur fun y => y.wx d x).retire s.cur c wf)

/-- VINS in each row, up to a row that must wait or traps. -/
def insertRows (v : W64) (i : Nat) (d : Nat) : List Nat → Hart → Hart × Option (Option Trap)
  | [], a => (a, none)
  | j :: r, a =>
    let x := a.rv (d + j)
    let w := fmtWidth x.fmt
    match x.groupMeets (d + j) (i * w / 128) with
    | some m => (a, some m)
    | none => insertRows v i d r (a.wv (d + j) { x with data := setElem x.data w i v.toNat })

/-- VINS: the low bits of x[A] into one element of each row, tags and PI unchanged (05 R169). -/
def execVins (c : Ctl) (d : VReg) (a : XReg) (b : XI) (s : State) : Out :=
  .next (s.issue c { vs := [d], elem := true } fun w =>
    let h := s.hart s.cur
    s.withTags 64 (rowChecks d.toNat h.rc 0 fun _ t => decide (tagFmt t ≠ .raw)) <|
      let wd := widestOf (h.rowFmts d.toNat)
      let vl := h.vlAt wd
      let i := (h.xi b).toNat
      let rows := List.range h.rc
      let wf := w ||| wfIf 0 (h.vlClamps wd)
      if !(actAt (h.guard c) vl i) then (s.modHart s.cur fun x => x.charge (beatsOf h.rc vl wd)).retire s.cur c wf
      else if rows.any (fun j => s.vReserved s.cur (d.toNat + j)) then s.wait s.cur .running 0
      else match insertRows (h.rx a) i d.toNat rows h with
        | (x, none) => (s.setHart s.cur (x.charge (beatsOf h.rc vl wd))).retire s.cur c wf
        | (_, some none) => s.wait s.cur .running 0
        | (x, some (some t)) => (s.setHart s.cur (x.charge (beatsOf h.rc vl wd))).trapHere s.cur t)

end Sys2Proof.Machine
end

