-- ==== Sys2Proof/Machine/Memory.lean ====
section
/-! DEFINITION. Loads and stores of a hart: scalar (07 R209 to R211), predicate (05 R178) and vector (07 R212 to R217). -/

namespace Sys2Proof.Machine

/-! ### Scalar forms (07 R209) -/

/-- The access size of MOD[5:4]. -/
def memSize (m : BitVec 6) : Nat :=
  match (m.extractLsb' 4 2).toNat with
  | 0 => 8 | 1 => 4 | 2 => 2 | _ => 1

/-- The scope of MOD[1:0]; decoding refuses 11. -/
def modScope (m : BitVec 6) : Scope :=
  match (m.extractLsb' 0 2).toNat with
  | 0 => .sys | 1 => .dev | _ => .tile

/-- n loaded bytes as 64 bits, zero-extended under .u (07 R210). -/
def extendTo (n : Nat) (u : Bool) (v : Nat) : W64 := if u then BitVec.ofNat 64 v else BitVec.ofInt 64 (intOf (8 * n) false v)

/-- A load of n bytes at p waits for an outstanding entry of the hart (07 R207). -/
def State.loadWaits (s : State) (h : Nat) (p : W64) (n : Nat) : Bool := (s.hart h).entriesOverlap h (byteKey h p) n 0

/-- The pieces of a window-00 access of n bytes: each within one line (05 R178: 16 bytes of a predicate). -/
def linePieces (n : Nat) : List (Nat × Nat) :=
  if n ≤ 16 then [(0, n)] else (List.range (n / 16)).map fun i => (16 * i, 16)

/-- Read pieces of a window-00 access in ascending order. -/
def State.localRead (s : State) (h : Nat) (p : W64) (k : AccKind) : List (Nat × Nat) → Except AErr (List Byte × State)
  | [] => .ok ([], s)
  | (i, n) :: r =>
    match s.localAccess h (p + BitVec.ofNat 64 i) n k with
    | .error e => .error (e.shift i)
    | .ok s1 =>
      match s1.localRead h p k r with
      | .error e => .error e
      | .ok (bs, s2) => .ok (s.peek (storeBase (tileOf h) + offOf p + i) n ++ bs, s2)

/-- Write pieces of a window-00 access in ascending order. -/
def State.localWrite (s : State) (h : Nat) (p : W64) (bs : List Byte) (k : AccKind) : List (Nat × Nat) → Except AErr State
  | [] => .ok s
  | (i, n) :: r =>
    let q := p + BitVec.ofNat 64 i
    match s.ownerWrite (s.asker (tileOf h) h (s.hart h).asid q 5) q ((bs.drop i).take n) (fullMask n) k with
    | .error e => .error (e.shift i)
    | .ok s1 => s1.localWrite h p bs k r

/-- A load of hart `cur` of n bytes at p: it waits, traps, completes in the tile with `fin`, or sends a request. `acq` is an
acquire; `sync` a synchronising read (14 R335, R337). -/
def State.loadFrom (s : State) (c : Ctl) (w : BitVec 13) (ws : List Nat) (p : W64) (n align : Nat) (sync acq : Bool)
    (k : PendKind) (fin : List Byte → Hart → Hart) : State :=
  let h := s.cur
  match s.ptrTrap ws p n align with
  | some t => s.trapHere h t
  | none =>
    if (s.hart h).tileOrder p || s.loadWaits h p n || (sync && !(s.hart h).syncDrained) then s.wait h .running 0
    else if winOf p = 0 then
      match s.localRead h p { kRead with sync := sync } (linePieces n) with
      | .error e => s.trapHere h (e.trap p false)
      | .ok (bs, s1) =>
        ((if acq then s1.lineAcquire h (offOf p) else s1).modHart h (fin bs)).retire h c w
    else s.request h c w p k fun id => .read h id p n (s.hart h).asid sync

/-- LD, LDA and RLD (07 R210). -/
def State.scalarLoad (s : State) (c : Ctl) (hd : Head) (ws : List Nat) (acq : Bool) (d : XReg) (a : MemOp) : State :=
  s.issue c hd fun w =>
    let n := memSize c.mod
    s.loadFrom c w ws ((s.hart s.cur).ea a n) n n acq acq (.load d n c.sat acq) fun bs x =>
      x.wx d (extendTo n c.sat (leNat bs))

def execLd (c : Ctl) (d : XReg) (a : MemOp) (s : State) : Out :=
  .next (s.scalarLoad c { mods := 0x38 } [0, 2] false d a)
def execLda (c : Ctl) (d : XReg) (a : MemOp) (s : State) : Out :=
  .next (s.scalarLoad c { mods := 0x3B, nd := true } [0, 2] true d a)
def execRld (c : Ctl) (d : XReg) (a : MemOp) (s : State) : Out :=
  .next (s.scalarLoad c { mods := 0x38, nd := true } [0, 1, 2, 3] false d a)

/-- PLD, a load of 256 bytes (05 R178). -/
def execPld (c : Ctl) (d : PReg) (a : MemOp) (s : State) : Out :=
  .next (s.issue c { ps := [d] } fun w =>
    s.loadFrom c w [0, 2] ((s.hart s.cur).ea a 16) 256 16 false false (.pld d) fun bs x =>
      x.wp d (BitVec.ofNat 2048 (leNat bs)))

/-! ### Stores (07 R211) -/

/-- What decoding says of a store's stream handle: LAST with slot 0, and slots 5 to 15 in a gate call (03 R97, 04 R140). -/
def streamHead (b : Option Stream) (mods : BitVec 6) : Head :=
  match b with
  | none => { mods := mods }
  | some t => { mods := mods, last0 := decide (t.slot = 0) && t.last, barred := decide (4 < t.slot.toNat) }

def slotNamed (b : Option Stream) : Bool := match b with | some t => decide (t.slot ≠ 0) | none => false
def lastNamed (b : Option Stream) : Bool := match b with | some t => t.last | none => false

/-- A store of hart `cur` of bytes at p: written in the tile, or posted as one entry. A release waits first (07 R211). -/
def State.storeTo (s : State) (c : Ctl) (w : BitVec 13) (ws : List Nat) (p : W64) (align : Nat) (bs : List Byte)
    (b : Option Stream) (rel : Option Scope) : State :=
  let h := s.cur
  let n := bs.length
  match s.ptrTrap ws p n align with
  | some t => s.trapHere h t
  | none =>
    if (match rel with | some k => !(s.hart h).drained h k | none => false) then s.wait h .waiting 0
    else
      let s1 := if rel.isSome then s.hartRelease h else s
      if winOf p = 0 then
        if (s.hart h).tileOrder p || (s.hart h).loadsOverlap h (byteKey h p) n then s.wait h .running 0
        else
          match s1.localWrite h p bs { kWrite with sync := rel.isSome, afterRel := rel.isSome } (linePieces n) with
          | .error e => s.trapHere h (e.trap p true)
          | .ok s2 => s2.retire h c (w ||| wfIf 11 (slotNamed b))
      else
        let m := (s.hart h).memberOf b p
        match s1.post h c 0 m.1 (lastNamed b && decide (m.1 ≠ 0)) rel.isSome [{ addr := p, data := bs, mask := fullMask n }] with
        | none => s.wait h .waiting 0
        | some s2 => s2.retire h c (w ||| wfIf 12 m.2)

def execSt (c : Ctl) (d : MemOp) (a : XI) (b : Option Stream) (s : State) : Out :=
  .next (s.issue c (streamHead b 0x30) fun w =>
    let h := s.hart s.cur
    let n := memSize c.mod
    s.storeTo c w [0, 2] (h.ea d n) n (lowBytes n (h.xi a)) b none)

def execStl (c : Ctl) (d : MemOp) (a : XI) (s : State) : Out :=
  .next (s.issue c { mods := 0x33 } fun w =>
    let h := s.hart s.cur
    let n := memSize c.mod
    s.storeTo c w [0, 2] (h.ea d n) n (lowBytes n (h.xi a)) none (some (modScope c.mod)))

def execRst (c : Ctl) (d : MemOp) (a : XI) (b : Option Stream) (s : State) : Out :=
  .next (s.issue c (streamHead b 0x30) fun w =>
    let h := s.hart s.cur
    let n := memSize c.mod
    s.storeTo c w [0, 1, 2, 3] (h.ea d n) n (lowBytes n (h.xi a)) b none)

/-- PST, a store of 256 bytes (05 R178). -/
def execPst (c : Ctl) (d : MemOp) (a : PReg) (s : State) : Out :=
  .next (s.issue c { ps := [a] } fun w =>
    let h := s.hart s.cur
    s.storeTo c w [0, 2] (h.ea d 16) 16 (toBytes 256 (h.rp a).toNat) none none)

/-! ### Vector loads (07 R213, R214, R216) -/

/-- The leading landed groups (01 R25). -/
def leadOnes (b : BitVec 64) : Nat := ((List.range 64).takeWhile fun g => b.getLsbD g).length

/-- Row v after some of its groups have landed: PI rises over the leading ones, and the last completes the row. -/
def VecReg.after (r : VecReg) (f : Flight) : VecReg :=
  if f.landed = BitVec.allOnes 64 then { r with tag := cleanTag r.tag, pi := 64, lrec := none, flight := none }
  else { r with pi := leadOnes f.landed, flight := some f }

/-- The index row that row v of a load reads. -/
def Hart.indexOf (a : Hart) (d : LoadDesc) (v : Nat) : VData × BitVec 16 :=
  if d.kind = .gather then
    ((a.rv (d.offReg.toNat + (v - d.d.toNat))).data, (a.rv (d.offReg.toNat + (v - d.d.toNat))).tag)
  else (0, 0)

/-- Row v of a load as it issues, under number id. -/
def Hart.flightOf (a : Hart) (d : LoadDesc) (v id : Nat) : Flight :=
  { desc := d, landed := d.landedFrom 0, idxData := (a.indexOf d v).1, idxTag := (a.indexOf d v).2, id := id, again := false
    spoilt := false }

/-! ### Element reads of window 10 (07 R205; 12 R319, R320): one packet for each group and station -/

/-- The elements of group g of row v that memory station n is to translate, with their addresses. -/
def Flight.partAt (f : Flight) (v g n : Nat) : List (Nat × W64) :=
  ((f.desc.elems g).map fun e => (e, f.addr v e)).filter fun x =>
    decide (winOf x.2 = 2) && ptrValid x.2 && decide (x.2.toNat % elemBytes (accWidth f.desc.tag) = 0 ∨ f.desc.kind ≠ .gather)
      && decide (vaOf x.2 / 4096 % 16 = n)

/-- The stations that group g of row v is read from. -/
def Flight.stations (f : Flight) (v g : Nat) : List Nat := (List.range 16).filter fun n => !(f.partAt v g n).isEmpty

/-- Send the element reads of a flight's pending groups. -/
def State.sendReads (s : State) (h v : Nat) (f : Flight) : State :=
  f.pending.foldl (fun s g => (f.stations v g).foldl (fun s n =>
    s.send (tileOf h) (.ep (stEp n)) f.desc.prio (s.hart h).part
      (.elems h f.id v g (f.partAt v g n) (elemBytes (accWidth f.desc.tag)) f.desc.asid)) s) s

/-- The active elements of a load or store, by row and element. -/
def activePairs (rc vl : Nat) (g : PData) : List (Nat × Nat) :=
  (List.range rc).flatMap fun j => (activeElems g vl).map fun e => (j, e)

/-- The trap of the lowest address; the first of those at one address. -/
def lowestTrap : List Trap → Option Trap
  | [] => none
  | t :: r =>
    match lowestTrap r with
    | none => some t
    | some u => if u.addr.toNat < t.addr.toNat then some u else some t

/-- The own faults that a check of a run's vector access finds before it reads or writes anything (07 R204; 18 R389; 16 R362): WIN of its address, or
of an active element that is not in an accepted window or not in that of the first; and, where `aligned`, ALIGN of the address and the
stride. `addr j e` is an element's address. -/
def State.runTrap (s : State) (ws : List Nat) (ea stride : W64) (w : Nat) (aligned : Bool) (act : List (Nat × Nat))
    (addr : Nat → Nat → W64) : Option Trap :=
  let n := elemBytes w
  let first := match act.head? with | some (j, e) => addr j e | none => ea
  let out := fun (p : W64) => !winIn ws p || !s.sameWindow first p || !s.sameWindow first (p + BitVec.ofNat 64 (n - 1))
  lowestTrap ((if winIn ws ea then [] else [trapWin ea])
    ++ ((act.filter fun q => out (addr q.1 q.2)).map fun q => trapWin (addr q.1 q.2))
    ++ (if aligned && (decide (ea.toNat % n ≠ 0) || decide (stride.toNat % n ≠ 0)) then [trapAlign ea n] else []))

/-- A vector load: its checks, its waits, then every row takes its tag and PI 0 and goes into flight (07 R214). `idx` is a
gather's index register. -/
def State.vectorLoad (s : State) (c : Ctl) (hd : Head) (d : VReg) (a : MemOp) (kind : LoadKind) (stride : Hart → W64)
    (idx : Option VReg) (tag : Nat → BitVec 16) (wf : BitVec 13) : State :=
  s.issue c { hd with elem := true } fun w =>
    let h := s.cur
    let x := s.hart h
    let rc := x.rc
    let rows := match idx with | some b => (List.range rc).map (fun j => b.toNat + j) | none => []
    match x.fmtCheck 0 (match idx with | some b => rowChecks b.toNat rc 2 (fun _ t => isInt (tagFmt t)) | none => []) with
    | some t => s.trapHere h t
    | none =>
      let ew := accWidth (tag 0)
      let wd := max ew (widestOf (rows.map fun v => (x.rv v).fmt))
      let vl := x.vlAt wd
      let g := (s.reader 64).guard c
      let dests := (List.range rc).map fun j => d.toNat + j
      let beats := beatsOf rc vl wd
      if dests.any (fun v => s.vBusy h v) then s.wait h .running 0
      else if rows.any (fun v => (x.rv v).waits (groupsFor vl (fmtWidth (x.rv v).fmt))) then s.stall h beats 0 0
      else
        match x.firstTrap (rows.filter fun v =>
            (x.rv v).pi = 64 || decide ((x.rv v).pi < groupsFor vl (fmtWidth (x.rv v).fmt))) with
        | some t => (s.modHart h fun y => (y.chargeOnce beats).clearResume 64).trapHere h t
        | none =>
          let ld : LoadDesc := {
            d := d, kind := kind, base := x.ea a 16, stride := stride x, offReg := idx.getD 0, vl := vl, rc := rc
            tag := tag 0, guard := g, asid := x.asid, pc := x.pc, ws := x.windows, prio := c.prio }
          let fl := fun (v : Nat) => x.flightOf ld v s.nextReq
          let addr := fun (j e : Nat) => (fl (d.toNat + j)).addr (d.toNat + j) e
          let act := activePairs rc vl g
          match (if kind = .gather then none else s.runTrap [0, 2] ld.base ld.stride ew true act addr) with
          | some t => s.trapHere h t
          | none =>
            if act.any (fun (j, e) => x.tileOrder (addr j e) || s.loadWaits h (addr j e) (elemBytes ew)) then s.wait h .running 0
            else
              let y := (List.range rc).foldl (fun y j =>
                let r := y.rv (d.toNat + j)
                y.wv (d.toNat + j) (({ r with tag := tag j, pi := 0, lrec := none, flight := none }).after (fl (d.toNat + j)))) x
              let s1 := { s.setHart h ((y.chargeOnce beats).clearResume 64) with nextReq := s.nextReq + 1 }
              (dests.foldl (fun s v => s.sendReads h v (fl v)) s1).retire h c (w ||| wf ||| wfIf 0 (x.vlClamps wd))

def execVld (c : Ctl) (d : VReg) (a : MemOp) (b : TagOp) (s : State) : Out :=
  .next (s.vectorLoad c { vs := [d], barred := namesScale b } d a .unit (fun _ => 0) none (rowTag b) (mxGrpFlag b))

/-- The tag that MOD[4:0] of VLDS and VGATH names. -/
def modTag (m : BitVec 6) : BitVec 16 := plainTag ((fmtOfCode (m.extractLsb' 0 5)).getD .raw)

def execVlds (c : Ctl) (d : VReg) (a : MemOp) (b : XI) (s : State) : Out :=
  .next (s.vectorLoad c { vs := [d], mods := 0x1F } d a .strided (fun h => h.xi b) none (fun _ => modTag c.mod) 0)

def execVgath (c : Ctl) (d : VReg) (a : MemOp) (b : VReg) (s : State) : Out :=
  .next (s.vectorLoad c { vs := [d, b], bV := true, mods := 0x1F } d a .gather (fun _ => 0) (some b) (fun _ => modTag c.mod) 0)

/-- The record of a row that VRESUME acts on: a fault's, of a load that is not in flight (07 R216). -/
def VecReg.resumable (r : VecReg) : Option LoadRec :=
  match r.lrec with
  | some l => if r.poisoned && decide (r.pi < 64) && r.flight.isNone then some l else none
  | none => none

/-- The load of a record issued again, from group PI of row v and under number id: with the index row that the gather read, whose
elements are unpredictable where the register no longer holds it (07 R216; 00 R6). In window 00 it is checked under the store guards as
they stand at VRESUME, and in VRESUME's class (12 R320) (DESIGN CHOICE, log 38: a record holds none, 01 R30). -/
def Hart.flightAgain (a : Hart) (l : LoadRec) (v id : Nat) (prio : BitVec 2) : Flight :=
  { l.stopped (a.rv v).pi with
    desc := { l.desc with ws := a.windows, prio := prio }, id := id, again := true
    spoilt := l.spoilt || decide (a.indexOf l.desc v ≠ (l.idxData, l.idxTag)) }

/-- Send row v's recorded load again from group PI (07 R216). P and the record stay until it lands. -/
def State.reissue (s : State) (h v : Nat) (prio : BitVec 2) : State :=
  let a := s.hart h
  match (a.rv v).resumable with
  | none => s
  | some l =>
    let f := a.flightAgain l v s.nextReq prio
    { s.setHart h (a.wv v ((a.rv v).after f)) with nextReq := s.nextReq + 1 }.sendReads h v f

/-- VRESUME cannot issue row v's load again yet: elements that it would read overlap an outstanding entry or come after one (07 R207;
14 R330), or the array has still to copy the row (06 R199). -/
def State.resumeWaits (s : State) (h v : Nat) : Bool :=
  let a := s.hart h
  match (a.rv v).resumable with
  | none => false
  | some l =>
    let f := a.flightAgain l v 0 0
    s.vReserved h v || f.pending.any fun g => (l.desc.elems g).any fun e =>
      a.tileOrder (f.addr v e) || s.loadWaits h (f.addr v e) (elemBytes (accWidth l.desc.tag))

def execVresume (c : Ctl) (d : VReg) (s : State) : Out :=
  .next (s.issue c { vs := [d] } fun w =>
    let h := s.cur
    let rows := (List.range (s.hart h).rc).map fun j => d.toNat + j
    if rows.any (fun v => s.resumeWaits h v) then s.wait h .running 0
    else (rows.foldl (fun s v => s.reissue h v c.prio) s).retire h c w)

/-- PIWAIT (07 R217). -/
def execPiwait (c : Ctl) (d : VReg) (s : State) : Out :=
  .next (s.issue c { vs := [d] } fun w =>
    let h := s.cur
    let x := s.hart h
    let rows := (List.range x.rc).map fun j => d.toNat + j
    if rows.any (fun v => (x.rv v).flight.isSome) then s.wait h .waiting 0
    else
      match x.firstTrap rows with
      | some t => s.trapHere h t
      | none => if rows.any (fun v => decide ((x.rv v).pi < 64)) then s.wait h .waiting 0 else s.retire h c w)

/-! ### Vector stores (07 R215) -/

/-- A row's element width as a store reads it: 8 for raw. -/
def Hart.storeWidth (a : Hart) (v : Nat) : Nat := if (a.rv v).fmt = .raw then 8 else fmtWidth (a.rv v).fmt

/-- The bytes and mask of element code v at a memory element of width w: a nibble in its byte, or whole bytes. -/
def elemImage (w : Nat) (high : Bool) (v : Nat) : List Byte × List (BitVec 2) :=
  if w = 4 then ([BitVec.ofNat 8 (if high then v * 16 else v)], [if high then 2 else 1])
  else (toBytes (w / 8) v, fullMask (w / 8))

/-- Write elements to window 00 in order; where one faults, the state with those before it written, the element and its trap. -/
def State.storeElems (s : State) (h w : Nat) (check : W64 → Option Trap) :
    List (Nat × Nat × W64 × Bool × Nat) → State × Option (Nat × Nat × Trap)
  | [] => (s, none)
  | (j, e, p, high, v) :: r =>
    match check p with
    | some t => (s, some (j, e, t))
    | none =>
      let im := elemImage w high v
      match s.ownerWrite (s.asker (tileOf h) h (s.hart h).asid p 5) p im.1 im.2 kWrite with
      | .error x => (s, some (j, e, x.trap p true))
      | .ok s1 => s1.storeElems h w check r

/-- Bytes and masks of a run: elements by memory index from k0 below k1, the inactive ones masked. -/
def runImage (w k0 k1 : Nat) (elem : Nat → Option Nat) : List Byte × List (BitVec 2) :=
  if w = 4 then
    let b0 := k0 / 2
    let nib := fun (k : Nat) => if k0 ≤ k && k < k1 then elem k else none
    let is := (List.range ((k1 + 1) / 2 - b0)).map fun i => b0 + i
    (is.map fun i => BitVec.ofNat 8 ((nib (2 * i)).getD 0 + 16 * (nib (2 * i + 1)).getD 0),
     is.map fun i => (if (nib (2 * i)).isSome then 1 else 0) ||| (if (nib (2 * i + 1)).isSome then 2 else 0))
  else
    let ks := (List.range (k1 - k0)).map fun i => k0 + i
    (ks.flatMap fun k => toBytes (w / 8) ((elem k).getD 0),
     ks.flatMap fun k => if (elem k).isSome then fullMask (w / 8) else List.replicate (w / 8) 0)

/-- Cut a run into pieces that each lie within one 256-byte aligned block (07 R215). -/
def blocksOf : Nat → W64 → List Byte → List (BitVec 2) → List Piece
  | 0, _, _, _ => []
  | f + 1, p, bs, m =>
    if bs.isEmpty then []
    else
      let n := min bs.length (256 - p.toNat % 256)
      { addr := p, data := bs.take n, mask := m.take n } :: blocksOf f (p + BitVec.ofNat 64 n) (bs.drop n) (m.drop n)

/-- Which elements are still to store: those from (j0, e0) and before (j1, e1). -/
def between (j0 e0 j1 e1 j e : Nat) : Bool :=
  (decide (j0 < j) || (decide (j = j0) && decide (e0 ≤ e))) && (decide (j < j1) || (decide (j = j1) && decide (e < e1)))

/-- The elements of a store's rows from row j0 that can be read now, up to the first stop: row, element and why. -/
def storeHalt (srcs : List VSrc) (x : Hart) (vl ew : Nat) : List Nat → Option (Nat × Nat × VHalt)
  | [] => none
  | j :: r =>
    match srcs.foldl (fun m p => earlier m (p.halt x vl j false)) none with
    | some (e, t) => some (j, e * ew / 128 * (128 / ew), t)
    | none => storeHalt srcs x vl ew r

/-- A vector store of rows v(a).. to the addresses `addr` gives, for the elements that `runs` places in memory: in the tile, group by
group as the groups are there, or posted at once (07 R215, R218). A fault that the check of the run finds is the instruction's own unless
an element at a lower address faults as it is written (16 R362). `idx` is a scatter's index register. Record 64 holds where it goes
on (16 R364). -/
def State.vectorStore (s : State) (c : Ctl) (hd : Head) (ws : List Nat) (m : MemOp) (a : VReg) (kind : LoadKind)
    (stride : Hart → W64) (idx : Option VReg) (b : Option Stream) : State :=
  s.issue c { hd with elem := true } fun w =>
    let h := s.cur
    let x := s.reader 64
    let at_ := (s.hart h).resumeAt 64
    let rc := x.rc
    let ew := x.storeWidth a.toNat
    let narrow := fun (t : BitVec 16) => decide (kind ≠ .unit) && decide (accWidth t = 4)
    match x.fmtCheck 0 (rowChecks a.toNat rc 1 (fun _ t => decide (accWidth t = ew) && !narrow t)
        ++ (match idx with | some b => rowChecks b.toNat rc 2 (fun _ t => isInt (tagFmt t)) | none => [])) with
    | some t => s.trapHere h t
    | none =>
      let wd := max ew (match idx with | some b => widestOf (x.rowFmts b.toNat) | none => 0)
      let vl := x.vlAt wd
      let g := x.guard c
      let (j0, e0) := match at_ with | some r => (r.row, r.grp * 128 / ew) | none => (0, 0)
      let srcs : List VSrc := { base := a.toNat, per := 1, w := fun _ => ew } ::
        (match idx with | some b => [{ base := b.toNat, per := 1, w := fun j => fmtWidth (x.rowFmt b.toNat j) }] | none => [])
      let stop := storeHalt srcs x vl ew ((List.range rc).filter fun j => decide (j0 ≤ j))
      let (j1, e1) := match stop with | some (j, e, _) => (j, e) | none => (rc, 0)
      let base := x.ea m 16
      let addr := fun (j e : Nat) =>
        elemAddr kind base (stride x) ew vl j e ((x.rv ((idx.getD 0).toNat + j)).data) ((x.rv ((idx.getD 0).toNat + j)).tag)
      let all := activePairs rc vl g
      let todo := all.filter fun (j, e) => between j0 e0 j1 e1 j e
      let tile := decide (kind ≠ .unit) || decide (winOf (match all.head? with | some (j, e) => addr j e | none => base) = 0)
      let own := if kind = LoadKind.gather then none else s.runTrap ws base (stride x) ew (decide (kind = .unit)) all addr
      let read := x.readNow
      let beats := beatsOf rc vl wd
      let charged := fun (y : Hart) => y.chargeOnce beats
      let wf := w ||| wfIf 0 (x.vlClamps wd)
      let done := fun (s2 : State) (wx : BitVec 13) =>
        match stop with
        | none => (s2.modHart h fun y => (charged y).clearResume 64).retire h c (wf ||| wx)
        | some (j, e, .wait) => (s2.modHart h fun y => (charged y).stopAt 64 true j (e * ew / 128) read).wait h .running 0
        | some (j, e, .trap t) =>
          (s2.modHart h fun y =>
            let y1 := (charged y).stopAt 64 false j (e * ew / 128) read
            if j = 0 ∧ e = 0 then y1 else { y1 with wflag := y1.wflag ||| wf ||| wx }).trapHere h t
      let below := match own with
        | some t => todo.filter fun (j, e) => decide ((addr j e).toNat < t.addr.toNat)
        | none => todo
      match stop, own, tile with
      | some (_, _, .trap t), some _, _ => (s.modHart h charged).trapHere h t
      | some (_, _, .wait), some _, _ => s.stall h beats j0 (e0 * ew / 128)
      | none, some t, false => s.trapHere h t
      | _, _, true =>
          if below.any (fun (j, e) => x.tileOrder (addr j e) || x.loadsOverlap h (byteKey h (addr j e)) (elemBytes ew)) then s.wait h .running 0
          else
            let n := elemBytes ew
            let check := fun (p : W64) => if kind = LoadKind.unit then none else s.ptrTrap [0] p n n
            match s.storeElems h ew check (below.map fun (j, e) =>
                (j, e, addr j e, decide ((j * vl + e) % 2 = 1), x.elem (a.toNat + j) ew e)) with
            | (s2, some (j, e, t)) => (s2.modHart h fun y => (charged y).stopAt 64 false j (e * ew / 128) read).trapHere h t
            | (s2, none) =>
              match own with
              | some t => s.trapHere h t
              | none => done s2 (wfIf 11 (slotNamed b))
      | _, none, false =>
          let mem := x.memberOf b base
          let k0 := j0 * vl + e0
          let k1 := match stop with | some (_, _, .wait) => rc * vl | _ => j1 * vl + e1
          let im := runImage ew k0 k1 fun k =>
            if g.getLsbD (k % vl) then some (x.elem (a.toNat + k / vl) ew (k % vl)) else none
          let ps := blocksOf 40 (base + BitVec.ofNat 64 (k0 * ew / 8)) im.1 im.2
          match s.post h c 0 mem.1 (lastNamed b && decide (mem.1 ≠ 0) && stop.isNone) false ps with
          | none => s.wait h .waiting 0
          | some s2 =>
            match stop with
            | some (_, _, .wait) => s.stall h beats j0 (e0 * ew / 128)
            | _ => done s2 (wfIf 12 mem.2)

def execVst (c : Ctl) (d : MemOp) (a : VReg) (b : Option Stream) (s : State) : Out :=
  .next (s.vectorStore c { streamHead b 0 with vs := [a], aV := true } [0, 2] d a .unit (fun _ => 0) none b)
def execRvst (c : Ctl) (d : MemOp) (a : VReg) (b : Option Stream) (s : State) : Out :=
  .next (s.vectorStore c { streamHead b 0 with vs := [a], aV := true } [0, 1, 2, 3] d a .unit (fun _ => 0) none b)
def execVsts (c : Ctl) (d : MemOp) (a : VReg) (b : XI) (s : State) : Out :=
  .next (s.vectorStore c { vs := [a], aV := true } [0] d a .strided (fun h => h.xi b) none none)
def execVscat (c : Ctl) (d : MemOp) (a b : VReg) (s : State) : Out :=
  .next (s.vectorStore c { vs := [a, b], aV := true, bV := true } [0] d a .gather (fun _ => 0) (some b) none)

end Sys2Proof.Machine
end

