-- ==== Sys2Proof/WellFormed.lean ====
section
/-! DEFINITION. Which instructions are well-formed: operand values that some word can hold and that do not trap ILL at steps
1 to 3 of 03 R95. An event carries no word and is always well-formed. -/

namespace Sys2Proof

def Instr.wf : Instr → Bool
  | .add _ _ _ _ => true
  | .sub _ _ _ _ => true
  | .mul _ _ _ _ => true
  | .mulh _ _ _ _ => true
  | .div _ _ _ _ => true
  | .rem _ _ _ _ => true
  | .and _ _ _ _ => true
  | .or _ _ _ _ => true
  | .xor _ _ _ _ => true
  | .andn _ _ _ _ => true
  | .orn _ _ _ _ => true
  | .shl _ _ _ _ => true
  | .shr _ _ _ _ => true
  | .sha _ _ _ _ => true
  | .rot _ _ _ _ => true
  | .min _ _ _ _ => true
  | .max _ _ _ _ => true
  | .abs _ _ _ => true
  | .neg _ _ _ => true
  | .clz _ _ _ => true
  | .ctz _ _ _ => true
  | .popc _ _ _ => true
  | .brev _ _ _ => true
  | .bswap _ _ _ => true
  | .ext _ _ _ _ => true
  | .ins _ _ _ _ => true
  | .sext _ _ _ _ => true
  | .zext _ _ _ _ => true
  | .setc _ _ _ _ _ => true
  | .sel _ _ _ _ => true
  | .li c _ _ => decide (c.mod = 0)
  | .lih c _ _ => decide (c.mod = 0)
  | .lea _ _ _ _ => true
  | .addpc _ _ _ => true
  | .bCond _ _ _ _ _ => true
  | .bz _ _ _ => true
  | .bnz _ _ _ => true
  | .j _ _ => true
  | .jal _ _ _ => true
  | .jr _ _ _ _ => true
  | .loop _ d _ => decide (d ≠ 0)
  | .setvl _ _ _ b => vlOk b
  | .setvli _ _ _ b => vlOk b
  | .setrc _ _ _ => true
  | .nop _ => true
  | .yield _ => true
  | .pause _ _ => true
  | .trap _ _ => true
  | .tret _ => true
  | .brk _ _ => true
  | .crd _ _ _ => true
  | .cwr _ _ _ => true
  | .cset _ _ _ => true
  | .cclr _ _ _ => true
  | .isync _ => true
  | .gate _ _ => true
  | .gret _ => true
  | .halt _ => true
  | .step _ => true
  | .timewait _ _ _ => true
  | .vadd c _ _ _ => rndOk c.mod
  | .vsub c _ _ _ => rndOk c.mod
  | .vmul c _ _ _ => rndOk c.mod
  | .vmad c _ _ _ => rndOk c.mod
  | .vmsb c _ _ _ => rndOk c.mod
  | .vnmad c _ _ _ => rndOk c.mod
  | .vdiv c _ _ _ => rndOk c.mod
  | .vsqrt c _ _ => rndOk c.mod
  | .vrcp c _ _ => rndOk c.mod
  | .vrsq c _ _ => rndOk c.mod
  | .vexp2 c _ _ => rndOk c.mod
  | .vlog2 c _ _ => rndOk c.mod
  | .vmin _ _ _ _ => true
  | .vmax _ _ _ _ => true
  | .vabs _ _ _ => true
  | .vneg _ _ _ => true
  | .vand _ _ _ _ => true
  | .vor _ _ _ _ => true
  | .vxor _ _ _ _ => true
  | .vnot _ _ _ => true
  | .vshl _ _ _ _ => true
  | .vshr _ _ _ _ => true
  | .vsha _ _ _ _ => true
  | .vcmp _ _ d _ _ => pOk d
  | .vsel _ _ _ _ => true
  | .vclass _ d _ _ => pOk d
  | .vcvt c _ _ b => cvtOk b && rndOk c.mod
  | .vqnt c _ _ b => tagOk blockOk b && rndOk c.mod
  | .vdqnt c _ _ b => fpOk b && rndOk c.mod
  | .vsmax _ _ _ b => tagOk smaxOk b
  | .vtag _ _ _ b => tagOk anyOk b
  | .vsplat c _ _ b => splatOk b && rndOk c.mod
  | .viota _ _ _ b => iotaOk b
  | .vext _ _ _ _ => true
  | .vins _ _ _ _ => true
  | .vred c _ _ _ => rndOk c.mod
  | .vscan c _ _ _ => rndOk c.mod
  | .vdot c _ _ _ => rndOk c.mod
  | .vtopk _ _ _ _ => true
  | .vsort _ _ _ _ => true
  | .pand _ d a b => pOk d && pOk a && pOk b
  | .por _ d a b => pOk d && pOk a && pOk b
  | .pxor _ d a b => pOk d && pOk a && pOk b
  | .pandn _ d a b => pOk d && pOk a && pOk b
  | .pnot _ d a => pOk d && pOk a
  | .pmov _ d a => pOk d && pOk a
  | .pcnt _ _ a => pOk a
  | .pfirst _ _ a => pOk a
  | .plast _ _ a => pOk a
  | .psetn _ d _ => pOk d
  | .pclr _ d => pOk d
  | .pld _ d _ => pOk d
  | .pst _ _ a => pOk a
  | .vslide _ _ _ _ => true
  | .vperm _ _ _ _ => true
  | .vshfl _ _ _ b => shflOk b
  | .vbcast _ _ _ _ => true
  | .vcomp _ _ _ => true
  | .vexpd _ _ _ => true
  | .tshape _ _ _ b => tshapeOk b
  | .macq _ _ => true
  | .mrel _ _ => true
  | .mzero _ _ => true
  | .mma _ _ _ _ => true
  | .mrank _ _ _ _ => true
  | .mwait _ _ => true
  | .mrd _ _ _ _ => true
  | .mwr _ _ _ _ => true
  | .mcvt c _ _ b => mcvtOk b && rndOk c.mod
  | .mstat _ _ _ => true
  | .ld _ _ _ => true
  | .st _ _ _ _ => true
  | .lda c _ _ => scopeOk c.mod
  | .stl c _ _ => scopeOk c.mod
  | .vld _ _ _ b => tagOk anyOk b
  | .vst _ _ _ _ => true
  | .vlds c _ _ _ => ldFmtOk c.mod
  | .vsts _ _ _ _ => true
  | .vgath c _ _ _ => ldFmtOk c.mod
  | .vscat _ _ _ _ => true
  | .vresume _ _ => true
  | .piwait _ _ => true
  | .rld _ _ _ => true
  | .rst _ _ _ _ => true
  | .rvst _ _ _ _ => true
  | .stopen _ d _ _ => decide (d ≠ 0)
  | .stclose _ d => decide (d ≠ 0)
  | .sfence _ d => streamOk d
  | .fenceRel _ _ => true
  | .fenceAcq _ _ => true
  | .fenceAr _ _ => true
  | .jrd _ _ _ b => decide (b ≠ 3)
  | .jrepost _ _ => true
  | .jdrop _ _ => true
  | .amoadd c _ _ _ => scopeOk c.mod
  | .amoand c _ _ _ => scopeOk c.mod
  | .amoor c _ _ _ => scopeOk c.mod
  | .amoxor c _ _ _ => scopeOk c.mod
  | .amomin c _ _ _ => scopeOk c.mod
  | .amomax c _ _ _ => scopeOk c.mod
  | .amoswp c _ _ _ => scopeOk c.mod
  | .cas c _ _ _ => scopeOk c.mod
  | .cas128 c d _ b => (decide (d ≠ 0) && !d.getLsbD 0) && !b.getLsbD 0 && scopeOk c.mod
  | .faddx c _ _ => scopeOk c.mod
  | .fcell c _ _ => scopeOk c.mod
  | .fclr c _ => scopeOk c.mod
  | .send _ _ _ => true
  | .recv _ _ _ b => pOptOk b
  | .vsend _ _ _ => true
  | .vrecv _ _ _ b => pOptOk b
  | .cend _ _ => true
  | .cpgo _ _ _ => true
  | .cpstat _ _ _ => true
  | .wait _ _ => true
  | .binit _ _ _ => true
  | .bara c _ _ => scopeOk c.mod
  | .bwait _ _ _ => true
  | .vmovV _ _ _ => true
  | .vmovGFromV _ _ _ => true
  | .vmovVFromG _ _ _ => true
  | .refuseTrap _ => true
  | .entryRefused _ => true
  | .journalAck _ => true
  | .postedWriteArrival _ => true
  | .streamMemberCommit _ _ _ => true
  | .streamSkip _ => true
  | .remoteReadPerformed _ => true
  | .loadReply _ => true
  | .loadGroupLands _ _ _ => true
  | .atomicPerformed _ => true
  | .atomicReply _ => true
  | .baraPerformed _ => true
  | .faddxPerformed _ => true
  | .tokenArrival _ => true
  | .slotReturn _ => true
  | .growthGrant _ => true
  | .stationPairRequest _ _ => true
  | .copyTransferStart _ => true
  | .copyPiece _ => true
  | .copyTransferComplete _ => true
  | .matrixUnitStart _ => true
  | .matrixOpComplete _ => true
  | .vectorSequencerPick _ => true
  | .sequencerPeriodEnd _ => true
  | .budgetPeriodEnd _ => true
  | .pauseExpiry _ => true
  | .timewaitExpiry _ => true
  | .outputPortGrant _ _ => true
  | .signalBoxSweep _ => true
  | .supervisorReportTrap _ => true
  | .watchdogExpiry _ => true
  | .gangSwitchStop _ => true
  | .switchStopped _ => true
  | .swctlSave _ => true
  | .swctlLoad _ => true
  | .swctlGo _ => true
  | .hartsReleased _ => true
  | .checkpointDue _ => true
  | .checkpointManifest _ => true
  | .ckreqGo _ => true
  | .translationFill _ _ => true
  | .speculativeWalk _ _ _ => true
  | .fatalContextHold _ => true
  | .xlinvWrite _ => true
  | .stationShootdown _ => true
  | .shootdownAck _ => true
  | .specdropRead _ => true
  | .rtbankWrite _ => true
  | .routingEntryWrite _ _ _ _ _ => true
  | .tschedWrite _ _ => true
  | .jarbWrite _ _ => true
  | .jinjWrite _ _ => true
  | .gframeWrite _ _ => true
  | .xlbaseWrite _ => true
  | .govctlWrite _ => true
  | .hdmaWrite _ _ _ => true
  | .bridgeRegisterWrite _ _ => true
  | .hctokWrite _ _ => true
  | .hctokRead _ => true
  | .hcendWrite _ _ => true
  | .hcendRead _ => true
  | .hostBar2Access _ _ _ => true
  | .launch => true
  | .linkFlitSend _ => true
  | .linkFlitReceive _ _ => true
  | .linkNakReceive _ _ => true
  | .linkRetrain _ _ => true
  | .keyAgreementComplete _ _ => true
  | .timestampExchange _ _ _ _ => true
  | .governorTick _ _ => true
  | .thermalShutdown _ => true
  | .softError _ _ => true
  | .moduleReset => true
  | .pldmMonitorRequest _ => true
  | .pldmFirmwareUpdate _ => true
  | .spdmRequest _ => true
  | .illegalWord _ => true
  | .instructionFetchTrap => true
  | .hcstatWrite _ _ => true
  | .powerLoss => true
  | .loadCancel _ => true

end Sys2Proof
end

