-- ==== Sys2Proof/Decode.lean ====
section
/-! DEFINITION. From words to instructions and back (chapter 03, with the encodings of chapters 04 to 07). `decode` follows
steps 1 to 3 of R95 and answers the step and field at which a word traps ILL. -/

namespace Sys2Proof

/-- An instruction word by its fields (03 R81). -/
structure Fields where
  opc : BitVec 8
  sub : BitVec 6
  mod : BitVec 6
  ginv : Bool
  gpred : BitVec 7
  yld : Bool
  la : Bool
  lb : Bool
  prio : BitVec 2
  rsv : BitVec 3
  d : BitVec 20
  a : BitVec 20
  b : BitVec 20
  deriving DecidableEq, Repr

/-- 03 R81. -/
def splitWord (w : IWord) : Fields where
  opc := w.extractLsb' 88 8
  sub := w.extractLsb' 82 6
  mod := w.extractLsb' 76 6
  ginv := w.getLsbD 75
  gpred := w.extractLsb' 68 7
  yld := w.getLsbD 67
  la := w.getLsbD 66
  lb := w.getLsbD 65
  prio := w.extractLsb' 63 2
  rsv := w.extractLsb' 60 3
  d := w.extractLsb' 40 20
  a := w.extractLsb' 20 20
  b := w.extractLsb' 0 20

/-- 03 R81, the other way. -/
def joinWord (f : Fields) : IWord :=
  f.opc ++ f.sub ++ f.mod ++ BitVec.ofBool f.ginv ++ f.gpred ++ BitVec.ofBool f.yld ++ BitVec.ofBool f.la
    ++ BitVec.ofBool f.lb ++ f.prio ++ f.rsv ++ f.d ++ f.a ++ f.b

def Fields.ctl (f : Fields) : Ctl where
  mod := f.mod
  ginv := f.ginv
  gpred := f.gpred
  yld := f.yld
  la := f.la
  lb := f.lb
  prio := f.prio
  rsv := f.rsv

/-- ILL at step 2, in field i (16 R360: 0 D, 1 A, 2 B). -/
def illField {α : Type} (i : BitVec 2) : Except IllAt α := .error { step := 2, field := i }

def fieldIf (i : BitVec 2) (ok : Bool) : Except IllAt Unit := if ok then .ok () else illField i
/-- ILL at step 3 unless MOD is legal (03 R95). -/
def modIf (ok : Bool) : Except IllAt Unit := if ok then .ok () else .error { step := 3, field := 0 }
/-- ILL at step 1 unless SUB = 0 (03 R94). -/
def sub0 (f : Fields) : Except IllAt Unit := if f.sub = 0 then .ok () else .error { step := 1, field := 0 }

/-- The low n bits of a field whose other bits are the given class, kind and zero bits (03 R83). -/
def opBits (n : Nat) {m : Nat} (hi : BitVec m) (i : BitVec 2) (o : BitVec 20) : Except IllAt (BitVec n) :=
  if o.extractLsb' n m = hi then .ok (o.extractLsb' 0 n) else illField i

/-- The operand fields (03 R83): each is its class, kind and must-be-zero bits, then the value. -/
def opNone (i : BitVec 2) (o : BitVec 20) : Except IllAt Unit := fieldIf i (decide (o = 0))
def opX (i : BitVec 2) (o : BitVec 20) : Except IllAt XReg := opBits 5 (0x0000 : BitVec 15) i o
def opV (i : BitVec 2) (o : BitVec 20) : Except IllAt VReg := opBits 6 (0x0800 : BitVec 14) i o
def opP (i : BitVec 2) (o : BitVec 20) : Except IllAt PReg := do
  let p ← opBits 7 (0x0800 : BitVec 13) i o
  fieldIf i (pOk p)
  pure p
def opK (i : BitVec 2) (o : BitVec 20) : Except IllAt KReg := opBits 4 (0x6000 : BitVec 16) i o
def opG (i : BitVec 2) (o : BitVec 20) : Except IllAt GReg := opBits 4 (0x6004 : BitVec 16) i o
def opM (i : BitVec 2) (o : BitVec 20) : Except IllAt MReg := opBits 2 (0x18008 : BitVec 18) i o
def opW (i : BitVec 2) (o : BitVec 20) : Except IllAt WReg := opBits 3 (0xC00C : BitVec 17) i o
def opCR (i : BitVec 2) (o : BitVec 20) : Except IllAt CReg := opBits 12 (0xA0 : BitVec 8) i o
def opMem (i : BitVec 2) (o : BitVec 20) : Except IllAt MemOp :=
  if o.extractLsb' 17 3 = 7 then .ok { base := o.extractLsb' 12 5, off := o.extractLsb' 0 12 } else illField i
/-- An immediate whose value fits in n bits with the bits above them zero. -/
def opU (n : Nat) (i : BitVec 2) (o : BitVec 20) : Except IllAt (BitVec n) :=
  if o.extractLsb' 17 3 = 4 then
    if o.extractLsb' n (17 - n) = 0 then .ok (o.extractLsb' 0 n) else illField i
  else illField i
def opXU (n : Nat) (i : BitVec 2) (o : BitVec 20) : Except IllAt (XU n) :=
  if o.extractLsb' 17 3 = 0 then do pure (.x (← opX i o)) else do pure (.i (← opU n i o))
def opVXI (i : BitVec 2) (o : BitVec 20) : Except IllAt VXI :=
  if o.extractLsb' 17 3 = 1 then do pure (.v (← opV i o))
  else if o.extractLsb' 17 3 = 0 then do pure (.x (← opX i o))
  else do pure (.i (← opU 17 i o))
/-- LOOP's counter is not x0 (04 R124). -/
def opX1 (i : BitVec 2) (o : BitVec 20) : Except IllAt XReg := do
  let x ← opX i o
  fieldIf i (decide (x ≠ 0))
  pure x
/-- CAS128's registers are even (07 R228). -/
def opXe (i : BitVec 2) (o : BitVec 20) : Except IllAt XReg := do
  let x ← opX i o
  fieldIf i (!x.getLsbD 0)
  pure x
def opXe1 (i : BitVec 2) (o : BitVec 20) : Except IllAt XReg := do
  let x ← opX i o
  fieldIf i (decide (x ≠ 0) && !x.getLsbD 0)
  pure x
def opStreamRaw (i : BitVec 2) (o : BitVec 20) : Except IllAt Stream :=
  if o.extractLsb' 5 15 = 0x6000 then .ok { slot := o.extractLsb' 0 4, last := o.getLsbD 4 } else illField i
def opStreamOpt (i : BitVec 2) (o : BitVec 20) : Except IllAt (Option Stream) :=
  if o = 0 then .ok none else do pure (some (← opStreamRaw i o))
def opPOpt (i : BitVec 2) (o : BitVec 20) : Except IllAt (Option PReg) :=
  if o = 0 then .ok none else do pure (some (← opP i o))
/-- SFENCE's handle (07 R223). -/
def opStream (i : BitVec 2) (o : BitVec 20) : Except IllAt Stream := do
  let s ← opStreamRaw i o
  fieldIf i (streamOk s)
  pure s
/-- The handle of STOPEN and STCLOSE: slot 1 to 15, LAST 0 (07 R223). -/
def opSlot (i : BitVec 2) (o : BitVec 20) : Except IllAt (BitVec 4) := do
  let s ← opBits 4 (0xC000 : BitVec 16) i o
  fieldIf i (decide (s ≠ 0))
  pure s
/-- SETRC's operand (04 R125). -/
def opRc (i : BitVec 2) (o : BitVec 20) : Except IllAt (XU 2) :=
  if o.extractLsb' 17 3 = 0 then do pure (.x (← opX i o))
  else if o = 0x80001 then .ok (.i 0)
  else if o = 0x80002 then .ok (.i 1)
  else if o = 0x80004 then .ok (.i 2)
  else if o = 0x80008 then .ok (.i 3)
  else illField i
/-- JRD's word number (07 R222). -/
def opW2 (i : BitVec 2) (o : BitVec 20) : Except IllAt (BitVec 2) := do
  let w ← opU 2 i o
  fieldIf i (decide (w ≠ 3))
  pure w
def opShfl (i : BitVec 2) (o : BitVec 20) : Except IllAt XI := do
  let b ← opXU 17 i o
  fieldIf i (shflOk b)
  pure b
def opCvt (i : BitVec 2) (o : BitVec 20) : Except IllAt XI := do
  let b ← opXU 17 i o
  fieldIf i (mcvtOk b)
  pure b
/-- A format operand (04 R125, 05 R151). -/
def opFmt (ok : Fmt → Bool) (i : BitVec 2) (o : BitVec 20) : Except IllAt Fmt := do
  let c ← opU 5 i o
  match fmtOfCode c with
  | some f => if ok f then .ok f else illField i
  | none => illField i
/-- ILL for a tag that no register may hold (01 R21): at step 8 where the instruction would write it (16 R360), else at step 2. -/
def illTag {α : Type} (wr : Bool) (i : BitVec 2) : Except IllAt α := if wr then .error { step := 8, field := 0 } else illField i

/-- A tag operand (05 R151) of an instruction that writes the tag, or of one that does not. -/
def opTag (wr : Bool) (ok : TagOp → Bool) (i : BitVec 2) (o : BitVec 20) : Except IllAt TagOp :=
  if o.extractLsb' 16 4 = 8 then
    if o.extractLsb' 0 5 = 0 then
      match fmtOfCode (o.extractLsb' 11 5) with
      | some f =>
        if tagOk ok { fmt := f, grp := o.extractLsb' 9 2, scl := o.extractLsb' 5 4 } then
          .ok { fmt := f, grp := o.extractLsb' 9 2, scl := o.extractLsb' 5 4 }
        else illTag (wr && ok { fmt := f, grp := o.extractLsb' 9 2, scl := o.extractLsb' 5 4 }) i
      | none => illTag wr i
    else illField i
  else illField i

/-- MOD, and steps 4 to 7, are judged before a tag that step 8 refuses (03 R95; 16 R362). -/
def tagLate (mod : Bool) (l : LateIll) (x : Except IllAt TagOp) : Except IllAt TagOp :=
  match x with
  | .ok t => .ok t
  | .error e => .error (if e.step = 8 then (if mod then { e with late := some l } else { step := 3, field := 0 }) else e)

/-- A tag operand's format is a block format, whose tag names a scale register. -/
def tagScale (o : BitVec 20) : Bool := (fmtOfCode (o.extractLsb' 11 5)).any isBlock

/-- SUB of SETC and B.cond (04 R116). -/
def opCond (s : BitVec 6) : Except IllAt Cond :=
  match s.toNat with
  | 0 => .ok .eq | 1 => .ok .ne | 2 => .ok .lt | 3 => .ok .ge | 4 => .ok .ltu
  | 5 => .ok .geu | 6 => .ok .gt | 7 => .ok .le | 8 => .ok .gtu | 9 => .ok .leu
  | _ => .error { step := 1, field := 0 }
def encCond : Cond → BitVec 6
  | .eq => 0 | .ne => 1 | .lt => 2 | .ge => 3 | .ltu => 4 | .geu => 5 | .gt => 6 | .le => 7 | .gtu => 8 | .leu => 9
/-- SUB of VCMP (05 R158). -/
def opVCond (s : BitVec 6) : Except IllAt VCond :=
  if s = 10 then .ok .uo else do pure (.base (← opCond s))
def encVCond : VCond → BitVec 6
  | .base c => encCond c
  | .uo => 10
/-- SUB of VRED and VSCAN (05 R172). -/
def opRed (s : BitVec 6) : Except IllAt RedOp :=
  match s.toNat with
  | 0 => .ok .sum | 1 => .ok .min | 2 => .ok .max | 3 => .ok .and | 4 => .ok .or | 5 => .ok .xor
  | _ => .error { step := 1, field := 0 }
def encRed : RedOp → BitVec 6
  | .sum => 0 | .min => 1 | .max => 2 | .and => 3 | .or => 4 | .xor => 5

/-- The kinds of FENCE (07 R227). -/
inductive FKind where
  | rel | acq | ar
  deriving DecidableEq, Repr

/-- SUB of FENCE: 4 × kind + scope (07 R227). -/
def opFence (s : BitVec 6) : Except IllAt (FKind × Scope) :=
  match s.toNat with
  | 0 => .ok (.rel, .sys) | 1 => .ok (.rel, .dev) | 2 => .ok (.rel, .tile)
  | 4 => .ok (.acq, .sys) | 5 => .ok (.acq, .dev) | 6 => .ok (.acq, .tile)
  | 8 => .ok (.ar, .sys) | 9 => .ok (.ar, .dev) | 10 => .ok (.ar, .tile)
  | _ => .error { step := 1, field := 0 }
def encFence (k : FKind) (s : Scope) : BitVec 6 :=
  (match k with | .rel => 0 | .acq => 4 | .ar => 8) + (match s with | .sys => 0 | .dev => 1 | .tile => 2)

/-- VMOV's three forms, by the classes of D and A (05 R167). -/
def decodeVmov (f : Fields) : Except IllAt Instr := do
  sub0 f
  if f.d.extractLsb' 17 3 = 1 then do
    let d ← opV 0 f.d
    if f.a.extractLsb' 17 3 = 1 then do
      let a ← opV 1 f.a
      opNone 2 f.b
      pure (.vmovV f.ctl d a)
    else do
      let a ← opG 1 f.a
      opNone 2 f.b
      pure (.vmovVFromG f.ctl d a)
  else do
    let d ← opG 0 f.d
    let a ← opV 1 f.a
    opNone 2 f.b
    pure (.vmovGFromV f.ctl d a)

/-- OPC 0x01 to 0x2C (03 R96). -/
def decodeScalar (f : Fields) : Except IllAt Instr :=
  match f.opc.toNat with
  | 0x01 => do
      sub0 f; let d ← opX 0 f.d; let a ← opX 1 f.a; let b ← opXU 17 2 f.b
      pure (.add f.ctl d a b)
  | 0x02 => do
      sub0 f; let d ← opX 0 f.d; let a ← opX 1 f.a; let b ← opXU 17 2 f.b
      pure (.sub f.ctl d a b)
  | 0x03 => do
      sub0 f; let d ← opX 0 f.d; let a ← opX 1 f.a; let b ← opXU 17 2 f.b
      pure (.mul f.ctl d a b)
  | 0x04 => do
      sub0 f; let d ← opX 0 f.d; let a ← opX 1 f.a; let b ← opXU 17 2 f.b
      pure (.mulh f.ctl d a b)
  | 0x05 => do
      sub0 f; let d ← opX 0 f.d; let a ← opX 1 f.a; let b ← opXU 17 2 f.b
      pure (.div f.ctl d a b)
  | 0x06 => do
      sub0 f; let d ← opX 0 f.d; let a ← opX 1 f.a; let b ← opXU 17 2 f.b
      pure (.rem f.ctl d a b)
  | 0x07 => (match f.sub.toNat with
    | 0 => do
      let d ← opX 0 f.d; let a ← opX 1 f.a; let b ← opXU 17 2 f.b
      pure (.and f.ctl d a b)
    | 1 => do
      let d ← opX 0 f.d; let a ← opX 1 f.a; let b ← opXU 17 2 f.b
      pure (.or f.ctl d a b)
    | 2 => do
      let d ← opX 0 f.d; let a ← opX 1 f.a; let b ← opXU 17 2 f.b
      pure (.xor f.ctl d a b)
    | 3 => do
      let d ← opX 0 f.d; let a ← opX 1 f.a; let b ← opXU 17 2 f.b
      pure (.andn f.ctl d a b)
    | 4 => do
      let d ← opX 0 f.d; let a ← opX 1 f.a; let b ← opXU 17 2 f.b
      pure (.orn f.ctl d a b)
    | _ => .error { step := 1, field := 0 })
  | 0x08 => (match f.sub.toNat with
    | 0 => do
      let d ← opX 0 f.d; let a ← opX 1 f.a; let b ← opXU 17 2 f.b
      pure (.shl f.ctl d a b)
    | 1 => do
      let d ← opX 0 f.d; let a ← opX 1 f.a; let b ← opXU 17 2 f.b
      pure (.shr f.ctl d a b)
    | 2 => do
      let d ← opX 0 f.d; let a ← opX 1 f.a; let b ← opXU 17 2 f.b
      pure (.sha f.ctl d a b)
    | 3 => do
      let d ← opX 0 f.d; let a ← opX 1 f.a; let b ← opXU 17 2 f.b
      pure (.rot f.ctl d a b)
    | _ => .error { step := 1, field := 0 })
  | 0x09 => (match f.sub.toNat with
    | 0 => do
      let d ← opX 0 f.d; let a ← opX 1 f.a; let b ← opXU 17 2 f.b
      pure (.min f.ctl d a b)
    | 1 => do
      let d ← opX 0 f.d; let a ← opX 1 f.a; let b ← opXU 17 2 f.b
      pure (.max f.ctl d a b)
    | _ => .error { step := 1, field := 0 })
  | 0x0A => (match f.sub.toNat with
    | 0 => do
      let d ← opX 0 f.d; let a ← opX 1 f.a; opNone 2 f.b
      pure (.abs f.ctl d a)
    | 1 => do
      let d ← opX 0 f.d; let a ← opX 1 f.a; opNone 2 f.b
      pure (.neg f.ctl d a)
    | 2 => do
      let d ← opX 0 f.d; let a ← opX 1 f.a; opNone 2 f.b
      pure (.clz f.ctl d a)
    | 3 => do
      let d ← opX 0 f.d; let a ← opX 1 f.a; opNone 2 f.b
      pure (.ctz f.ctl d a)
    | 4 => do
      let d ← opX 0 f.d; let a ← opX 1 f.a; opNone 2 f.b
      pure (.popc f.ctl d a)
    | 5 => do
      let d ← opX 0 f.d; let a ← opX 1 f.a; opNone 2 f.b
      pure (.brev f.ctl d a)
    | 6 => do
      let d ← opX 0 f.d; let a ← opX 1 f.a; opNone 2 f.b
      pure (.bswap f.ctl d a)
    | _ => .error { step := 1, field := 0 })
  | 0x0B => (match f.sub.toNat with
    | 0 => do
      let d ← opX 0 f.d; let a ← opX 1 f.a; let b ← opXU 12 2 f.b
      pure (.ext f.ctl d a b)
    | 1 => do
      let d ← opX 0 f.d; let a ← opX 1 f.a; let b ← opXU 12 2 f.b
      pure (.ins f.ctl d a b)
    | 2 => do
      let d ← opX 0 f.d; let a ← opX 1 f.a; let b ← opXU 6 2 f.b
      pure (.sext f.ctl d a b)
    | 3 => do
      let d ← opX 0 f.d; let a ← opX 1 f.a; let b ← opXU 6 2 f.b
      pure (.zext f.ctl d a b)
    | _ => .error { step := 1, field := 0 })
  | 0x0C => do
      let k ← opCond f.sub; let d ← opX 0 f.d; let a ← opX 1 f.a; let b ← opXU 17 2 f.b
      pure (.setc f.ctl k d a b)
  | 0x0D => do
      sub0 f; let d ← opX 0 f.d; let a ← opX 1 f.a; let b ← opXU 17 2 f.b
      pure (.sel f.ctl d a b)
  | 0x0E => do
      sub0 f; let d ← opX 0 f.d; modIf (decide (f.mod = 0)); pure (.li f.ctl d (f.a ++ f.b))
  | 0x0F => do
      sub0 f; let d ← opX 0 f.d; fieldIf 1 (decide (f.a.extractLsb' 4 16 = 0)); modIf (decide (f.mod = 0))
      pure (.lih f.ctl d (f.a.extractLsb' 0 4 ++ f.b))
  | 0x10 => do
      sub0 f; let d ← opX 0 f.d; let a ← opMem 1 f.a; let b ← opX 2 f.b
      pure (.lea f.ctl d a b)
  | 0x11 => do
      sub0 f; let d ← opX 0 f.d; let a ← opU 17 1 f.a; opNone 2 f.b
      pure (.addpc f.ctl d a)
  | 0x12 => do
      let k ← opCond f.sub; let d ← opX 0 f.d; let a ← opXU 17 1 f.a; let b ← opU 17 2 f.b
      pure (.bCond f.ctl k d a b)
  | 0x13 => do
      sub0 f; let d ← opX 0 f.d; let a ← opU 17 1 f.a; opNone 2 f.b
      pure (.bz f.ctl d a)
  | 0x14 => do
      sub0 f; let d ← opX 0 f.d; let a ← opU 17 1 f.a; opNone 2 f.b
      pure (.bnz f.ctl d a)
  | 0x15 => do
      sub0 f; let d ← opU 17 0 f.d; opNone 1 f.a; opNone 2 f.b
      pure (.j f.ctl d)
  | 0x16 => do
      sub0 f; let d ← opX 0 f.d; let a ← opU 17 1 f.a; opNone 2 f.b
      pure (.jal f.ctl d a)
  | 0x17 => do
      sub0 f; let d ← opX 0 f.d; let a ← opX 1 f.a; let b ← opXU 17 2 f.b
      pure (.jr f.ctl d a b)
  | 0x18 => do
      sub0 f; let d ← opX1 0 f.d; let a ← opU 17 1 f.a; opNone 2 f.b
      pure (.loop f.ctl d a)
  | 0x19 => do
      sub0 f; let d ← opX 0 f.d; let a ← opX 1 f.a; let b ← opFmt vlOk 2 f.b
      pure (.setvl f.ctl d a b)
  | 0x1A => do
      sub0 f; let d ← opX 0 f.d; let a ← opU 16 1 f.a; let b ← opFmt vlOk 2 f.b
      pure (.setvli f.ctl d a b)
  | 0x1B => do
      sub0 f; let d ← opX 0 f.d; let a ← opRc 1 f.a; opNone 2 f.b
      pure (.setrc f.ctl d a)
  | 0x1C => do
      sub0 f; opNone 0 f.d; opNone 1 f.a; opNone 2 f.b
      pure (.nop f.ctl)
  | 0x1D => do
      sub0 f; opNone 0 f.d; opNone 1 f.a; opNone 2 f.b
      pure (.yield f.ctl)
  | 0x1E => do
      sub0 f; let d ← opU 16 0 f.d; opNone 1 f.a; opNone 2 f.b
      pure (.pause f.ctl d)
  | 0x20 => do
      sub0 f; let d ← opU 17 0 f.d; opNone 1 f.a; opNone 2 f.b
      pure (.trap f.ctl d)
  | 0x21 => do
      sub0 f; opNone 0 f.d; opNone 1 f.a; opNone 2 f.b
      pure (.tret f.ctl)
  | 0x22 => do
      sub0 f; let d ← opU 17 0 f.d; opNone 1 f.a; opNone 2 f.b
      pure (.brk f.ctl d)
  | 0x23 => do
      sub0 f; let d ← opX 0 f.d; let a ← opCR 1 f.a; opNone 2 f.b
      pure (.crd f.ctl d a)
  | 0x24 => do
      sub0 f; let d ← opCR 0 f.d; let a ← opXU 17 1 f.a; opNone 2 f.b
      pure (.cwr f.ctl d a)
  | 0x25 => do
      sub0 f; let d ← opCR 0 f.d; let a ← opXU 17 1 f.a; opNone 2 f.b
      pure (.cset f.ctl d a)
  | 0x26 => do
      sub0 f; let d ← opCR 0 f.d; let a ← opXU 17 1 f.a; opNone 2 f.b
      pure (.cclr f.ctl d a)
  | 0x27 => do
      sub0 f; opNone 0 f.d; opNone 1 f.a; opNone 2 f.b
      pure (.isync f.ctl)
  | 0x28 => do
      sub0 f; let d ← opU 8 0 f.d; opNone 1 f.a; opNone 2 f.b
      pure (.gate f.ctl d)
  | 0x29 => do
      sub0 f; opNone 0 f.d; opNone 1 f.a; opNone 2 f.b
      pure (.gret f.ctl)
  | 0x2A => do
      sub0 f; opNone 0 f.d; opNone 1 f.a; opNone 2 f.b
      pure (.halt f.ctl)
  | 0x2B => do
      sub0 f; opNone 0 f.d; opNone 1 f.a; opNone 2 f.b
      pure (.step f.ctl)
  | 0x2C => do
      sub0 f; let d ← opX 0 f.d; let a ← opXU 17 1 f.a; opNone 2 f.b
      pure (.timewait f.ctl d a)
  | _ => .error { step := 1, field := 0 }

/-- OPC 0x30 to 0x58 (03 R96). -/
def decodeVector (f : Fields) : Except IllAt Instr :=
  match f.opc.toNat with
  | 0x30 => do
      sub0 f; let d ← opV 0 f.d; let a ← opV 1 f.a; let b ← opVXI 2 f.b; modIf (rndOk f.mod)
      pure (.vadd f.ctl d a b)
  | 0x31 => do
      sub0 f; let d ← opV 0 f.d; let a ← opV 1 f.a; let b ← opVXI 2 f.b; modIf (rndOk f.mod)
      pure (.vsub f.ctl d a b)
  | 0x32 => do
      sub0 f; let d ← opV 0 f.d; let a ← opV 1 f.a; let b ← opVXI 2 f.b; modIf (rndOk f.mod)
      pure (.vmul f.ctl d a b)
  | 0x33 => do
      sub0 f; let d ← opV 0 f.d; let a ← opV 1 f.a; let b ← opVXI 2 f.b; modIf (rndOk f.mod)
      pure (.vmad f.ctl d a b)
  | 0x34 => do
      sub0 f; let d ← opV 0 f.d; let a ← opV 1 f.a; let b ← opVXI 2 f.b; modIf (rndOk f.mod)
      pure (.vmsb f.ctl d a b)
  | 0x35 => do
      sub0 f; let d ← opV 0 f.d; let a ← opV 1 f.a; let b ← opVXI 2 f.b; modIf (rndOk f.mod)
      pure (.vnmad f.ctl d a b)
  | 0x36 => do
      sub0 f; let d ← opV 0 f.d; let a ← opV 1 f.a; let b ← opVXI 2 f.b; modIf (rndOk f.mod)
      pure (.vdiv f.ctl d a b)
  | 0x37 => do
      sub0 f; let d ← opV 0 f.d; let a ← opV 1 f.a; opNone 2 f.b; modIf (rndOk f.mod)
      pure (.vsqrt f.ctl d a)
  | 0x38 => do
      sub0 f; let d ← opV 0 f.d; let a ← opV 1 f.a; opNone 2 f.b; modIf (rndOk f.mod)
      pure (.vrcp f.ctl d a)
  | 0x39 => do
      sub0 f; let d ← opV 0 f.d; let a ← opV 1 f.a; opNone 2 f.b; modIf (rndOk f.mod)
      pure (.vrsq f.ctl d a)
  | 0x3A => do
      sub0 f; let d ← opV 0 f.d; let a ← opV 1 f.a; opNone 2 f.b; modIf (rndOk f.mod)
      pure (.vexp2 f.ctl d a)
  | 0x3B => do
      sub0 f; let d ← opV 0 f.d; let a ← opV 1 f.a; opNone 2 f.b; modIf (rndOk f.mod)
      pure (.vlog2 f.ctl d a)
  | 0x3C => do
      sub0 f; let d ← opV 0 f.d; let a ← opV 1 f.a; let b ← opVXI 2 f.b
      pure (.vmin f.ctl d a b)
  | 0x3D => do
      sub0 f; let d ← opV 0 f.d; let a ← opV 1 f.a; let b ← opVXI 2 f.b
      pure (.vmax f.ctl d a b)
  | 0x3E => do
      sub0 f; let d ← opV 0 f.d; let a ← opV 1 f.a; opNone 2 f.b
      pure (.vabs f.ctl d a)
  | 0x3F => do
      sub0 f; let d ← opV 0 f.d; let a ← opV 1 f.a; opNone 2 f.b
      pure (.vneg f.ctl d a)
  | 0x40 => do
      sub0 f; let d ← opV 0 f.d; let a ← opV 1 f.a; let b ← opVXI 2 f.b
      pure (.vand f.ctl d a b)
  | 0x41 => do
      sub0 f; let d ← opV 0 f.d; let a ← opV 1 f.a; let b ← opVXI 2 f.b
      pure (.vor f.ctl d a b)
  | 0x42 => do
      sub0 f; let d ← opV 0 f.d; let a ← opV 1 f.a; let b ← opVXI 2 f.b
      pure (.vxor f.ctl d a b)
  | 0x43 => do
      sub0 f; let d ← opV 0 f.d; let a ← opV 1 f.a; opNone 2 f.b
      pure (.vnot f.ctl d a)
  | 0x44 => do
      sub0 f; let d ← opV 0 f.d; let a ← opV 1 f.a; let b ← opVXI 2 f.b
      pure (.vshl f.ctl d a b)
  | 0x45 => do
      sub0 f; let d ← opV 0 f.d; let a ← opV 1 f.a; let b ← opVXI 2 f.b
      pure (.vshr f.ctl d a b)
  | 0x46 => do
      sub0 f; let d ← opV 0 f.d; let a ← opV 1 f.a; let b ← opVXI 2 f.b
      pure (.vsha f.ctl d a b)
  | 0x47 => do
      let k ← opVCond f.sub; let d ← opP 0 f.d; let a ← opV 1 f.a; let b ← opVXI 2 f.b
      pure (.vcmp f.ctl k d a b)
  | 0x48 => do
      sub0 f; let d ← opV 0 f.d; let a ← opV 1 f.a; let b ← opVXI 2 f.b
      pure (.vsel f.ctl d a b)
  | 0x49 => do
      sub0 f; let d ← opP 0 f.d; let a ← opV 1 f.a; let b ← opU 10 2 f.b
      pure (.vclass f.ctl d a b)
  | 0x4A => do
      sub0 f; let d ← opV 0 f.d; let a ← opV 1 f.a; let b ← opFmt cvtOk 2 f.b; modIf (rndOk f.mod)
      pure (.vcvt f.ctl d a b)
  | 0x4B => do
      sub0 f; let d ← opV 0 f.d; let a ← opV 1 f.a; 
      let b ← tagLate (rndOk f.mod) { ctl := f.ctl, vs := [d, a], scale := tagScale f.b, mods := 0x07, aV := true } (opTag true blockOk 2 f.b)
      modIf (rndOk f.mod)
      pure (.vqnt f.ctl d a b)
  | 0x4C => do
      sub0 f; let d ← opV 0 f.d; let a ← opV 1 f.a; let b ← opFmt fpOk 2 f.b; modIf (rndOk f.mod)
      pure (.vdqnt f.ctl d a b)
  | 0x4D => do
      sub0 f; let d ← opG 0 f.d; let a ← opV 1 f.a; let b ← opTag false smaxOk 2 f.b
      pure (.vsmax f.ctl d a b)
  | 0x4E => do
      sub0 f; let d ← opV 0 f.d; let a ← opV 1 f.a
      let b ← tagLate true { ctl := f.ctl, vs := [d, a], scale := tagScale f.b, mods := 0, aV := true } (opTag true anyOk 2 f.b)
      pure (.vtag f.ctl d a b)
  | 0x4F => do
      sub0 f; let d ← opV 0 f.d; let a ← opXU 17 1 f.a; let b ← opFmt splatOk 2 f.b; modIf (rndOk f.mod)
      pure (.vsplat f.ctl d a b)
  | 0x50 => decodeVmov f
  | 0x51 => do
      sub0 f; let d ← opV 0 f.d; let a ← opXU 17 1 f.a; let b ← opFmt iotaOk 2 f.b
      pure (.viota f.ctl d a b)
  | 0x52 => do
      sub0 f; let d ← opX 0 f.d; let a ← opV 1 f.a; let b ← opXU 17 2 f.b
      pure (.vext f.ctl d a b)
  | 0x53 => do
      sub0 f; let d ← opV 0 f.d; let a ← opX 1 f.a; let b ← opXU 17 2 f.b
      pure (.vins f.ctl d a b)
  | 0x54 => do
      let k ← opRed f.sub; let d ← opV 0 f.d; let a ← opV 1 f.a; opNone 2 f.b; modIf (rndOk f.mod)
      pure (.vred f.ctl k d a)
  | 0x55 => do
      let k ← opRed f.sub; let d ← opV 0 f.d; let a ← opV 1 f.a; opNone 2 f.b; modIf (rndOk f.mod)
      pure (.vscan f.ctl k d a)
  | 0x56 => do
      sub0 f; let d ← opV 0 f.d; let a ← opV 1 f.a; let b ← opV 2 f.b; modIf (rndOk f.mod)
      pure (.vdot f.ctl d a b)
  | 0x57 => do
      sub0 f; let d ← opV 0 f.d; let a ← opV 1 f.a; let b ← opXU 12 2 f.b
      pure (.vtopk f.ctl d a b)
  | 0x58 => do
      sub0 f; let d ← opV 0 f.d; let a ← opV 1 f.a; let b ← opX 2 f.b
      pure (.vsort f.ctl d a b)
  | _ => .error { step := 1, field := 0 }

/-- OPC 0x60 to 0x6D (03 R96). -/
def decodePred (f : Fields) : Except IllAt Instr :=
  match f.opc.toNat with
  | 0x60 => (match f.sub.toNat with
    | 0 => do
      let d ← opP 0 f.d; let a ← opP 1 f.a; let b ← opP 2 f.b
      pure (.pand f.ctl d a b)
    | 1 => do
      let d ← opP 0 f.d; let a ← opP 1 f.a; let b ← opP 2 f.b
      pure (.por f.ctl d a b)
    | 2 => do
      let d ← opP 0 f.d; let a ← opP 1 f.a; let b ← opP 2 f.b
      pure (.pxor f.ctl d a b)
    | 3 => do
      let d ← opP 0 f.d; let a ← opP 1 f.a; let b ← opP 2 f.b
      pure (.pandn f.ctl d a b)
    | 4 => do
      let d ← opP 0 f.d; let a ← opP 1 f.a; opNone 2 f.b
      pure (.pnot f.ctl d a)
    | 5 => do
      let d ← opP 0 f.d; let a ← opP 1 f.a; opNone 2 f.b
      pure (.pmov f.ctl d a)
    | _ => .error { step := 1, field := 0 })
  | 0x61 => do
      sub0 f; let d ← opX 0 f.d; let a ← opP 1 f.a; opNone 2 f.b
      pure (.pcnt f.ctl d a)
  | 0x62 => do
      sub0 f; let d ← opX 0 f.d; let a ← opP 1 f.a; opNone 2 f.b
      pure (.pfirst f.ctl d a)
  | 0x63 => do
      sub0 f; let d ← opX 0 f.d; let a ← opP 1 f.a; opNone 2 f.b
      pure (.plast f.ctl d a)
  | 0x64 => do
      sub0 f; let d ← opP 0 f.d; let a ← opXU 17 1 f.a; opNone 2 f.b
      pure (.psetn f.ctl d a)
  | 0x65 => do
      sub0 f; let d ← opP 0 f.d; opNone 1 f.a; opNone 2 f.b
      pure (.pclr f.ctl d)
  | 0x66 => do
      sub0 f; let d ← opP 0 f.d; let a ← opMem 1 f.a; opNone 2 f.b
      pure (.pld f.ctl d a)
  | 0x67 => do
      sub0 f; let d ← opMem 0 f.d; let a ← opP 1 f.a; opNone 2 f.b
      pure (.pst f.ctl d a)
  | 0x68 => do
      sub0 f; let d ← opV 0 f.d; let a ← opV 1 f.a; let b ← opXU 17 2 f.b
      pure (.vslide f.ctl d a b)
  | 0x69 => do
      sub0 f; let d ← opV 0 f.d; let a ← opV 1 f.a; let b ← opV 2 f.b
      pure (.vperm f.ctl d a b)
  | 0x6A => do
      sub0 f; let d ← opV 0 f.d; let a ← opV 1 f.a; let b ← opShfl 2 f.b
      pure (.vshfl f.ctl d a b)
  | 0x6B => do
      sub0 f; let d ← opV 0 f.d; let a ← opV 1 f.a; let b ← opXU 17 2 f.b
      pure (.vbcast f.ctl d a b)
  | 0x6C => do
      sub0 f; let d ← opV 0 f.d; let a ← opV 1 f.a; opNone 2 f.b
      pure (.vcomp f.ctl d a)
  | 0x6D => do
      sub0 f; let d ← opV 0 f.d; let a ← opV 1 f.a; opNone 2 f.b
      pure (.vexpd f.ctl d a)
  | _ => .error { step := 1, field := 0 }

/-- OPC 0x70 to 0x7A (03 R96). -/
def decodeMatrix (f : Fields) : Except IllAt Instr :=
  match f.opc.toNat with
  | 0x70 => do
      sub0 f; let d ← opX 0 f.d; let a ← opX 1 f.a; let b ← opFmt tshapeOk 2 f.b
      pure (.tshape f.ctl d a b)
  | 0x71 => do
      sub0 f; let d ← opM 0 f.d; opNone 1 f.a; opNone 2 f.b
      pure (.macq f.ctl d)
  | 0x72 => do
      sub0 f; let d ← opM 0 f.d; opNone 1 f.a; opNone 2 f.b
      pure (.mrel f.ctl d)
  | 0x73 => do
      sub0 f; let d ← opM 0 f.d; opNone 1 f.a; opNone 2 f.b
      pure (.mzero f.ctl d)
  | 0x74 => do
      sub0 f; let d ← opM 0 f.d; let a ← opV 1 f.a; let b ← opV 2 f.b
      pure (.mma f.ctl d a b)
  | 0x75 => do
      sub0 f; let d ← opM 0 f.d; let a ← opV 1 f.a; let b ← opV 2 f.b
      pure (.mrank f.ctl d a b)
  | 0x76 => do
      sub0 f; let d ← opM 0 f.d; opNone 1 f.a; opNone 2 f.b
      pure (.mwait f.ctl d)
  | 0x77 => do
      sub0 f; let d ← opV 0 f.d; let a ← opM 1 f.a; let b ← opXU 4 2 f.b
      pure (.mrd f.ctl d a b)
  | 0x78 => do
      sub0 f; let d ← opM 0 f.d; let a ← opV 1 f.a; let b ← opXU 4 2 f.b
      pure (.mwr f.ctl d a b)
  | 0x79 => do
      sub0 f; let d ← opV 0 f.d; let a ← opM 1 f.a; let b ← opCvt 2 f.b; modIf (rndOk f.mod)
      pure (.mcvt f.ctl d a b)
  | 0x7A => do
      sub0 f; let d ← opX 0 f.d; let a ← opM 1 f.a; opNone 2 f.b
      pure (.mstat f.ctl d a)
  | _ => .error { step := 1, field := 0 }

/-- OPC 0x80 to 0xBB (03 R96). -/
def decodeMemory (f : Fields) : Except IllAt Instr :=
  match f.opc.toNat with
  | 0x80 => do
      sub0 f; let d ← opX 0 f.d; let a ← opMem 1 f.a; opNone 2 f.b
      pure (.ld f.ctl d a)
  | 0x81 => do
      sub0 f; let d ← opMem 0 f.d; let a ← opXU 17 1 f.a; let b ← opStreamOpt 2 f.b
      pure (.st f.ctl d a b)
  | 0x82 => do
      sub0 f; let d ← opX 0 f.d; let a ← opMem 1 f.a; opNone 2 f.b; modIf (scopeOk f.mod)
      pure (.lda f.ctl d a)
  | 0x83 => do
      sub0 f; let d ← opMem 0 f.d; let a ← opXU 17 1 f.a; opNone 2 f.b; modIf (scopeOk f.mod)
      pure (.stl f.ctl d a)
  | 0x84 => do
      sub0 f; let d ← opV 0 f.d; let a ← opMem 1 f.a
      let b ← tagLate true { ctl := f.ctl, vs := [d], scale := tagScale f.b, mods := 0, aV := false } (opTag true anyOk 2 f.b)
      pure (.vld f.ctl d a b)
  | 0x85 => do
      sub0 f; let d ← opMem 0 f.d; let a ← opV 1 f.a; let b ← opStreamOpt 2 f.b
      pure (.vst f.ctl d a b)
  | 0x86 => do
      sub0 f; let d ← opV 0 f.d; let a ← opMem 1 f.a; let b ← opXU 17 2 f.b; modIf (ldFmtOk f.mod)
      pure (.vlds f.ctl d a b)
  | 0x87 => do
      sub0 f; let d ← opMem 0 f.d; let a ← opV 1 f.a; let b ← opXU 17 2 f.b
      pure (.vsts f.ctl d a b)
  | 0x88 => do
      sub0 f; let d ← opV 0 f.d; let a ← opMem 1 f.a; let b ← opV 2 f.b; modIf (ldFmtOk f.mod)
      pure (.vgath f.ctl d a b)
  | 0x89 => do
      sub0 f; let d ← opMem 0 f.d; let a ← opV 1 f.a; let b ← opV 2 f.b
      pure (.vscat f.ctl d a b)
  | 0x8A => do
      sub0 f; let d ← opV 0 f.d; opNone 1 f.a; opNone 2 f.b
      pure (.vresume f.ctl d)
  | 0x8B => do
      sub0 f; let d ← opV 0 f.d; opNone 1 f.a; opNone 2 f.b
      pure (.piwait f.ctl d)
  | 0xA0 => do
      sub0 f; let d ← opX 0 f.d; let a ← opMem 1 f.a; opNone 2 f.b
      pure (.rld f.ctl d a)
  | 0xA1 => do
      sub0 f; let d ← opMem 0 f.d; let a ← opXU 17 1 f.a; let b ← opStreamOpt 2 f.b
      pure (.rst f.ctl d a b)
  | 0xA2 => do
      sub0 f; let d ← opMem 0 f.d; let a ← opV 1 f.a; let b ← opStreamOpt 2 f.b
      pure (.rvst f.ctl d a b)
  | 0xA3 => do
      sub0 f; let d ← opSlot 0 f.d; let a ← opX 1 f.a; let b ← opXU 8 2 f.b
      pure (.stopen f.ctl d a b)
  | 0xA4 => do
      sub0 f; let d ← opSlot 0 f.d; opNone 1 f.a; opNone 2 f.b
      pure (.stclose f.ctl d)
  | 0xA5 => do
      sub0 f; let d ← opStream 0 f.d; opNone 1 f.a; opNone 2 f.b
      pure (.sfence f.ctl d)
  | 0xA6 => do
      let kk ← opFence f.sub; opNone 0 f.d; opNone 1 f.a; opNone 2 f.b
      pure (match kk.1 with | .rel => .fenceRel f.ctl kk.2 | .acq => .fenceAcq f.ctl kk.2 | .ar => .fenceAr f.ctl kk.2)
  | 0xA7 => do
      sub0 f; let d ← opX 0 f.d; let a ← opXU 7 1 f.a; let b ← opW2 2 f.b
      pure (.jrd f.ctl d a b)
  | 0xA8 => do
      sub0 f; let d ← opXU 7 0 f.d; opNone 1 f.a; opNone 2 f.b
      pure (.jrepost f.ctl d)
  | 0xA9 => do
      sub0 f; let d ← opXU 7 0 f.d; opNone 1 f.a; opNone 2 f.b
      pure (.jdrop f.ctl d)
  | 0xB0 => do
      sub0 f; let d ← opX 0 f.d; let a ← opMem 1 f.a; let b ← opXU 17 2 f.b; modIf (scopeOk f.mod)
      pure (.amoadd f.ctl d a b)
  | 0xB1 => do
      sub0 f; let d ← opX 0 f.d; let a ← opMem 1 f.a; let b ← opXU 17 2 f.b; modIf (scopeOk f.mod)
      pure (.amoand f.ctl d a b)
  | 0xB2 => do
      sub0 f; let d ← opX 0 f.d; let a ← opMem 1 f.a; let b ← opXU 17 2 f.b; modIf (scopeOk f.mod)
      pure (.amoor f.ctl d a b)
  | 0xB3 => do
      sub0 f; let d ← opX 0 f.d; let a ← opMem 1 f.a; let b ← opXU 17 2 f.b; modIf (scopeOk f.mod)
      pure (.amoxor f.ctl d a b)
  | 0xB4 => do
      sub0 f; let d ← opX 0 f.d; let a ← opMem 1 f.a; let b ← opXU 17 2 f.b; modIf (scopeOk f.mod)
      pure (.amomin f.ctl d a b)
  | 0xB5 => do
      sub0 f; let d ← opX 0 f.d; let a ← opMem 1 f.a; let b ← opXU 17 2 f.b; modIf (scopeOk f.mod)
      pure (.amomax f.ctl d a b)
  | 0xB6 => do
      sub0 f; let d ← opX 0 f.d; let a ← opMem 1 f.a; let b ← opXU 17 2 f.b; modIf (scopeOk f.mod)
      pure (.amoswp f.ctl d a b)
  | 0xB7 => do
      sub0 f; let d ← opX 0 f.d; let a ← opMem 1 f.a; let b ← opXU 17 2 f.b; modIf (scopeOk f.mod)
      pure (.cas f.ctl d a b)
  | 0xB8 => do
      sub0 f; let d ← opXe1 0 f.d; let a ← opMem 1 f.a; let b ← opXe 2 f.b; modIf (scopeOk f.mod)
      pure (.cas128 f.ctl d a b)
  | 0xB9 => do
      sub0 f; let d ← opMem 0 f.d; let a ← opX 1 f.a; opNone 2 f.b; modIf (scopeOk f.mod)
      pure (.faddx f.ctl d a)
  | 0xBA => do
      sub0 f; let d ← opX 0 f.d; let a ← opMem 1 f.a; opNone 2 f.b; modIf (scopeOk f.mod)
      pure (.fcell f.ctl d a)
  | 0xBB => do
      sub0 f; let d ← opMem 0 f.d; opNone 1 f.a; opNone 2 f.b; modIf (scopeOk f.mod)
      pure (.fclr f.ctl d)
  | _ => .error { step := 1, field := 0 }

/-- OPC 0xC0 to 0xCA (03 R96). -/
def decodeChannel (f : Fields) : Except IllAt Instr :=
  match f.opc.toNat with
  | 0xC0 => do
      sub0 f; let d ← opK 0 f.d; let a ← opXU 17 1 f.a; opNone 2 f.b
      pure (.send f.ctl d a)
  | 0xC1 => do
      sub0 f; let d ← opX 0 f.d; let a ← opK 1 f.a; let b ← opPOpt 2 f.b
      pure (.recv f.ctl d a b)
  | 0xC2 => do
      sub0 f; let d ← opK 0 f.d; let a ← opV 1 f.a; opNone 2 f.b
      pure (.vsend f.ctl d a)
  | 0xC3 => do
      sub0 f; let d ← opV 0 f.d; let a ← opK 1 f.a; let b ← opPOpt 2 f.b
      pure (.vrecv f.ctl d a b)
  | 0xC4 => do
      sub0 f; let d ← opK 0 f.d; opNone 1 f.a; opNone 2 f.b
      pure (.cend f.ctl d)
  | 0xC5 => do
      sub0 f; let d ← opX 0 f.d; let a ← opW 1 f.a; opNone 2 f.b
      pure (.cpgo f.ctl d a)
  | 0xC6 => do
      sub0 f; let d ← opX 0 f.d; let a ← opXU 16 1 f.a; opNone 2 f.b
      pure (.cpstat f.ctl d a)
  | 0xC7 => do
      sub0 f; let d ← opXU 8 0 f.d; opNone 1 f.a; opNone 2 f.b
      pure (.wait f.ctl d)
  | 0xC8 => do
      sub0 f; let d ← opMem 0 f.d; let a ← opXU 16 1 f.a; opNone 2 f.b
      pure (.binit f.ctl d a)
  | 0xC9 => do
      sub0 f; let d ← opMem 0 f.d; let a ← opXU 16 1 f.a; opNone 2 f.b; modIf (scopeOk f.mod)
      pure (.bara f.ctl d a)
  | 0xCA => do
      sub0 f; let d ← opX 0 f.d; let a ← opMem 1 f.a; opNone 2 f.b
      pure (.bwait f.ctl d a)
  | _ => .error { step := 1, field := 0 }
/-- Steps 1 to 3 of 03 R95 on the fields of a word. -/
def decodeFields (f : Fields) : Except IllAt Instr :=
  if f.opc.toNat < 0x30 then decodeScalar f
  else if f.opc.toNat < 0x60 then decodeVector f
  else if f.opc.toNat < 0x70 then decodePred f
  else if f.opc.toNat < 0x80 then decodeMatrix f
  else if f.opc.toNat < 0xC0 then decodeMemory f
  else decodeChannel f

/-- The instruction of a word, or the step and field at which it traps ILL. -/
def decode (w : IWord) : Except IllAt Instr := decodeFields (splitWord w)

def encX (r : XReg) : BitVec 20 := (0 : BitVec 15) ++ r
def encV (r : VReg) : BitVec 20 := (0x0800 : BitVec 14) ++ r
def encP (r : PReg) : BitVec 20 := (0x0800 : BitVec 13) ++ r
def encK (r : KReg) : BitVec 20 := (0x6000 : BitVec 16) ++ r
def encG (r : GReg) : BitVec 20 := (0x6004 : BitVec 16) ++ r
def encM (r : MReg) : BitVec 20 := (0x18008 : BitVec 18) ++ r
def encW (r : WReg) : BitVec 20 := (0xC00C : BitVec 17) ++ r
def encCR (r : CReg) : BitVec 20 := (0xA0 : BitVec 8) ++ r
def encMem (m : MemOp) : BitVec 20 := (7 : BitVec 3) ++ m.base ++ m.off
def encU {n : Nat} (v : BitVec n) : BitVec 20 := (4 : BitVec 3) ++ v.setWidth 17
def encXU {n : Nat} : XU n → BitVec 20
  | .x r => encX r
  | .i v => encU v
def encVXI : VXI → BitVec 20
  | .v r => encV r
  | .x r => encX r
  | .i v => encU v
def encStream (s : Stream) : BitVec 20 := (0x6000 : BitVec 15) ++ BitVec.ofBool s.last ++ s.slot
def encStreamOpt : Option Stream → BitVec 20
  | none => 0
  | some s => encStream s
def encPOpt : Option PReg → BitVec 20
  | none => 0
  | some p => encP p
def encSlot (s : BitVec 4) : BitVec 20 := (0xC000 : BitVec 16) ++ s
def encRc : XU 2 → BitVec 20
  | .x r => encX r
  | .i v => match v.toNat with | 0 => 0x80001 | 1 => 0x80002 | 2 => 0x80004 | _ => 0x80008
def encW2 (w : BitVec 2) : BitVec 20 := encU w
def encFmt (f : Fmt) : BitVec 20 := encU (fmtCode f)
def encTag (t : TagOp) : BitVec 20 := (8 : BitVec 4) ++ tagBits t

def mkF (c : Ctl) (opc : BitVec 8) (sub : BitVec 6) (d a b : BitVec 20) : Fields where
  opc := opc
  sub := sub
  mod := c.mod
  ginv := c.ginv
  gpred := c.gpred
  yld := c.yld
  la := c.la
  lb := c.lb
  prio := c.prio
  rsv := c.rsv
  d := d
  a := a
  b := b

/-- The fields of an instruction word; none for an event, which is no word (03 R81, R83, R96). -/
def encodeFields : Instr → Option Fields
  | .add c d a b => some (mkF c 0x01 0 (encX d) (encX a) (encXU b))
  | .sub c d a b => some (mkF c 0x02 0 (encX d) (encX a) (encXU b))
  | .mul c d a b => some (mkF c 0x03 0 (encX d) (encX a) (encXU b))
  | .mulh c d a b => some (mkF c 0x04 0 (encX d) (encX a) (encXU b))
  | .div c d a b => some (mkF c 0x05 0 (encX d) (encX a) (encXU b))
  | .rem c d a b => some (mkF c 0x06 0 (encX d) (encX a) (encXU b))
  | .and c d a b => some (mkF c 0x07 0 (encX d) (encX a) (encXU b))
  | .or c d a b => some (mkF c 0x07 1 (encX d) (encX a) (encXU b))
  | .xor c d a b => some (mkF c 0x07 2 (encX d) (encX a) (encXU b))
  | .andn c d a b => some (mkF c 0x07 3 (encX d) (encX a) (encXU b))
  | .orn c d a b => some (mkF c 0x07 4 (encX d) (encX a) (encXU b))
  | .shl c d a b => some (mkF c 0x08 0 (encX d) (encX a) (encXU b))
  | .shr c d a b => some (mkF c 0x08 1 (encX d) (encX a) (encXU b))
  | .sha c d a b => some (mkF c 0x08 2 (encX d) (encX a) (encXU b))
  | .rot c d a b => some (mkF c 0x08 3 (encX d) (encX a) (encXU b))
  | .min c d a b => some (mkF c 0x09 0 (encX d) (encX a) (encXU b))
  | .max c d a b => some (mkF c 0x09 1 (encX d) (encX a) (encXU b))
  | .abs c d a => some (mkF c 0x0A 0 (encX d) (encX a) 0)
  | .neg c d a => some (mkF c 0x0A 1 (encX d) (encX a) 0)
  | .clz c d a => some (mkF c 0x0A 2 (encX d) (encX a) 0)
  | .ctz c d a => some (mkF c 0x0A 3 (encX d) (encX a) 0)
  | .popc c d a => some (mkF c 0x0A 4 (encX d) (encX a) 0)
  | .brev c d a => some (mkF c 0x0A 5 (encX d) (encX a) 0)
  | .bswap c d a => some (mkF c 0x0A 6 (encX d) (encX a) 0)
  | .ext c d a b => some (mkF c 0x0B 0 (encX d) (encX a) (encXU b))
  | .ins c d a b => some (mkF c 0x0B 1 (encX d) (encX a) (encXU b))
  | .sext c d a b => some (mkF c 0x0B 2 (encX d) (encX a) (encXU b))
  | .zext c d a b => some (mkF c 0x0B 3 (encX d) (encX a) (encXU b))
  | .setc c k d a b => some (mkF c 0x0C (encCond k) (encX d) (encX a) (encXU b))
  | .sel c d a b => some (mkF c 0x0D 0 (encX d) (encX a) (encXU b))
  | .li c d v => some (mkF c 0x0E 0 (encX d) (v.extractLsb' 20 20) (v.extractLsb' 0 20))
  | .lih c d v => some (mkF c 0x0F 0 (encX d) (0#16 ++ v.extractLsb' 20 4) (v.extractLsb' 0 20))
  | .lea c d a b => some (mkF c 0x10 0 (encX d) (encMem a) (encX b))
  | .addpc c d a => some (mkF c 0x11 0 (encX d) (encU a) 0)
  | .bCond c k d a b => some (mkF c 0x12 (encCond k) (encX d) (encXU a) (encU b))
  | .bz c d a => some (mkF c 0x13 0 (encX d) (encU a) 0)
  | .bnz c d a => some (mkF c 0x14 0 (encX d) (encU a) 0)
  | .j c d => some (mkF c 0x15 0 (encU d) 0 0)
  | .jal c d a => some (mkF c 0x16 0 (encX d) (encU a) 0)
  | .jr c d a b => some (mkF c 0x17 0 (encX d) (encX a) (encXU b))
  | .loop c d a => some (mkF c 0x18 0 (encX d) (encU a) 0)
  | .setvl c d a b => some (mkF c 0x19 0 (encX d) (encX a) (encFmt b))
  | .setvli c d a b => some (mkF c 0x1A 0 (encX d) (encU a) (encFmt b))
  | .setrc c d a => some (mkF c 0x1B 0 (encX d) (encRc a) 0)
  | .nop c => some (mkF c 0x1C 0 0 0 0)
  | .yield c => some (mkF c 0x1D 0 0 0 0)
  | .pause c d => some (mkF c 0x1E 0 (encU d) 0 0)
  | .trap c d => some (mkF c 0x20 0 (encU d) 0 0)
  | .tret c => some (mkF c 0x21 0 0 0 0)
  | .brk c d => some (mkF c 0x22 0 (encU d) 0 0)
  | .crd c d a => some (mkF c 0x23 0 (encX d) (encCR a) 0)
  | .cwr c d a => some (mkF c 0x24 0 (encCR d) (encXU a) 0)
  | .cset c d a => some (mkF c 0x25 0 (encCR d) (encXU a) 0)
  | .cclr c d a => some (mkF c 0x26 0 (encCR d) (encXU a) 0)
  | .isync c => some (mkF c 0x27 0 0 0 0)
  | .gate c d => some (mkF c 0x28 0 (encU d) 0 0)
  | .gret c => some (mkF c 0x29 0 0 0 0)
  | .halt c => some (mkF c 0x2A 0 0 0 0)
  | .step c => some (mkF c 0x2B 0 0 0 0)
  | .timewait c d a => some (mkF c 0x2C 0 (encX d) (encXU a) 0)
  | .vadd c d a b => some (mkF c 0x30 0 (encV d) (encV a) (encVXI b))
  | .vsub c d a b => some (mkF c 0x31 0 (encV d) (encV a) (encVXI b))
  | .vmul c d a b => some (mkF c 0x32 0 (encV d) (encV a) (encVXI b))
  | .vmad c d a b => some (mkF c 0x33 0 (encV d) (encV a) (encVXI b))
  | .vmsb c d a b => some (mkF c 0x34 0 (encV d) (encV a) (encVXI b))
  | .vnmad c d a b => some (mkF c 0x35 0 (encV d) (encV a) (encVXI b))
  | .vdiv c d a b => some (mkF c 0x36 0 (encV d) (encV a) (encVXI b))
  | .vsqrt c d a => some (mkF c 0x37 0 (encV d) (encV a) 0)
  | .vrcp c d a => some (mkF c 0x38 0 (encV d) (encV a) 0)
  | .vrsq c d a => some (mkF c 0x39 0 (encV d) (encV a) 0)
  | .vexp2 c d a => some (mkF c 0x3A 0 (encV d) (encV a) 0)
  | .vlog2 c d a => some (mkF c 0x3B 0 (encV d) (encV a) 0)
  | .vmin c d a b => some (mkF c 0x3C 0 (encV d) (encV a) (encVXI b))
  | .vmax c d a b => some (mkF c 0x3D 0 (encV d) (encV a) (encVXI b))
  | .vabs c d a => some (mkF c 0x3E 0 (encV d) (encV a) 0)
  | .vneg c d a => some (mkF c 0x3F 0 (encV d) (encV a) 0)
  | .vand c d a b => some (mkF c 0x40 0 (encV d) (encV a) (encVXI b))
  | .vor c d a b => some (mkF c 0x41 0 (encV d) (encV a) (encVXI b))
  | .vxor c d a b => some (mkF c 0x42 0 (encV d) (encV a) (encVXI b))
  | .vnot c d a => some (mkF c 0x43 0 (encV d) (encV a) 0)
  | .vshl c d a b => some (mkF c 0x44 0 (encV d) (encV a) (encVXI b))
  | .vshr c d a b => some (mkF c 0x45 0 (encV d) (encV a) (encVXI b))
  | .vsha c d a b => some (mkF c 0x46 0 (encV d) (encV a) (encVXI b))
  | .vcmp c k d a b => some (mkF c 0x47 (encVCond k) (encP d) (encV a) (encVXI b))
  | .vsel c d a b => some (mkF c 0x48 0 (encV d) (encV a) (encVXI b))
  | .vclass c d a b => some (mkF c 0x49 0 (encP d) (encV a) (encU b))
  | .vcvt c d a b => some (mkF c 0x4A 0 (encV d) (encV a) (encFmt b))
  | .vqnt c d a b => some (mkF c 0x4B 0 (encV d) (encV a) (encTag b))
  | .vdqnt c d a b => some (mkF c 0x4C 0 (encV d) (encV a) (encFmt b))
  | .vsmax c d a b => some (mkF c 0x4D 0 (encG d) (encV a) (encTag b))
  | .vtag c d a b => some (mkF c 0x4E 0 (encV d) (encV a) (encTag b))
  | .vsplat c d a b => some (mkF c 0x4F 0 (encV d) (encXU a) (encFmt b))
  | .vmovV c d a => some (mkF c 0x50 0 (encV d) (encV a) 0)
  | .vmovGFromV c d a => some (mkF c 0x50 0 (encG d) (encV a) 0)
  | .vmovVFromG c d a => some (mkF c 0x50 0 (encV d) (encG a) 0)
  | .viota c d a b => some (mkF c 0x51 0 (encV d) (encXU a) (encFmt b))
  | .vext c d a b => some (mkF c 0x52 0 (encX d) (encV a) (encXU b))
  | .vins c d a b => some (mkF c 0x53 0 (encV d) (encX a) (encXU b))
  | .vred c k d a => some (mkF c 0x54 (encRed k) (encV d) (encV a) 0)
  | .vscan c k d a => some (mkF c 0x55 (encRed k) (encV d) (encV a) 0)
  | .vdot c d a b => some (mkF c 0x56 0 (encV d) (encV a) (encV b))
  | .vtopk c d a b => some (mkF c 0x57 0 (encV d) (encV a) (encXU b))
  | .vsort c d a b => some (mkF c 0x58 0 (encV d) (encV a) (encX b))
  | .pand c d a b => some (mkF c 0x60 0 (encP d) (encP a) (encP b))
  | .por c d a b => some (mkF c 0x60 1 (encP d) (encP a) (encP b))
  | .pxor c d a b => some (mkF c 0x60 2 (encP d) (encP a) (encP b))
  | .pandn c d a b => some (mkF c 0x60 3 (encP d) (encP a) (encP b))
  | .pnot c d a => some (mkF c 0x60 4 (encP d) (encP a) 0)
  | .pmov c d a => some (mkF c 0x60 5 (encP d) (encP a) 0)
  | .pcnt c d a => some (mkF c 0x61 0 (encX d) (encP a) 0)
  | .pfirst c d a => some (mkF c 0x62 0 (encX d) (encP a) 0)
  | .plast c d a => some (mkF c 0x63 0 (encX d) (encP a) 0)
  | .psetn c d a => some (mkF c 0x64 0 (encP d) (encXU a) 0)
  | .pclr c d => some (mkF c 0x65 0 (encP d) 0 0)
  | .pld c d a => some (mkF c 0x66 0 (encP d) (encMem a) 0)
  | .pst c d a => some (mkF c 0x67 0 (encMem d) (encP a) 0)
  | .vslide c d a b => some (mkF c 0x68 0 (encV d) (encV a) (encXU b))
  | .vperm c d a b => some (mkF c 0x69 0 (encV d) (encV a) (encV b))
  | .vshfl c d a b => some (mkF c 0x6A 0 (encV d) (encV a) (encXU b))
  | .vbcast c d a b => some (mkF c 0x6B 0 (encV d) (encV a) (encXU b))
  | .vcomp c d a => some (mkF c 0x6C 0 (encV d) (encV a) 0)
  | .vexpd c d a => some (mkF c 0x6D 0 (encV d) (encV a) 0)
  | .tshape c d a b => some (mkF c 0x70 0 (encX d) (encX a) (encFmt b))
  | .macq c d => some (mkF c 0x71 0 (encM d) 0 0)
  | .mrel c d => some (mkF c 0x72 0 (encM d) 0 0)
  | .mzero c d => some (mkF c 0x73 0 (encM d) 0 0)
  | .mma c d a b => some (mkF c 0x74 0 (encM d) (encV a) (encV b))
  | .mrank c d a b => some (mkF c 0x75 0 (encM d) (encV a) (encV b))
  | .mwait c d => some (mkF c 0x76 0 (encM d) 0 0)
  | .mrd c d a b => some (mkF c 0x77 0 (encV d) (encM a) (encXU b))
  | .mwr c d a b => some (mkF c 0x78 0 (encM d) (encV a) (encXU b))
  | .mcvt c d a b => some (mkF c 0x79 0 (encV d) (encM a) (encXU b))
  | .mstat c d a => some (mkF c 0x7A 0 (encX d) (encM a) 0)
  | .ld c d a => some (mkF c 0x80 0 (encX d) (encMem a) 0)
  | .st c d a b => some (mkF c 0x81 0 (encMem d) (encXU a) (encStreamOpt b))
  | .lda c d a => some (mkF c 0x82 0 (encX d) (encMem a) 0)
  | .stl c d a => some (mkF c 0x83 0 (encMem d) (encXU a) 0)
  | .vld c d a b => some (mkF c 0x84 0 (encV d) (encMem a) (encTag b))
  | .vst c d a b => some (mkF c 0x85 0 (encMem d) (encV a) (encStreamOpt b))
  | .vlds c d a b => some (mkF c 0x86 0 (encV d) (encMem a) (encXU b))
  | .vsts c d a b => some (mkF c 0x87 0 (encMem d) (encV a) (encXU b))
  | .vgath c d a b => some (mkF c 0x88 0 (encV d) (encMem a) (encV b))
  | .vscat c d a b => some (mkF c 0x89 0 (encMem d) (encV a) (encV b))
  | .vresume c d => some (mkF c 0x8A 0 (encV d) 0 0)
  | .piwait c d => some (mkF c 0x8B 0 (encV d) 0 0)
  | .rld c d a => some (mkF c 0xA0 0 (encX d) (encMem a) 0)
  | .rst c d a b => some (mkF c 0xA1 0 (encMem d) (encXU a) (encStreamOpt b))
  | .rvst c d a b => some (mkF c 0xA2 0 (encMem d) (encV a) (encStreamOpt b))
  | .stopen c d a b => some (mkF c 0xA3 0 (encSlot d) (encX a) (encXU b))
  | .stclose c d => some (mkF c 0xA4 0 (encSlot d) 0 0)
  | .sfence c d => some (mkF c 0xA5 0 (encStream d) 0 0)
  | .fenceRel c k => some (mkF c 0xA6 (encFence FKind.rel k) 0 0 0)
  | .fenceAcq c k => some (mkF c 0xA6 (encFence FKind.acq k) 0 0 0)
  | .fenceAr c k => some (mkF c 0xA6 (encFence FKind.ar k) 0 0 0)
  | .jrd c d a b => some (mkF c 0xA7 0 (encX d) (encXU a) (encW2 b))
  | .jrepost c d => some (mkF c 0xA8 0 (encXU d) 0 0)
  | .jdrop c d => some (mkF c 0xA9 0 (encXU d) 0 0)
  | .amoadd c d a b => some (mkF c 0xB0 0 (encX d) (encMem a) (encXU b))
  | .amoand c d a b => some (mkF c 0xB1 0 (encX d) (encMem a) (encXU b))
  | .amoor c d a b => some (mkF c 0xB2 0 (encX d) (encMem a) (encXU b))
  | .amoxor c d a b => some (mkF c 0xB3 0 (encX d) (encMem a) (encXU b))
  | .amomin c d a b => some (mkF c 0xB4 0 (encX d) (encMem a) (encXU b))
  | .amomax c d a b => some (mkF c 0xB5 0 (encX d) (encMem a) (encXU b))
  | .amoswp c d a b => some (mkF c 0xB6 0 (encX d) (encMem a) (encXU b))
  | .cas c d a b => some (mkF c 0xB7 0 (encX d) (encMem a) (encXU b))
  | .cas128 c d a b => some (mkF c 0xB8 0 (encX d) (encMem a) (encX b))
  | .faddx c d a => some (mkF c 0xB9 0 (encMem d) (encX a) 0)
  | .fcell c d a => some (mkF c 0xBA 0 (encX d) (encMem a) 0)
  | .fclr c d => some (mkF c 0xBB 0 (encMem d) 0 0)
  | .send c d a => some (mkF c 0xC0 0 (encK d) (encXU a) 0)
  | .recv c d a b => some (mkF c 0xC1 0 (encX d) (encK a) (encPOpt b))
  | .vsend c d a => some (mkF c 0xC2 0 (encK d) (encV a) 0)
  | .vrecv c d a b => some (mkF c 0xC3 0 (encV d) (encK a) (encPOpt b))
  | .cend c d => some (mkF c 0xC4 0 (encK d) 0 0)
  | .cpgo c d a => some (mkF c 0xC5 0 (encX d) (encW a) 0)
  | .cpstat c d a => some (mkF c 0xC6 0 (encX d) (encXU a) 0)
  | .wait c d => some (mkF c 0xC7 0 (encXU d) 0 0)
  | .binit c d a => some (mkF c 0xC8 0 (encMem d) (encXU a) 0)
  | .bara c d a => some (mkF c 0xC9 0 (encMem d) (encXU a) 0)
  | .bwait c d a => some (mkF c 0xCA 0 (encX d) (encMem a) 0)
  | .refuseTrap _ => none
  | .entryRefused _ => none
  | .journalAck _ => none
  | .postedWriteArrival _ => none
  | .streamMemberCommit _ _ _ => none
  | .streamSkip _ => none
  | .remoteReadPerformed _ => none
  | .loadReply _ => none
  | .loadGroupLands _ _ _ => none
  | .atomicPerformed _ => none
  | .atomicReply _ => none
  | .baraPerformed _ => none
  | .faddxPerformed _ => none
  | .tokenArrival _ => none
  | .slotReturn _ => none
  | .growthGrant _ => none
  | .stationPairRequest _ _ => none
  | .copyTransferStart _ => none
  | .copyPiece _ => none
  | .copyTransferComplete _ => none
  | .matrixUnitStart _ => none
  | .matrixOpComplete _ => none
  | .vectorSequencerPick _ => none
  | .sequencerPeriodEnd _ => none
  | .budgetPeriodEnd _ => none
  | .pauseExpiry _ => none
  | .timewaitExpiry _ => none
  | .outputPortGrant _ _ => none
  | .signalBoxSweep _ => none
  | .supervisorReportTrap _ => none
  | .watchdogExpiry _ => none
  | .gangSwitchStop _ => none
  | .switchStopped _ => none
  | .swctlSave _ => none
  | .swctlLoad _ => none
  | .swctlGo _ => none
  | .hartsReleased _ => none
  | .checkpointDue _ => none
  | .checkpointManifest _ => none
  | .ckreqGo _ => none
  | .translationFill _ _ => none
  | .speculativeWalk _ _ _ => none
  | .fatalContextHold _ => none
  | .xlinvWrite _ => none
  | .stationShootdown _ => none
  | .shootdownAck _ => none
  | .specdropRead _ => none
  | .rtbankWrite _ => none
  | .routingEntryWrite _ _ _ _ _ => none
  | .tschedWrite _ _ => none
  | .jarbWrite _ _ => none
  | .jinjWrite _ _ => none
  | .gframeWrite _ _ => none
  | .xlbaseWrite _ => none
  | .govctlWrite _ => none
  | .hdmaWrite _ _ _ => none
  | .bridgeRegisterWrite _ _ => none
  | .hctokWrite _ _ => none
  | .hctokRead _ => none
  | .hcendWrite _ _ => none
  | .hcendRead _ => none
  | .hostBar2Access _ _ _ => none
  | .launch => none
  | .linkFlitSend _ => none
  | .linkFlitReceive _ _ => none
  | .linkNakReceive _ _ => none
  | .linkRetrain _ _ => none
  | .keyAgreementComplete _ _ => none
  | .timestampExchange _ _ _ _ => none
  | .governorTick _ _ => none
  | .thermalShutdown _ => none
  | .softError _ _ => none
  | .moduleReset => none
  | .pldmMonitorRequest _ => none
  | .pldmFirmwareUpdate _ => none
  | .spdmRequest _ => none
  | .illegalWord _ => none
  | .instructionFetchTrap => none
  | .hcstatWrite _ _ => none
  | .powerLoss => none
  | .loadCancel _ => none

/-- The word of an instruction; none for an event. -/
def encode (i : Instr) : Option IWord := (encodeFields i).map joinWord

/-- The 12 bytes of a word as they lie in memory: three little-endian parcels at ascending addresses (03 R82), so byte n holds
bits [8n+7:8n]. -/
def wordBytes (w : IWord) : List Byte := (List.range 12).map (fun n => w.extractLsb' (8 * n) 8)

/-- The word that bytes in ascending address order hold; a missing byte reads 0. -/
def bytesWord : List Byte → IWord
  | [] => 0
  | b :: r => (b.setWidth 96) ||| (bytesWord r <<< 8)

/-- The instruction whose bits, numbered as the table numbers them, are w: laid out as bytes, read back and decoded. -/
def decodeTableWord (_nbits w : Nat) : Option Instr :=
  (decode (bytesWord (wordBytes (BitVec.ofNat 96 w)))).toOption

end Sys2Proof
end

