-- ==== Sys2Proof/Machine/Poison.lean ====
section
/-! DEFINITION. Uncorrectable errors in x, p and g registers (19 R430): which registers an instruction reads and writes, by the operand
classes of its word (03 R83), and what becomes of a poisoned one. Log 26. -/

namespace Sys2Proof.Machine

/-! Poisoned units of a hart: x r at r, p n at 32 + n, g n at 128 + n. A p or g register counts as a whole. -/

def xUnit (r : XReg) : Nat := r.toNat
def pUnit (p : PReg) : Nat := 32 + p.toNat
def gUnit (g : Nat) : Nat := 128 + g

/-- The x, p or g register that a source operand names: as itself, or as the base of an address. x0 and p0 hold no data. -/
def fieldUnits (o : BitVec 20) : List Nat :=
  let x := fun (r : BitVec 5) => if r = 0 then [] else [xUnit r]
  if o.extractLsb' 5 15 = 0 then x (o.extractLsb' 0 5)
  else if o.extractLsb' 17 3 = 7 then x (o.extractLsb' 12 5)
  else if o.extractLsb' 7 13 = 0x0800 then (if o.extractLsb' 0 7 = 0 then [] else [pUnit (o.extractLsb' 0 7)])
  else if o.extractLsb' 4 16 = 0x6004 then [gUnit (o.extractLsb' 0 4).toNat]
  else []

/-- The instruction reads the x register in its D field, and whether it writes it too. -/
def readsD : Instr → Option Bool
  | .bCond _ _ _ _ _ | .bz _ _ _ | .bnz _ _ _ | .wait _ _ | .jrepost _ _ | .jdrop _ _ => some false
  | .loop _ _ _ | .ins _ _ _ _ | .sel _ _ _ _ | .lih _ _ _ | .cas _ _ _ _ | .cas128 _ _ _ _ | .bwait _ _ _ => some true
  | _ => none

/-- The second register of CAS128's pairs. -/
def pairUnits : Instr → List Nat × List Nat
  | .cas128 _ d _ b => ([xUnit (d + 1), xUnit (b + 1)], [xUnit (d + 1)])
  | _ => ([], [])

/-- The predicate that a receive writes stands in its B field (07 R231). -/
def endUnit : Instr → List Nat
  | .recv _ _ _ (some q) | .vrecv _ _ _ (some q) => [pUnit q]
  | _ => []

/-- The scale registers that the rows from v on name in their tags (02 R62). -/
def Hart.scaleUnits (a : Hart) (o : BitVec 20) : List Nat :=
  if o.extractLsb' 6 14 = 0x0800 then
    (List.range a.rc).filterMap fun j =>
      let t := (a.rv ((o.extractLsb' 0 6).toNat + j)).tag
      if isBlock (tagFmt t) then some (gUnit (t.extractLsb' 5 4).toNat) else none
  else []

/-- The units that instruction i reads. -/
def Hart.readUnits (a : Hart) (i : Instr) : List Nat :=
  match encodeFields i with
  | none => []
  | some f =>
    let d := if (readsD i).isSome || decide (f.d.extractLsb' 17 3 = 7) then fieldUnits f.d else []
    let g := if f.gpred = 0 ∨ 96 ≤ f.gpred.toNat then [] else [pUnit f.gpred]
    (d ++ fieldUnits f.a ++ fieldUnits f.b ++ a.scaleUnits f.a ++ a.scaleUnits f.b ++ g ++ (pairUnits i).1).filter fun u =>
      !(endUnit i).contains u

/-- The units that instruction i writes whole. -/
def writeUnits (i : Instr) : List Nat :=
  match encodeFields i with
  | none => []
  | some f =>
    (if readsD i = some false ∨ f.d.extractLsb' 17 3 = 7 then [] else fieldUnits f.d) ++ (pairUnits i).2 ++ endUnit i

/-- POISON of a register that is no v register: the rule gives TRAPINFO[5:0] for those alone, so here they are free (16 R360; log 26). -/
def State.scalarPoison (s : State) : Trap := trapPoisonReg (Config.freeChoice s.tick 9 % 64)

/-- Instruction i of hart h has completed in t: what it wrote whole is poisoned no longer. A load's register is written by its reply. -/
def State.scrubbed (t : State) (h td : Nat) (i : Instr) : State :=
  if (t.hart h).stalled ∨ (t.hart h).td.toNat ≠ td then t
  else t.modHart h fun a => { a with bad := a.bad.filter fun u => !(writeUnits i).contains u }

/-- The registers that a reply writes (07 R210, R229, R230, R240). -/
def PendKind.writes : PendKind → List Nat
  | .load d _ _ _ | .atomic d _ _ _ | .fcell d _ | .bwait d => [xUnit d]
  | .cas128 d _ => [xUnit d, xUnit (d + 1)]
  | .pld p => [pUnit p]
  | .binit => []

end Sys2Proof.Machine
end

