-- ==== Sys2Proof/Machine/Stream.lean ====
section
/-! DEFINITION. Streams (07 R223 to R226), fences (07 R227) and the journal instructions (07 R219, R222). -/

namespace Sys2Proof.Machine

/-! ### Streams -/

/-- What decoding says of a stream instruction: in a gate call only slots 1 to 4 may be named (04 R140). -/
def slotHead (n : BitVec 4) : Head := { barred := decide (4 < n.toNat) }

/-- Post the close marker of slot n: the next member, which spans no byte; none where the journal or the window has no room
(07 R226). -/
def State.postMarker (s : State) (h n : Nat) (c : Ctl) : Option State :=
  let a := s.hart h
  let sl := a.slot n
  match a.freeEntries 1 with
  | [] => none
  | free =>
    if 64 < a.members sl.gen + 1 then none
    else
      let mk := fun i p => a.mkEntry c 4 n false true false i p
      let s1 := s.postAt h mk 0 free [{ addr := sl.ptr, data := [], mask := [] }]
      some (s1.modHart h fun t => t.setSlot n { sl with seq := sl.seq + 1, closing := true })

/-- One attempt to close slot n: the state to wait in, or the state with the slot freed (07 R226). -/
def State.closeSlot (s : State) (h n : Nat) (c : Ctl) : State × Bool :=
  let a := s.hart h
  let sl := a.slot n
  if sl.closing then
    if a.members sl.gen = 0 then (s.modHart h fun t => t.setSlot n { sl with isOpen := false, closing := false }, true)
    else (s, false)
  else if sl.isOpen then
    match s.postMarker h n c with
    | some s1 => (s1, false)
    | none => (s, false)
  else (s, true)

/-- Bind slot n of hart h to the destination of p, kept with bits [7:0] zero (07 R224; 16 R375). -/
def State.bindSlot (s : State) (h n : Nat) (p : W64) (num : BitVec 8) : State :=
  let (g, s1) := s.freshGen
  s1.modHart h fun t => t.setSlot n { isOpen := true, closing := false, num := num, seq := 0, ptr := p &&& ~~~0xFF, gen := g }

def execStopen (c : Ctl) (d : BitVec 4) (a : XReg) (b : XU 8) (s : State) : Out :=
  .next (s.issue c (slotHead d) fun w =>
    let h := s.cur
    let p := (s.hart h).rx a
    if winOf p = 0 then s.trapHere h (trapWin p)
    else
      match s.closeSlot h d.toNat c with
      | (s1, false) => s1.wait h .waiting 0
      | (s1, true) => (s1.bindSlot h d.toNat p ((s.hart h).xu b)).retire h c w)

def execStclose (c : Ctl) (d : BitVec 4) (s : State) : Out :=
  .next (s.issue c (slotHead d) fun w =>
    match s.closeSlot s.cur d.toNat c with
    | (s1, false) => s1.wait s.cur .waiting 0
    | (s1, true) => s1.retire s.cur c w)

/-- Entries that SFENCE of a slot waits for (07 R226). -/
def Hart.slotPending (a : Hart) (n : Nat) : Bool :=
  if n = 0 then a.ents.any fun e => decide (e.2.slot = 0) else decide (a.members (a.slot n).gen ≠ 0)

def execSfence (c : Ctl) (d : Stream) (s : State) : Out :=
  .next (s.issue c { slotHead d.slot with last0 := d.last } fun w =>
    if (s.hart s.cur).slotPending d.slot.toNat then s.wait s.cur .waiting 0 else s.retire s.cur c w)

/-! ### Fences -/

def execFenceRel (c : Ctl) (k : Scope) (s : State) : Out :=
  .next (s.issue c {} fun w =>
    if (s.hart s.cur).drained s.cur k then (s.hartRelease s.cur).retire s.cur c w else s.wait s.cur .waiting 0)

def execFenceAcq (c : Ctl) (_k : Scope) (s : State) : Out :=
  .next (s.issue c {} fun w =>
    if (s.hart s.cur).landed then (s.hartAcquire s.cur).retire s.cur c w else s.wait s.cur .waiting 0)

def execFenceAr (c : Ctl) (k : Scope) (s : State) : Out :=
  .next (s.issue c {} fun w =>
    if (s.hart s.cur).drained s.cur k && (s.hart s.cur).landed then ((s.hartRelease s.cur).hartAcquire s.cur).retire s.cur c w
    else s.wait s.cur .waiting 0)

/-! ### The journal -/

/-- The words of an entry (07 R219). -/
def JEntry.word (e : JEntry) (w : Nat) : W64 :=
  match w with
  | 0 => e.addr
  | 1 =>
    BitVec.ofNat 64 (e.seq.toNat * 2 ^ 44 + e.slot.toNat * 2 ^ 40 + (if e.last then 2 ^ 39 else 0)
      + (if e.refused then 2 else 1) * 2 ^ 37 + (if e.mark then 2 ^ 36 else 0) + e.reason.toNat * 2 ^ 32
      + e.kind.toNat * 2 ^ 29 + (if e.svc then 2 ^ 28 else 0) + e.len)
  | _ => BitVec.ofNat 64 (e.pc.toNat * 2 ^ 32 + e.asid.toNat)

/-- DOM kind 5: outside service, or an entry of another ASID (07 R222). -/
def State.jnlDom (s : State) (i : Nat) : Option Trap :=
  let a := s.hart s.cur
  let bad := match a.entry i with
    | some e => decide (e.asid ≠ a.asid)
    | none => false
  if !a.svc || bad then some (trapDom 5 i) else none

def execJrd (c : Ctl) (d : XReg) (a : XU 7) (b : BitVec 2) (s : State) : Out :=
  let i := ((s.hart s.cur).xu a).toNat
  .next (s.issue c { dom := s.jnlDom i } fun w =>
    if ((s.hart s.cur).entry i).any fun e => e.bad then s.trapHere s.cur s.scalarPoison else
    (s.modHart s.cur fun x =>
      x.wx d (match x.entry i with | some e => e.word b.toNat | none => 0)).retire s.cur c w)

/-- A refused entry is sent again with its address, data, slot and SEQ (07 R222), in the class of the JREPOST (12 R320),
under the store guards as they stand then (DESIGN
CHOICE, log 38: an entry holds none, 01 R30). -/
def State.repost (s : State) (h i : Nat) (prio : BitVec 2) : State :=
  match (s.hart h).entry i with
  | some e =>
    if e.refused then
      let e1 := { e with refused := false, reason := 0, prio := prio, ws := if winOf e.addr ≤ 1 then (s.hart h).windows else [] }
      (s.modHart h fun a => a.setEntry i (some e1)).sendEntry h i e1
    else s
  | none => s

def execJrepost (c : Ctl) (d : XU 7) (s : State) : Out :=
  let i := ((s.hart s.cur).xu d).toNat
  .next (s.issue c { dom := s.jnlDom i } fun w => (s.repost s.cur i c.prio).retire s.cur c w)

def execJdrop (c : Ctl) (d : XU 7) (s : State) : Out :=
  let i := ((s.hart s.cur).xu d).toNat
  .next (s.issue c { dom := s.jnlDom i } fun w =>
    (match (s.hart s.cur).entry i with
      | some e => if e.refused then s.dropEntry s.cur i e c.prio else s
      | none => s).retire s.cur c w)

end Sys2Proof.Machine
end

