-- ==== Sys2Proof/Machine/Atomic.lean ====
section
/-! DEFINITION. Atomics and exact cells (07 R228 to R230) and barrier objects (07 R239, R240), as a hart issues them. -/

namespace Sys2Proof.Machine

/-- An atomic waits: its release first, then the overlaps of 07 R207 and the order of 14 R335. -/
def State.atomicWaits (s : State) (h : Nat) (p : W64) (n : Nat) : Bool :=
  (s.hart h).tileOrder p || s.loadWaits h p n || !(s.hart h).syncDrained

/-- An atomic of hart `cur` at p: performed in the tile for window 00, else sent (07 R229). `pk` is what its reply does, given
whether that reply is an acquire of another tile's or a station's bytes. -/
def State.atomicAt (s : State) (c : Ctl) (w : BitVec 13) (p : W64) (op : AtomicOp) (rel : Option Scope) (acq : Bool)
    (pk : Bool → PendKind) (fin : List Byte → Hart → Hart) : State :=
  let h := s.cur
  let n := op.span
  let k := op.kind rel.isSome
  match s.ptrTrap [0, 1, 2, 3] p n n with
  | some t => s.trapHere h t
  | none =>
    if (match rel with | some sc => !(s.hart h).drained h sc | none => false) then s.wait h .waiting 0
    else if s.atomicWaits h p n then s.wait h (match op with | .bwait _ => .waiting | _ => .running) 0
    else
      let s1 := if rel.isSome then s.hartRelease h else s
      if winOf p = 0 then
        match s1.ownerModify (s.asker (tileOf h) h (s.hart h).asid p 7) p n k op.run with
        | .error e => s.trapHere h (e.trap p k.wr)
        | .ok (bs, s2) =>
          if op.waits bs then s.wait h .waiting 0
          else ((if acq then s2.lineAcquire h (offOf p) else s2).modHart h (fin bs)).retire h c w
      else
        let own := decide (winOf p = 1) && decide (tileIdOf p = tileOf h)
        s1.request h c w p (pk (acq && !own)) fun id => .atomic h id op p (s.hart h).asid rel.isSome acq

/-- .rel with its scope, and .acq (07 R228). -/
def relOf (m : BitVec 6) : Option Scope := if m.getLsbD 2 then some (modScope m) else none
def acqOf (m : BitVec 6) : Bool := m.getLsbD 3

/-- An AMO of kind k (07 R229); .u counts for AMOMIN and AMOMAX alone. -/
def State.amo (s : State) (c : Ctl) (k : AmoOp) (d : XReg) (a : MemOp) (b : XI) : State :=
  let signs := decide (k = .min) || decide (k = .max)
  s.issue c { mods := if signs then 0x3F else 0x2F, nd := true } fun w =>
    let h := s.hart s.cur
    let n := if c.x5 then 4 else 8
    let u := signs && c.u
    s.atomicAt c w (h.ea a n) (.amo k n u (h.xi b)) (relOf c.mod) (acqOf c.mod) (.atomic d n u) fun bs x =>
      x.wx d (extendTo n u (leNat bs))

def execAmoadd (c : Ctl) (d : XReg) (a : MemOp) (b : XI) (s : State) : Out := .next (s.amo c .add d a b)
def execAmoand (c : Ctl) (d : XReg) (a : MemOp) (b : XI) (s : State) : Out := .next (s.amo c .and d a b)
def execAmoor (c : Ctl) (d : XReg) (a : MemOp) (b : XI) (s : State) : Out := .next (s.amo c .or d a b)
def execAmoxor (c : Ctl) (d : XReg) (a : MemOp) (b : XI) (s : State) : Out := .next (s.amo c .xor d a b)
def execAmomin (c : Ctl) (d : XReg) (a : MemOp) (b : XI) (s : State) : Out := .next (s.amo c .min d a b)
def execAmomax (c : Ctl) (d : XReg) (a : MemOp) (b : XI) (s : State) : Out := .next (s.amo c .max d a b)
def execAmoswp (c : Ctl) (d : XReg) (a : MemOp) (b : XI) (s : State) : Out := .next (s.amo c .swp d a b)

def execCas (c : Ctl) (d : XReg) (a : MemOp) (b : XI) (s : State) : Out :=
  .next (s.issue c { mods := 0x2F, nd := true } fun w =>
    let h := s.hart s.cur
    let n := if c.x5 then 4 else 8
    s.atomicAt c w (h.ea a n) (.cas n (h.rx d) (h.xi b)) (relOf c.mod) (acqOf c.mod) (.atomic d n false) fun bs x =>
      x.wx d (extendTo n false (leNat bs)))

/-- CAS128's two results. -/
def Hart.wx128 (a : Hart) (d : XReg) (bs : List Byte) : Hart := (a.wx d (le64 (bs.take 8))).wx (d + 1) (le64 (bs.drop 8))

def execCas128 (c : Ctl) (d : XReg) (a : MemOp) (b : XReg) (s : State) : Out :=
  .next (s.issue c { mods := 0x0F, nd := true } fun w =>
    let h := s.hart s.cur
    s.atomicAt c w (h.ea a 16) (.cas128 (h.rx d) (h.rx (d + 1)) (h.rx b) (h.rx (b + 1))) (relOf c.mod) (acqOf c.mod) (.cas128 d)
      fun bs x => x.wx128 d bs)

def execFcell (c : Ctl) (d : XReg) (a : MemOp) (s : State) : Out :=
  .next (s.issue c { mods := 0x0B } fun w =>
    s.atomicAt c w ((s.hart s.cur).ea a 64) .fcell none (acqOf c.mod) (.fcell d) fun bs x => x.wx d (le64 bs))

/-- A posted cell or barrier operation: the release's wait, then one entry of the given KIND (07 R230, R240). -/
def State.postAtomic (s : State) (c : Ctl) (w : BitVec 13) (p : W64) (n : Nat) (kind : BitVec 3) (bs : List Byte)
    (rel : Option Scope) : State :=
  let h := s.cur
  match s.ptrTrap [0, 1, 2, 3] p n n with
  | some t => s.trapHere h t
  | none =>
    if (match rel with | some sc => !(s.hart h).drained h sc | none => false) then s.wait h .waiting 0
    else
      match (if rel.isSome then s.hartRelease h else s).post h c kind 0 false rel.isSome
          [{ addr := p, data := bs, mask := fullMask bs.length }] with
      | none => s.wait h .waiting 0
      | some s1 => s1.retire h c w

def execFaddx (c : Ctl) (d : MemOp) (a : XReg) (s : State) : Out :=
  .next (s.issue c { mods := 0x07 } fun w =>
    let h := s.hart s.cur
    s.postAtomic c w (h.ea d 64) 64 1 (lowBytes 4 (h.rx a)) (relOf c.mod))

def execFclr (c : Ctl) (d : MemOp) (s : State) : Out :=
  .next (s.issue c { mods := 0x07 } fun w => s.postAtomic c w ((s.hart s.cur).ea d 64) 64 2 [] (relOf c.mod))

/-! ### Barrier objects -/

def execBinit (c : Ctl) (d : MemOp) (a : XU 16) (s : State) : Out :=
  .next (s.issue c {} fun w =>
    let h := s.hart s.cur
    let v : W64 := match a with | .x r => h.rx r | .i v => v.setWidth 64
    s.atomicAt c w (h.ea d 32) (.binit v) none false (fun _ => .binit) fun _ x => x)

def execBara (c : Ctl) (d : MemOp) (a : XU 16) (s : State) : Out :=
  .next (s.issue c { mods := 0x03 } fun w =>
    let h := s.hart s.cur
    let v : W64 := match a with | .x r => h.rx r | .i v => v.setWidth 64
    s.postAtomic c w (h.ea d 32) 32 3 (bytes64 v) (some (modScope c.mod)))

/-- A hart that waits in BWAIT reports STATE 3 (07 R208). -/
def State.bwaitState (s : State) (h : Nat) : State :=
  match (s.hart h).pend with
  | some { kind := .bwait _, .. } => s.setOwn h .waiting 0
  | _ => s

/-- BWAIT waits until PHASE ≠ x[D][0], then is an acquire (07 R240). -/
def execBwait (c : Ctl) (d : XReg) (a : MemOp) (s : State) : Out :=
  .next (s.issue c {} fun w =>
    let h := s.hart s.cur
    (s.atomicAt c w (h.ea a 32) (.bwait ((h.rx d).getLsbD 0)) none true (fun _ => .bwait d) fun bs x =>
      x.wx d (BitVec.ofNat 64 (leNat bs))).bwaitState s.cur)

end Sys2Proof.Machine
end

