-- ==== Sys2Proof/Machine/Fetch.lean ====
section
/-! DEFINITION. Instruction fetch (03 R92, R93): the 12 bytes at PC in the hart's own tile store, as they stand or stood since
the hart's last ISYNC or trap return, and the instruction they make. -/

namespace Sys2Proof.Machine

/-- Overlay old bytes written at a on the bytes cur at b. -/
def overlay (b : Nat) (cur : List Byte) (a : Nat) (old : List Byte) : List Byte :=
  match cur with
  | [] => []
  | c :: r => (if a ≤ b then old.getD (b - a) c else c) :: overlay (b + 1) r a old

/-- Every value the bytes at b have had, newest first, over a history of writes. -/
def versions (b : Nat) (cur : List Byte) : List (Nat × List Byte) → List (List Byte)
  | [] => [cur]
  | (a, old) :: r =>
    if a < b + cur.length && b < a + old.length then cur :: versions b (overlay b cur a old) r
    else versions b cur r

/-- One parcel: its one value, or one of the values it may still have, as the manual leaves it (03 R93; log 10). -/
def State.fetchParcel (s : State) (h a : Nat) (i : Nat) : List Byte :=
  let vs := versions a (s.peek a 4) (s.stlog.take (s.stlog.length - (s.hart h).syncAt))
  match vs with
  | [v] => v
  | _ => vs.getD (Config.freeChoice s.tick i % vs.length) (s.peek a 4)

/-- The 12 bytes at PC. -/
def State.fetchBytes (s : State) (h : Nat) : List Byte :=
  let a := storeBase (tileOf h) + (s.hart h).pc.toNat
  s.fetchParcel h a 0 ++ s.fetchParcel h (a + 4) 1 ++ s.fetchParcel h (a + 8) 2

/-- The instruction that stands at an offset of tile t's store. -/
def State.storedInstr (s : State) (t o : Nat) : Option Instr := (decode (bytesWord (s.peek (storeBase t + o) 12))).toOption

/-- The fetch at PC traps: a target that is not 4-aligned (04 R130), or a last byte at or above XBND (03 R92). -/
def State.fetchTraps (s : State) (h : Nat) : Bool :=
  let a := s.hart h
  decide (a.pc.toNat % 4 ≠ 0) || decide (a.xbndF.toNat < a.pc.toNat + 12)

/-- What hart h executes next. -/
def State.fetchInstr (s : State) (h : Nat) : Instr :=
  if s.fetchTraps h then .instructionFetchTrap
  else
    match decode (bytesWord (s.fetchBytes h)) with
    | .ok i => i
    | .error why => .illegalWord why

end Sys2Proof.Machine
end

