-- ==== Sys2Proof/Machine/Replies.lean ====
section
/-! DEFINITION. The steps by which requests reach their owners and answers reach the hart: acknowledgements and refusals (07 R218,
R220, R221), posted writes and streams at their destination (07 R224, R225), reads, atomics, cells and barriers performed (07 R229,
R240; 14 R328), and the groups of asynchronous loads (07 R214). -/

namespace Sys2Proof.Machine

/-! ### Stopping a hart (16 R372) -/

/-- Give up a BWAIT's request: the instruction has had no effect and runs again (07 R241). -/
def State.dropBwait (s : State) (h : Nat) : State :=
  match (s.hart h).pend with
  | some { id := i, kind := .bwait _, .. } =>
    let keep := fun (p : Packet) => match p.msg with
      | .atomic h' i' _ _ _ _ _ => !(decide (h' = h) && decide (i' = i))
      | _ => true
    { s.modHart h fun a => { a with pend := none } with arrived := s.arrived.filter keep }
  | _ => s

/-- Hart h stops at a switch, at an instruction boundary; the cycles that remain of a PAUSE are kept (04 R128). -/
def State.stopHart (s : State) (h : Nat) : State :=
  let s1 := s.dropBwait h
  let now := s.cycle (tileOf h)
  s1.modHart h fun a => { a with stopped := true, stalled := false, waitAcc := none, pause := a.pause.map fun t => t - now }

/-- A hart whose reply has come, or whose unwind is done, stops if its partition is stopping (07 R241; 18 R414). -/
def State.settle (s : State) (h : Nat) : State :=
  match (s.hart h).part with
  | none => s
  | some p =>
    let a := s.part p
    if a.stopping && decide (a.sup ≠ h) && decide ((s.hart h).pend = none) && (s.hart h).unwind.isNone && !(s.hart h).stopped then s.stopHart h else s

/-! ### Fatal context errors (18 R399) -/

/-- A record in a station's translation fault log, newest first. -/
def State.logXl (s : State) (st : Nat) (r : XlFault) : State := s.modStation st fun x => { x with flog := r :: x.flog }

/-- A FATAL answer for hart h about address p: the link station it came through logs it, and the hart is to be held. -/
def State.fatalFor (s : State) (h : Nat) (src : Nat) (asid : BitVec 16) (p : W64) (wr : Bool) : State :=
  let s1 := if 1045 ≤ src && src < 1053 then
      s.logXl (src - 1024) { asid := asid, va := p, node := s.node, ep := tileOf h, write := wr }
    else s
  s1.modHart h fun a => { a with fatal := some p }

/-- An owner's error as the answer to a load or atomic (07 R205, R229). -/
def AErr.resp (e : AErr) (p : W64) (wr : Bool) : Resp :=
  match e with
  | .fatal => .fatal p
  | e => let t := e.trap p wr; .trap t.cause t.addr t.info

/-- The serving station's own record of a fatal error. -/
def State.logFatal (s : State) (e : AErr) (ep h : Nat) (asid : BitVec 16) (p : W64) (wr : Bool) : State :=
  match e with
  | .fatal => if ep < 1024 then s else
      s.logXl (ep - 1024) { asid := asid, va := p, node := h / 4096 - 1, ep := tileOf (h % 4096), write := wr }
  | _ => s

/-! ### The journal's answers (07 R218, R220, R221) -/

def execJournalAck (p : Nat) (s : State) : Out :=
  .next (match s.take p with
    | some ({ msg := .ack h i stamp, .. }, s1) =>
      match (s1.hart h).entry i with
      | some e => if e.stamp = stamp then s1.freeEntry h i else s1
      | none => s1
    | _ => s)

def execEntryRefused (p : Nat) (s : State) : Out :=
  .next (match s.take p with
    | some ({ msg := .nack h i stamp reason, src := src, .. }, s1) =>
      match (s1.hart h).entry i with
      | some e =>
        if e.stamp ≠ stamp then s1
        else
          let s2 := s1.modHart h fun a => a.setEntry i (some { e with refused := true, reason := reason })
          if reason = 7 then s2.fatalFor h src e.asid e.addr true else s2
      | none => s1
    | _ => s)

/-- The refused entries that a REFUSE may report now (07 R221). -/
def Hart.reportable (a : Hart) : List (Nat × JEntry) :=
  a.ents.filter fun e => e.2.refused && e.2.rep.isNone && decide (e.2.asid = a.asid) && (!a.svc || (e.2.svc && !a.unread))

/-- No instruction of the hart is in its middle, and it can take a trap (07 R221). A waiting BWAIT is at its boundary. -/
def Hart.atBoundary (a : Hart) : Bool :=
  !a.held && !a.stopped && decide (a.own ≠ .parked) && a.unwind.isNone && a.fatal.isNone && !a.inMiddle
    && (match a.pend with | none => true | some { kind := .bwait _, .. } => true | _ => false)

/-- The trap of a reported entry. -/
def refuseTrapOf (i : Nat) (e : JEntry) : Trap :=
  { cause := 0x08, addr := e.addr, info := BitVec.ofNat 64 i, defer := false, async := true }

def execRefuseTrap (hart : Nat) (s : State) : Out :=
  .next (match oldest (s.hart hart).reportable with
    | some (i, e) =>
      if !(s.hart hart).atBoundary then s
      else
        let s1 := (s.dropBwait hart).trapHere hart (refuseTrapOf i e)
        if (s1.hart hart).unwind.isSome then s1
        else s1.modHart hart fun a => a.setEntry i (some { e with rep := some a.depth })
    | none => s)

/-! ### Posted writes at their destination -/

/-- The write of an entry as its owner performs it (07 R211, R215, R230, R240). -/
def State.performEntry (s : State) (ep h : Nat) (e : JEntry) : Except AErr State :=
  let own := ownTile ep h
  let atomic := decide (e.kind ≠ 0)
  let late := if atomic then 7 else 5
  let frees := e.rel || decide (e.gen ≠ 0)
  let s1 := if !own && frees then s.agentRelease ep late else s
  let q := (s1.asker ep h e.asid e.addr late).under e.addr e.ws
  let k : AccKind := { rd := atomic, wr := true, sync := atomic || frees, atomic := atomic
                       afterRel := if own then e.rel else frees }
  let modify := fun n f =>
    match s1.ownerModify q e.addr n k (fun old => ([], some (f old))) with
    | .error x => Except.error x
    | .ok (_, s2) => .ok s2
  match e.kind.toNat with
  | 0 => s1.ownerWrite q e.addr e.data e.mask k
  | 1 => modify 64 (cellAdd (leNat e.data))
  | 2 => modify 64 (fun _ => toBytes 64 0)
  | 3 => modify 32 (barrierArrive (leNat e.data))
  | _ => .ok s

/-- The kind of access that an entry is, as its translation sees it. -/
def JEntry.kindOf (e : JEntry) : AccKind := { kWrite with rd := decide (e.kind ≠ 0) }

/-- The endpoint that performs an entry: a mark spans no byte and stays where it is. -/
def State.entryEp (s : State) (ep h : Nat) (e : JEntry) : Nat :=
  if e.mark then ep else s.servedAt ep e.asid e.addr e.kindOf (decide (4096 ≤ h))

/-- The answer to an entry: an acknowledgement, or a refusal with its reason. -/
def entryAnswer (h i : Nat) (e : JEntry) : Option (BitVec 4) → Msg
  | none => .ack h i e.stamp
  | some r => .nack h i e.stamp r

/-- Perform entry e of packet p at its endpoint, as a request of n bytes: the state after, and the reason where it is refused. Poisoned words
of its own are never written: they refuse it with REASON 5 (19 R430; log 26). -/
def State.performAt (s : State) (p : Packet) (h : Nat) (e : JEntry) (n : Nat) : State × Option (BitVec 4) :=
  let ep := s.localEp p.dst
  let s0 := s.chargeLen p n
  if e.bad then (s0, some 5)
  else
  match s0.performEntry ep h e with
  | .ok s1 => (s1, none)
  | .error x =>
    ((s0.touched (s0.asker ep h e.asid e.addr 5) e.addr (max 1 e.data.length) e.kindOf).logFatal x ep h e.asid e.addr true, some x.reason)

/-- An entry of which only the bytes from lo and before hi are written. -/
def JEntry.only (e : JEntry) (lo hi : Nat) : JEntry := { e with mask := e.mask.mapIdx fun i m => if lo ≤ i ∧ i < hi then m else 0 }

/-- Perform what is left of entry e of packet p at its endpoint, from byte `done` on, and answer it; where another station serves the end
of a store and the whole of it is admitted, that station performs the rest and answers (14 R326, 19 R422). -/
def State.serveEntry (s : State) (p : Packet) (h i : Nat) (e : JEntry) (done : Nat) : State :=
  let ep := s.localEp p.dst
  let own := s.ownedBytes ep e.asid (e.addr + BitVec.ofNat 64 done) (e.data.length - done) e.kindOf (decide (4096 ≤ h))
  let all := s.performAt p h (if done = 0 then e else e.only done e.data.length) (e.len - done)
  let done1 := done + own.1
  if e.kind ≠ 0 ∨ e.data.length ≤ done1 ∨ all.2.isSome then all.1.send ep (replyTo h) p.prio p.part (entryAnswer h i e all.2)
  else (s.performAt p h (e.only done done1) own.1).1.send ep (.ep own.2) p.prio p.part (.rest h i e done1)

/-- What is left of a station pair's request, at station st, which performs the bytes it serves: the state after, and the reply if nothing
is left, or else the rest and the station that serves it (09 R261; 14 R326). -/
def State.pairServe (s : State) (st p n : Nat) (wr : Bool) (len : Nat) (runs : List (Nat × Nat)) (data got : List Byte) :
    State × Sum (List Token) (Nat × Msg) :=
  let m := servedBytes (len / 4096 + 20) st runs
  let (mine, rest) := cutRuns runs m
  if (s.poisonRuns (if wr then kWrite else kRead) 0 mine).isSome then (s, .inl [endToken])
  else
    let s1 := if wr then s.pokeRuns mine (data.take m) else s
    let got1 := if wr then got else got ++ s.peekRuns mine
    match rest with
    | [] => (s1, .inl (if wr then [dataToken (BitVec.ofNat 64 len)] else packTokens (len + 1) got1))
    | (a, _) :: _ => (s1, .inr (servedBy a, .pairPart p n wr len rest (data.drop m) got1))

/-- The part of a pair's request that packet q brings. -/
def State.servePair (s : State) (q : Packet) (p n : Nat) (wr : Bool) (len : Nat) (runs : List (Nat × Nat)) (data got : List Byte) : State :=
  let ep := s.localEp q.dst
  let r := (s.chargeLen q (servedBytes (len / 4096 + 20) (ep - 1024) runs)).pairServe (ep - 1024) p n wr len runs data got
  match r.2 with
  | .inl out => r.1.send ep (.ep (stEp (s.pairOf p n).home)) q.prio q.part (.pairDone p n out)
  | .inr (st, m) => r.1.send ep (.ep (stEp st)) q.prio q.part m

/-! ### Streams at their destination (07 R224, R225; 18 R408) -/

def State.streamsAt (s : State) (ep : Nat) : List StreamSt :=
  if ep < 1024 then (s.tile ep).streams else (s.station (ep - 1024)).streams

def State.setStreams (s : State) (ep : Nat) (l : List StreamSt) : State :=
  if ep < 1024 then s.modTile ep fun t => { t with streams := l } else s.modStation (ep - 1024) fun x => { x with streams := l }

def StreamSt.is (x : StreamSt) (sender : Nat) (num : BitVec 8) : Bool := decide (x.sender = sender) && decide (x.num = num)

/-- Replace, add or (with none) remove the stream of a sender and number. -/
def State.putStream (s : State) (ep sender : Nat) (num : BitVec 8) (x : Option StreamSt) : State :=
  let rest := (s.streamsAt ep).filter fun y => !y.is sender num
  s.setStreams ep (match x with | some x => x :: rest | none => rest)

/-- Pass the SEQs whose members have been dropped. -/
def StreamSt.passSkips : Nat → StreamSt → StreamSt
  | 0, x => x
  | f + 1, x => if x.skips.contains x.next then passSkips f { x with next := x.next + 1, skips := x.skips.filter (· ≠ x.next) } else x

def StreamSt.pass (x : StreamSt) : StreamSt := x.passSkips (x.skips.length + 1)

/-- The SEQ of a held member. -/
def memberSeq (p : Packet) : BitVec 20 := match p.msg with | .write _ _ e => e.seq | _ => 0

/-- A member or skip of binding gen starts a new instance of a stream that holds no member (18 R408): it is of another binding than those
before it. -/
def StreamSt.anew (x : StreamSt) (gen : Nat) : Bool := x.held.isEmpty && x.busy.isNone && decide (gen ≠ x.gen)

/-- A member arrives: held by its stream, which it may activate, or refused with REASON 6 where another sender holds the number. SEQ 0
of another binding, where none is held, starts a new instance (18 R408); of the same binding it is the member after SEQ 2^20 − 1. -/
def State.holdMember (s : State) (p : Packet) (h i : Nat) (e : JEntry) : State :=
  let ep := s.localEp p.dst
  match (s.streamsAt ep).find? fun x => decide (x.num = e.strm) with
  | none => s.putStream ep h e.strm (some { sender := h, num := e.strm, next := 0, held := [p], skips := [], busy := none, gen := e.gen })
  | some x =>
    if x.sender ≠ h then s.send ep (replyTo h) p.prio p.part (.nack h i e.stamp 6)
    else
      s.putStream ep h e.strm (some { x with
        next := if e.seq = 0 ∧ x.anew e.gen then 0 else x.next, held := x.held ++ [p], gen := e.gen })

/-- The stream of a member or a skip: its sender and number. -/
def Msg.stream : Msg → Option (Nat × BitVec 8)
  | .write h _ e => if e.gen ≠ 0 then some (h, e.strm) else none
  | .skip h num _ _ _ => some (h, num)
  | _ => none

/-- An earlier packet of the same stream has arrived and not been taken: they are taken in the order of their injection (10 R281). -/
def State.behind (s : State) (p : Packet) : Bool :=
  s.arrived.any fun q => decide (q.id < p.id) && decide (q.dst = p.dst) && decide (q.bank = p.bank) && q.msg.stream.isSome
    && decide (q.msg.stream = p.msg.stream)

/-- A slot-0 write or FCLR is performed, or sent on to the station that serves its bytes; a member is held for its stream (07 R218, R224),
or performed for the home station that sent it on. -/
def execPostedWriteArrival (p : Nat) (s : State) : Out :=
  .next (match s.take p with
    | some (q@{ msg := .write h i e, .. }, s1) =>
      let ep := s.localEp q.dst
      if e.gen ≠ 0 then (if s.behind q then s else s1.holdMember q h i e)
      else if (e.kind = 0 || e.kind = 2) && s.mayServe q then
        (if s1.entryEp ep h e ≠ ep then s1.sendOn q (s1.entryEp ep h e) else s1.serveEntry q h i e 0)
      else s
    | some (q@{ msg := .rest h i e d, .. }, s1) => if s.mayServe q then s1.serveEntry q h i e d else s
    | some (q@{ msg := .pairPart p n true len runs data got, .. }, s1) =>
      if s.mayServe q then s1.servePair q p n true len runs data got else s
    | some (q@{ msg := .member h i e home, .. }, s1) =>
      if s.mayServe q then
        let r := s1.performAt q h e e.len
        r.1.send (s.localEp q.dst) (.ep home) q.prio q.part (.memberRep h i e r.2)
      else s
    | some (q@{ msg := .piece h id a bs asid, .. }, s1) =>
      let ep := s.localEp q.dst
      let t := s1.servedAt ep asid a kWrite false
      if !s.mayServe q then s
      else if t ≠ ep then s1.sendOn q t
      else
        let s2 := s1.chargeUnits q
        let k := s2.asker ep h asid a 5
        match s2.ownerWrite k a bs (fullMask bs.length) kWrite with
        | .ok s3 => s3.send ep (replyTo h) q.prio q.part (.pieceRep h id (.data []))
        | .error e => (s2.touched k a bs.length kWrite).send ep (replyTo h) q.prio q.part (.pieceRep h id (e.resp a true))
    | _ => s)

/-- The answer that the owner of a forwarded member has sent to its home station. -/
def State.memberAnswer (s : State) (ep h i : Nat) (e : JEntry) : Option (Packet × Option (BitVec 4)) :=
  s.arrived.findSome? fun q => match q.msg with
    | .memberRep h' i' e' r =>
      if h' = h ∧ i' = i ∧ e'.stamp = e.stamp ∧ s.localEp q.dst = ep then some (q, r) else none
    | _ => none

/-- What stays of a stream whose last member has been performed: nothing, unless members or skips of its slot's next binding to the same
number have come, which make a new instance (07 R224, R225; 18 R408). -/
def StreamSt.retired (x : StreamSt) : Option StreamSt :=
  if x.held.isEmpty ∧ x.skips.isEmpty then none else some (StreamSt.pass { x with next := 0 })

/-- A member has been performed, or refused: the stream goes on to the next, retires after its last, or keeps waiting for this one. -/
def State.memberDone (s : State) (ep sender : Nat) (x : StreamSt) (q : Packet) (h i : Nat) (e : JEntry) (r : Option (BitVec 4)) : State :=
  let s1 := s.send ep (replyTo h) q.prio q.part (entryAnswer h i e r)
  let x1 := { x with held := x.held.filter fun p => decide (p.id ≠ q.id), busy := none }
  match r with
  | some _ => s1.putStream ep sender x.num (some x1)
  | none =>
    let s2 := s1.progress q.part
    if e.last || e.mark then s2.putStream ep sender x.num x1.retired
    else s2.putStream ep sender x.num (some (StreamSt.pass { x1 with next := x.next + 1 }))

/-- The member that a stream expects is performed, here or by the station that serves its bytes (07 R224, R225). -/
def execStreamMemberCommit (ep : Nat) (sender num : Nat) (s : State) : Out :=
  let n := BitVec.ofNat 8 num
  .next (match (s.streamsAt ep).find? fun x => x.is sender n with
    | none => s
    | some x =>
      match x.busy with
      | some (q@{ msg := .write h i e, .. }) =>
        match s.memberAnswer ep h i e with
        | some (m, r) => { s with arrived := s.arrived.filter fun z => decide (z.id ≠ m.id) }.memberDone ep sender x q h i e r
        | none => s
      | _ =>
        match x.held.find? fun p => decide (memberSeq p = x.next) with
        | some (q@{ msg := .write h i e, .. }) =>
          if !s.mayServe q then s
          else if s.entryEp ep h e ≠ ep then
            (s.putStream ep sender n (some { x with busy := some q })).send ep (.ep (s.entryEp ep h e)) q.prio q.part (.member h i e ep)
          else
            let r := s.performAt q h e e.len
            r.1.memberDone ep sender x q h i e r.2
        | _ => s)

/-- A skip lets its stream pass; one for a number that no stream holds activates it for the sender, and one for a number that another
sender holds stays until the number is free (DESIGN CHOICE, log 38). -/
def execStreamSkip (p : Nat) (s : State) : Out :=
  .next (match s.take p with
    | some (q@{ msg := .skip h num seq _ gen, .. }, s1) =>
      let ep := s.localEp q.dst
      if s.behind q then s
      else match (s.streamsAt ep).find? fun x => decide (x.num = num) with
      | none =>
        let x : StreamSt := { sender := h, num := num, next := 0, held := [], skips := [seq], busy := none, gen := gen }
        s1.putStream ep h num (some x.pass)
      | some x =>
        if x.sender ≠ h then s
        else s1.putStream ep h num (some (StreamSt.pass { x with
          next := if x.anew gen then 0 else x.next, skips := seq :: x.skips, gen := if x.anew gen then gen else x.gen }))
    | _ => s)

def execFaddxPerformed (p : Nat) (s : State) : Out :=
  .next (match s.take p with
    | some (q@{ msg := .write h i e, .. }, s1) =>
      let ep := s.localEp q.dst
      if !(e.kind = 1 && s.mayServe q) then s
      else if s1.entryEp ep h e ≠ ep then s1.sendOn q (s1.entryEp ep h e)
      else s1.serveEntry q h i e 0
    | _ => s)

def execBaraPerformed (p : Nat) (s : State) : Out :=
  .next (match s.take p with
    | some (q@{ msg := .write h i e, .. }, s1) =>
      let ep := s.localEp q.dst
      if !(e.kind = 3 && s.mayServe q) then s
      else if s1.entryEp ep h e ≠ ep then s1.sendOn q (s1.entryEp ep h e)
      else s1.serveEntry q h i e 0
    | some (q@{ msg := .arrive h id a n asid, .. }, s1) =>
      let ep := s.localEp q.dst
      let k : AccKind := { kWrite with rd := true, sync := true, atomic := true, afterRel := true }
      let t := s1.servedAt ep asid a k (decide (4096 ≤ h))
      if !s.mayServe q then s
      else if t ≠ ep then s1.sendOn q t
      else
        let s2 := (s1.chargeUnits q).agentRelease ep 7
        match s2.ownerModify (s2.asker ep h asid a 7) a 32 k (fun old => ([], some (barrierArrive n old))) with
        | .ok (_, s3) => s3.send ep (replyTo h) q.prio q.part (.pieceRep h id (.data []))
        | .error e =>
          ((s2.touched (s2.asker ep h asid a 7) a 32 k).logFatal e ep h asid a true).send ep (replyTo h) q.prio q.part
            (.pieceRep h id (e.resp a true))
    | _ => s)

/-! ### Reads and atomics at their owner -/

/-- Element reads that a station performs itself: its answers in ascending order, and the state after (07 R214). -/
def State.readElems (s : State) (ep h : Nat) (asid : BitVec 16) (n : Nat) : List (Nat × W64) → List (Nat × Resp) × State
  | [] => ([], s)
  | (e, p) :: r =>
    let q := s.asker ep h asid p 5
    match s.ownerRead q p n kRead with
    | .ok (bs, s1) => let y := s1.readElems ep h asid n r; ((e, .data bs) :: y.1, y.2)
    | .error x =>
      let y := ((s.touched q p n kRead).logFatal x ep h asid p false).readElems ep h asid n r
      ((e, x.resp p false) :: y.1, y.2)

/-- The element reads of a request: those of bytes that this station serves are performed, charged and answered, and each other station's
are sent on to it (12 R319). -/
def State.serveElems (s : State) (q : Packet) (h id v g : Nat) (es : List (Nat × W64)) (n : Nat) (asid : BitVec 16) : State :=
  let ep := s.localEp q.dst
  let at_ := fun (x : Nat × W64) => s.servedAt ep asid x.2 kRead false
  let own := es.filter fun x => decide (at_ x = ep)
  let r := s.readElems ep h asid n own
  let s1 := if own.isEmpty then s else (r.2.chargeLen q (own.length * n)).send ep (replyTo h) q.prio q.part (.elemsRep h id v g r.1)
  (((List.range 14).map fun i => stEp (16 + i)).filter fun t => decide (t ≠ ep)).foldl (fun s t =>
    let xs := es.filter fun x => decide (at_ x = t)
    if xs.isEmpty then s else s.send ep (.ep t) q.prio q.part (.elems h id v g xs n asid)) s1

/-- Read what is left of n bytes at a, of which `got` have been read, and answer; where another station serves the end of them, it is sent
on with what has been read (14 R326, 19 R422). -/
def State.serveRead (s : State) (q : Packet) (h id : Nat) (a : W64) (n : Nat) (asid : BitVec 16) (sync : Bool) (got : List Byte) : State :=
  let ep := s.localEp q.dst
  let p := a + BitVec.ofNat 64 got.length
  let left := n - got.length
  let own := s.ownedBytes ep asid p left kRead (decide (4096 ≤ h))
  let s1 := s.chargeLen q own.1
  match s1.ownerRead (s1.asker ep h asid p 5) p own.1 { kRead with sync := sync } with
  | .ok (bs, s2) =>
    if left ≤ own.1 then s2.send ep (replyTo h) q.prio q.part (.readRep h id (.data (got ++ bs)))
    else s2.send ep (.ep own.2) q.prio q.part (.readOn h id a n asid (got ++ bs))
  | .error e =>
    ((s1.touched (s1.asker ep h asid p 5) p own.1 kRead).logFatal e ep h asid p false).send ep (replyTo h) q.prio q.part
      (.readRep h id ((e.shift got.length).resp a false))

/-- A remote load is performed at the owner of its bytes; so are the element reads of a vector load (07 R205, R214; 14 R326). -/
def execRemoteReadPerformed (p : Nat) (s : State) : Out :=
  .next (match s.take p with
    | some (q@{ msg := .read h id a n asid sync, .. }, s1) =>
      let ep := s.localEp q.dst
      let t := s1.servedAt ep asid a kRead (decide (4096 ≤ h))
      if !s.mayServe q then s
      else if t ≠ ep then s1.sendOn q t
      else s1.serveRead q h id a n asid sync []
    | some (q@{ msg := .readOn h id a n asid got, .. }, s1) => if s.mayServe q then s1.serveRead q h id a n asid false got else s
    | some (q@{ msg := .pairPart p n false len runs data got, .. }, s1) =>
      if s.mayServe q then s1.servePair q p n false len runs data got else s
    | some (q@{ msg := .elems h id v g es n asid, .. }, s1) =>
      if !s.mayServe q then s else s1.serveElems q h id v g es n asid
    | _ => s)

/-- An atomic, BINIT or BWAIT read is performed indivisibly; a BWAIT whose phase stands waits on (07 R229, R240). -/
def execAtomicPerformed (p : Nat) (s : State) : Out :=
  .next (match s.take p with
    | some (q@{ msg := .atomic h id op a asid rel acq, .. }, s1) =>
      if !s.mayServe q then s
      else
        let ep := s.localEp q.dst
        let own := ownTile ep h
        let k := op.kind rel
        let t := s1.servedAt ep asid a k (decide (4096 ≤ h))
        if t ≠ ep then s1.sendOn q t
        else
        let s2 := s1.chargeUnits q
        let s3 := if rel && !own then s2.agentRelease ep 7 else s2
        match s3.ownerModify (s3.asker ep h asid a 7) a op.span k op.run with
        | .ok (bs, s4) =>
          if op.waits bs then s
          else
            (if own && acq then s4.lineAcquire h (offOf a) else s4).send ep (replyTo h) q.prio q.part (.atomicRep h id (.data bs))
        | .error e => ((s2.touched (s2.asker ep h asid a 7) a op.span k).logFatal e ep h asid a k.wr).send ep (replyTo h) q.prio q.part (.atomicRep h id (e.resp a k.wr))
    | _ => s)

/-! ### Replies at the hart -/

/-- What a reply's bytes do (07 R210, R229, R230, R240; 05 R178). -/
def PendKind.finish (k : PendKind) (bs : List Byte) (a : Hart) : Hart :=
  match k with
  | .load d n u _ | .atomic d n u _ => a.wx d (extendTo n u (leNat bs))
  | .pld d => a.wp d (BitVec.ofNat 2048 (leNat bs))
  | .cas128 d _ => a.wx128 d bs
  | .fcell d _ => a.wx d (le64 bs)
  | .binit => a
  | .bwait d => a.wx d (BitVec.ofNat 64 (leNat bs))

def PendKind.acq : PendKind → Bool
  | .load _ _ _ q | .atomic _ _ _ q | .cas128 _ q | .fcell _ q => q
  | .bwait _ => true
  | _ => false

/-- Whether the instruction reads alone; GUARD and PAGE of the others name a write. -/
def PendKind.reads : PendKind → Bool
  | .load _ _ _ _ | .pld _ | .fcell _ _ | .bwait _ => true
  | _ => false

/-- The reply of a request reaches hart h: its instruction completes, traps precisely, or meets a fatal error. -/
def State.reply (s : State) (p : Packet) (h id : Nat) (r : Resp) : State :=
  match (s.hart h).pend with
  | none => s
  | some q =>
    if q.id ≠ id then s
    else
      let s1 := s.modHart h fun a => { a with pend := none }
      let s2 := match r with
        | .data bs =>
          let s2 := if q.kind.acq && decide (p.src ≠ tileOf h) then s1.hartAcquire h else s1
          (s2.modHart h fun a => { q.kind.finish bs a with bad := a.bad.filter fun u => !q.kind.writes.contains u }).retire h (ctlYld q.yld) q.wflag
        | .trap cause a info => s1.trapHere h (Trap.mk' cause a info)
        | .fatal a => s1.fatalFor h p.src (s.hart h).asid a (!q.kind.reads)
      s2.settle h

def execAtomicReply (p : Nat) (s : State) : Out :=
  .next (match s.take p with
    | some (q@{ msg := .atomicRep h id r, .. }, s1) => s1.reply q h id r
    | _ => s)

/-! ### Element groups of asynchronous loads (07 R214) -/

/-- The endpoint that performs a load's access at p (log 5). -/
def loadEp (h : Nat) (p : W64) : Nat := if winOf p = 0 then tileOf h else stEp (vaOf p / 4096 % 16)

/-- The value of element e of row v in its bytes: the high nibble of an odd memory element of 4 bits. -/
def Flight.value (f : Flight) (v e : Nat) (bs : List Byte) : Nat :=
  if accWidth f.desc.tag = 4 ∧ ((v - f.desc.d.toNat) * f.desc.vl + e) % 2 = 1 then leNat bs / 16 else leNat bs

/-- A station's answer for element e among the replies that have come, if it has one. -/
def replyFor (e : Nat) : List Packet → Option Resp
  | [] => none
  | p :: r =>
    match p.msg with
    | .elemsRep _ _ _ _ rs =>
      match rs.find? fun x => decide (x.1 = e) with
      | some x => some x.2
      | none => replyFor e r
    | _ => replyFor e r

/-- The read of an element of window 00: the bytes that an early read has left, or those that stand there now. -/
def State.elemRead (s : State) (h : Nat) (f : Flight) (v e : Nat) : Except AErr (List Byte × State) :=
  match f.early.find? fun x => decide (x.1 = e) with
  | some x => .ok (x.2, s)
  | none =>
    let p := f.addr v e
    s.ownerRead ((s.asker (tileOf h) h f.desc.asid p 5).under p f.desc.ws) p (elemBytes (accWidth f.desc.tag)) kRead

/-- Element e of the load into row v of hart h, if it lies in window 00 and its group has still to land, is read before the others of
its group (14 R331; log 20). A fault of it is met when the group lands. -/
def State.readEarly (s : State) (h v e : Nat) : State :=
  let r := (s.hart h).rv v
  match r.flight with
  | none => s
  | some f =>
    let p := f.addr v e
    let w := elemBytes (accWidth f.desc.tag)
    if !((f.pending.any fun g => (f.desc.elems g).contains e) && decide (winOf p = 0)
        && (decide (f.desc.kind ≠ .gather) || (s.ptrTrap [0, 2] p w w).isNone)) then s
    else
      match s.elemRead h f v e with
      | .error _ => s
      | .ok (bs, s1) => s1.modHart h fun a => a.wv v { r with flight := some { f with early := (e, bs) :: f.early } }

/-- Read elements in ascending order: the row's new data, or the first fault as a trap. Window 00 is read now; window 10 has been read by
the stations that answered. -/
def State.landElems (s : State) (h v : Nat) (f : Flight) (reps : List Packet) : List Nat → VData → Except Trap (VData × State)
  | [], d => .ok (d, s)
  | e :: r, d =>
    let w := accWidth f.desc.tag
    let p := f.addr v e
    match (if f.desc.kind = .gather then s.ptrTrap [0, 2] p (elemBytes w) (elemBytes w) else none) with
    | some t => .error t
    | none =>
      if winOf p = 0 then
        match s.elemRead h f v e with
        | .error x => .error (x.trap p false)
        | .ok (bs, s1) => s1.landElems h v f reps r (setElem d w e (f.value v e bs))
      else
        match replyFor e reps with
        | some (.data bs) => s.landElems h v f reps r (setElem d w e (f.value v e bs))
        | some (.trap cause a info) => .error (Trap.mk' cause a info)
        | _ => .error (trapPage p false)

/-- Rows of the load of row v that have still to land, v and those after it. -/
def Hart.laterRows (a : Hart) (d : LoadDesc) (v : Nat) : List Nat :=
  ((List.range d.rc).map fun j => d.d.toNat + j).filter fun u =>
    decide (v ≤ u) && (match (a.rv u).flight with | some f => decide (f.desc = d) | none => false)

/-- Some row below v of the same load has still to land. -/
def Hart.earlierRow (a : Hart) (d : LoadDesc) (v : Nat) : Bool :=
  ((List.range d.rc).map fun j => d.d.toNat + j).any fun u =>
    decide (u < v) && (match (a.rv u).flight with | some f => decide (f.desc = d) && decide (f.landed ≠ BitVec.allOnes 64) | none => false)

/-- The fault of group g of row v: that row keeps PI = g, every later row of the load takes PI = 0, all are poisoned and take
the one record (07 R214). -/
def Hart.loadFault (a : Hart) (d : LoadDesc) (v g : Nat) (t : Trap) : Hart :=
  (a.laterRows d v).foldl (fun x u =>
    let r := x.rv u
    let idx := match r.flight with | some f => (f.idxData, f.idxTag) | none => (0, 0)
    let l : LoadRec := {
      desc := d, cause := t.cause, addr := t.addr, detail := t.info.setWidth 8, idxData := idx.1, idxTag := idx.2
      again := r.flight.any fun f => f.again, spoilt := r.flight.any fun f => f.spoilt }
    x.wv u { r with tag := poisonTag r.tag, pi := if u = v then g else 0, lrec := some l, flight := none }) a

/-- Row v with flight f, whose landed groups have grown: PI rises over the leading ones. A row that has landed whole completes once every
row below it has (07 R214: rows below a faulting row complete, and it may be one of them). -/
def Hart.landRow (a : Hart) (v : Nat) (r : VecReg) (f : Flight) : Hart :=
  if f.landed = BitVec.allOnes 64 ∧ a.earlierRow f.desc v then a.wv v { r with tag := cleanTag r.tag, pi := 64, lrec := none, flight := some f }
  else a.wv v (r.after f)

/-- Rows of the load that have landed whole complete up to the first that has not. -/
def Hart.completeRows (a : Hart) (d : LoadDesc) : Hart :=
  (List.range d.rc).foldl (fun x j =>
    let v := d.d.toNat + j
    match (x.rv v).flight with
    | some f => if f.desc = d ∧ f.landed = BitVec.allOnes 64 ∧ !x.earlierRow d v then x.wv v ((x.rv v).after f) else x
    | none => x) a

/-- The offsets register of a gather issued again is not what it was (07 R216): its elements are unpredictable. -/
def Hart.spoils (a : Hart) (f : Flight) (v : Nat) : Bool :=
  f.spoilt || (f.again && decide (f.desc.kind = .gather) && decide (a.indexOf f.desc v ≠ (f.idxData, f.idxTag)))

/-- Elements es of a row as free values (00 R6; log 4). -/
def freeElems (tick w : Nat) (es : List Nat) (d : VData) : VData :=
  es.foldl (fun d e => setElem d w e (elemAt (Config.freeV tick 0) w e)) d

/-- The replies that hart h has for group g of row v under load number id. -/
def State.groupReplies (s : State) (h id v g : Nat) : List Packet :=
  s.arrived.filter fun p => match p.msg with
    | .elemsRep h' i v' g' _ => decide (h' = h) && decide (i = id) && decide (v' = v) && decide (g' = g)
    | _ => false

/-- Group g of row v lands once the stations it is read from have answered: it raises PI over the leading groups. A fault takes effect
once every group below it has landed, in this row and those below (log 20). -/
def execLoadGroupLands (hart : Nat) (v : VReg) (g : Nat) (s : State) : Out :=
  let a := s.hart hart
  let r := a.rv v.toNat
  .next (match r.flight with
    | none => s
    | some f =>
      let reps := s.groupReplies hart f.id v.toNat g
      if f.landed.getLsbD g || decide (64 ≤ g)
          || (f.stations v.toNat g).any (fun n => (f.partAt v.toNat g n).any fun x => (replyFor x.1 reps).isNone) then s
      else
        let s0 := { s with arrived := s.arrived.filter fun p => decide (p ∉ reps) }
        let f1 := { f with landed := f.landed ||| BitVec.twoPow 64 g }
        if a.spoils f v.toNat then
          s0.modHart hart fun x =>
            (x.landRow v.toNat { r with data := freeElems s.tick (accWidth f.desc.tag) (f.desc.elems g) r.data } f1).completeRows f.desc
        else
          match s0.landElems hart v.toNat f reps (f.desc.elems g) r.data with
          | .ok (d, s1) => s1.modHart hart fun x => (x.landRow v.toNat { r with data := d } f1).completeRows f.desc
          | .error t =>
            if leadOnes f.landed < g || a.earlierRow f.desc v.toNat then s
            else s0.modHart hart fun x => x.loadFault f.desc v.toNat g t)

end Sys2Proof.Machine
end

