-- ==== Sys2Proof/Machine/Channel.lean ====
section
/-! DEFINITION. Channels (07 R231 to R234; 09 R251 to R258): slots and strips at the sender, platforms and turns at the reader,
the packets between them, and station pairs (09 R259 to R262). -/

namespace Sys2Proof.Machine

/-! ### Ends -/

/-- The endpoint of a channel end. -/
def State.endEp (s : State) (p : Nat) (e : Option ChanEnd) : Nat :=
  match e with
  | some (.hart h _) => tileOf h
  | some (.mem n) => stEp (s.pairOf p n).home
  | some (.host _) => stEp 20
  | none => stEp 29

/-- The reader's end of platform i, and the writer's. -/
def Chan.readerOf (x : Chan) (i : Nat) : Option ChanEnd := mget none (x.readers.map fun e => (e.1, some e.2)) (match x.mode with | .deal => i | _ => 0)
def Chan.writerOf (x : Chan) (i : Nat) : Option ChanEnd := mget none (x.writers.map fun e => (e.1, some e.2)) (match x.mode with | .merge => i | _ => 0)

/-- The platform a writer's next strip goes to (09 R251, R256). -/
def Chan.target (x : Chan) (idx : Nat) : Nat :=
  match x.mode with
  | .normal => 0
  | .deal => x.strip % max 1 x.f
  | .merge => idx

/-! ### Sending (09 R253, R256) -/

/-- The last token of a strip carries SEND. -/
def markStrip : List Token → List Token
  | [] => []
  | [t] => [{ t with stripEnd := true }]
  | t :: r => t :: markStrip r

/-- Tokens in packets of at most 32 (10 "Packets"). -/
def State.sendTokens (s : State) (src : Nat) (prio : BitVec 2) (p c i : Nat) : Nat → List Token → State
  | 0, _ => s
  | f + 1, ts =>
    if ts.isEmpty then s
    else
      let dst := Dest.ep (s.endEp p ((s.chan p c).readerOf i))
      (s.send src dst prio (some p) (.tokens p c i (ts.take 32))).sendTokens src prio p c i f (ts.drop 32)

/-- A strip on platform i spends its slots and leaves. -/
def State.sendStrip (s : State) (src : Nat) (prio : BitVec 2) (p c i : Nat) (ts : List Token) : State :=
  (s.modChan p c fun x => x.takeSlots i ts.length).sendTokens src prio p c i (ts.length + 1) (markStrip ts)

/-- The writer's strip counter moves on (09 R256). -/
def State.nextStrip (s : State) (p c : Nat) : State :=
  s.modChan p c fun x => if x.mode = .deal then { x with strip := x.strip + 1 } else x

/-- The binding of a port in a direction (01 R18). -/
def Hart.bound (a : Hart) (k : KReg) (out : Bool) : Option PortBinding :=
  match a.rk k with
  | some b => if b.out = out then some b else none
  | none => none

/-- A head for a channel instruction: DOM for a port unbound or bound the other way (07 R231). -/
def State.portHead (s : State) (k : KReg) (out : Bool) : Head :=
  { barred := true, dom := if ((s.hart s.cur).bound k out).isSome then none else some (trapDom 3 k.toNat) }

/-- Send one strip through port k, or wait with STATE 2 (09 R253). -/
def State.strip (s : State) (c : Ctl) (w : BitVec 13) (k : KReg) (b : PortBinding) (ts : List Token) : State :=
  let h := s.cur
  let x := s.chan b.part b.chan
  let i := x.target b.idx
  if x.slotCount i < ts.length then s.wait h .blockedWrite k
  else ((s.sendStrip (tileOf h) c.prio b.part b.chan i ts).nextStrip b.part b.chan).retire h c w

def execSend (c : Ctl) (d : KReg) (a : XI) (s : State) : Out :=
  .next (s.issue c (s.portHead d true) fun w =>
    match (s.hart s.cur).bound d true with
    | some b => s.strip c w d b [dataToken ((s.hart s.cur).xi a)]
    | none => s)

/-- The lowest platform of a DEAL channel whose S(p) is 0 (09 R256). -/
def Chan.shortPlat (x : Chan) : Option Nat := (List.range x.count).find? fun i => decide (x.slotCount i = 0)

def execCend (c : Ctl) (d : KReg) (s : State) : Out :=
  .next (s.issue c (s.portHead d true) fun w =>
    match (s.hart s.cur).bound d true with
    | none => s
    | some b =>
      let x := s.chan b.part b.chan
      let h := s.cur
      if x.mode ≠ .deal then s.strip c w d b [endToken]
      else if x.shortPlat.isSome then s.wait h .blockedWrite d
      else
        (((List.range x.count).foldl (fun s i => s.sendStrip (tileOf h) c.prio b.part b.chan i [endToken]) s).modChan b.part b.chan
          fun x => { x with strip := 0 }).retire h c w)

/-- Width of a channel's bound format, 8 for raw (07 R233). -/
def chanWidth (t : Fmt) : Nat := if t = .raw then 8 else fmtWidth t
/-- Tokens a row takes (07 R233). -/
def rowTokens (vl w : Nat) : Nat := (vl * w + 63) / 64

/-- The bits of the active elements below VL. -/
def activeBits (g : PData) (vl w : Nat) (d : VData) : VData :=
  (foldElems w (fun e => if g.getLsbD e then some (elemAt d w e, 0) else none) (List.range vl) (0, 0)).1

/-- Token t of row data (07 R233). -/
def tokenOf (d : VData) (t : Nat) : Token := dataToken (d.extractLsb' (64 * t) 64)

def execVsend (c : Ctl) (d : KReg) (a : VReg) (s : State) : Out :=
  .next (s.issue c { s.portHead d true with vs := [a], aV := true, elem := true } fun w =>
    match (s.hart s.cur).bound d true with
    | none => s
    | some b =>
      let h := s.cur
      let x := s.reader 64
      match x.fmtCheck 0 (rowChecks a.toNat x.rc 1 fun _ t => decide (tagFmt t = b.fmt) || decide (tagFmt t = .raw)) with
      | some t => s.trapHere h t
      | none =>
        let cw := chanWidth b.fmt
        let vl := x.vlAt cw
        let n := rowTokens vl cw
        let ch := s.chan b.part b.chan
        if ch.slotCount (ch.target b.idx) < x.rc * n then s.wait h .blockedWrite d
        else
          let need := groupsFor vl cw
          let rows := (List.range x.rc).map fun j => a.toNat + j
          let beats := beatsOf x.rc vl (widestOf (x.rowFmts a.toNat))
          let go := s.modHart h fun y => (y.chargeOnce beats).clearResume 64
          if rows.any (fun v => (x.rv v).waits need) then s.stall h beats 0 0
          else
            match x.firstTrap (rows.filter fun v => decide ((x.rv v).pi = 64) || decide ((x.rv v).pi < need)) with
            | some t => go.trapHere h t
            | none =>
              let g := x.guard c
              let ts := rows.flatMap fun v =>
                let d := activeBits g vl cw (x.rv v).data
                (List.range n).map fun t => tokenOf d t
              go.strip c (w ||| wfIf 0 (x.vlClamps cw)) d b ts)

/-! ### Receiving (09 R254, R257) -/

/-- The platforms after a receive. -/
def Chan.consume (x : Chan) (k : Taken) : Chan :=
  k.counts.foldl (fun x e => x.setPlat e.1 { x.plat e.1 with
      head := (x.plat e.1).placeOf e.2, toks := (x.plat e.1).toks.drop e.2 })
    { x with turn := k.turn, ended := k.endedSet }

/-- Consume, and send each platform's sender one slot return (09 R254). -/
def State.consume (s : State) (src : Nat) (prio : BitVec 2) (p c : Nat) (k : Taken) : State :=
  k.counts.foldl (fun s e =>
    if e.2 = 0 then s
    else s.send src (.ep (s.endEp p ((s.chan p c).writerOf e.1))) prio (some p) (.slots p c e.1 e.2))
    (s.modChan p c fun x => x.consume k)

/-- The end flag of RECV and VRECV: all bits of p[B] (07 R232). -/
def Hart.endFlag (a : Hart) (b : Option PReg) (e : Bool) : Hart :=
  match b with
  | none => a
  | some q => a.wp q (if e then BitVec.allOnes 2048 else 0)

/-- The place of a platform's token is not architectural, so the address that POISON reports for one is free (19 R430; log 4). -/
def State.tokenPoison (s : State) : Trap := trapPoisonMem (BitVec.ofNat 64 (Config.freeChoice s.tick 7))

/-- A receive of hart `cur` through port k of `need` tokens: it waits with STATE 1, traps on poison, or consumes and ends with
`fin`. -/
def State.recvWith (s : State) (c : Ctl) (w : BitVec 13) (k : KReg) (b : PortBinding) (need : Nat) (q : Option PReg)
    (fin : List W64 → Hart → Hart) : State :=
  let h := s.cur
  match (s.chan b.part b.chan).receive b.idx need with
  | none => s.wait h .blockedRead k
  | some t =>
    if t.bad then s.trapHere h s.tokenPoison
    else
      ((s.consume (tileOf h) c.prio b.part b.chan t).modHart h fun a => (fin t.data a).endFlag q t.ended).retire h c w

def execRecv (c : Ctl) (d : XReg) (a : KReg) (b : Option PReg) (s : State) : Out :=
  .next (s.issue c { s.portHead a false with ps := b.toList } fun w =>
    match (s.hart s.cur).bound a false with
    | none => s
    | some pb => s.recvWith c w a pb 1 b fun ds x => match ds with | v :: _ => x.wx d v | [] => x)

/-- Row j of a VRECV: the active elements whose bits lie in a consumed token (07 R233). -/
def recvRow (g : PData) (vl w n j : Nat) (ds : List W64) (old : VData) : VData :=
  (foldElems w (fun e =>
    let t := e * w / 64
    match (ds.drop (j * n + t)).head? with
    | some v => if g.getLsbD e then some (v.toNat / 2 ^ (e * w % 64) % 2 ^ w, 0) else none
    | none => none) (List.range vl) (old, 0)).1

def execVrecv (c : Ctl) (d : VReg) (a : KReg) (b : Option PReg) (s : State) : Out :=
  .next (s.issue c { s.portHead a false with vs := [d], ps := b.toList, elem := true } fun w =>
    match (s.hart s.cur).bound a false with
    | none => s
    | some pb =>
      let h := s.cur
      let x := s.hart h
      let cw := chanWidth pb.fmt
      let vl := x.vlAt cw
      let n := rowTokens vl cw
      let g := x.guard c
      if (List.range x.rc).any fun j => s.vBusy h (d.toNat + j) then s.wait h .running 0
      else
        s.recvWith c (w ||| wfIf 0 (x.vlClamps cw)) a pb (x.rc * n) b fun ds y =>
          (List.range x.rc).foldl (fun y j =>
            y.wv (d.toNat + j)
              { data := recvRow g vl cw n j ds (y.rv (d.toNat + j)).data, tag := plainTag pb.fmt, pi := 64, lrec := none
                flight := none }) (y.charge (beatsOf x.rc vl cw)))

/-! ### Global memory as the service station reaches it: under ASID 0 (log 28) -/

/-- The station that a virtual address names (log 5). -/
def svcStation (va : Nat) : Nat := va / 4096 % 16

/-- Write bytes at a virtual address; a range that does not translate is left as it is. -/
def State.svcWrite (s : State) (va : Nat) (bs : List Byte) : State :=
  match s.translateAll (svcStation va) 0 kWrite false va bs.length (bs.length / 65536 + 2) with
  | none => s
  | some (runs, s1) => s1.pokeRuns runs bs

/-- Read n bytes at a virtual address. -/
def State.svcRead (s : State) (va n : Nat) : Option (List Byte) :=
  (s.translateAll (svcStation va) 0 kRead false va n (n / 65536 + 2)).map fun r => r.2.peekRuns r.1

/-- The physical address of the byte at a virtual address. -/
def State.svcPhys (s : State) (va : Nat) : Option Nat :=
  match s.translateAll (svcStation va) 0 kRead false va 8 2 with
  | some ((a, _) :: _, _) => some a
  | _ => none

/-- The window-10 pointer to a virtual address. -/
def globalPtr (va : Nat) : W64 := BitVec.ofNat 64 (2 ^ 63 + va)

/-! ### The bytes of a platform (09 R252, R271) -/

/-- Bytes of a partition's mark table: a block of 128 for each segment, to a multiple of 64 KiB. -/
def Partition.markBytes (a : Partition) : Nat := (a.spillSegs * 128 + 65535) / 65536 * 65536

/-- Where the data of place `pos` of platform i lies, by physical address or in its reader's tile store; a station or the host that reads holds
its tokens itself. -/
def State.placeAt (s : State) (p c i pos : Nat) : Option Nat :=
  let x := s.chan p c
  let q := x.plat i
  let a := s.part p
  if pos < x.depth then
    match x.readerOf i with
    | some (.hart h _) => some (storeBase (tileOf h) + q.base + 8 * pos)
    | _ => none
  else q.segs[(pos - x.depth) / 512]?.bind fun g => s.svcPhys (a.spillBase + 65536 + a.markBytes + 4096 * g + 8 * ((pos - x.depth) % 512))

/-- A token keeps an uncorrectable error of its word where it comes to lie (19 R430). -/
def State.keepPoison (s : State) (t : Token) (at_ : Option Nat) : State :=
  match at_ with
  | some o => if t.bad then { s with poison := unitOf o :: s.poison } else s
  | none => s

/-- Write token t at place `pos` of platform i: in its reader's tile store, where its junction keeps the marks; or in mortar, with its
marks in the mark table. -/
def State.layToken (s : State) (p c i pos : Nat) (t : Token) : State :=
  let x := s.chan p c
  let q := x.plat i
  let a := s.part p
  if pos < x.depth then
    match x.readerOf i with
    | some (.hart h _) =>
      let o := storeBase (tileOf h) + q.base + 8 * pos
      (s.poke o (bytes64 t.data)).keepPoison t (some o)
    | _ => s
  else
    match q.segs[(pos - x.depth) / 512]? with
    | none => s
    | some g =>
      let k := (pos - x.depth) % 512
      let m := a.spillBase + 65536 + 128 * g + k / 4
      let old := ((s.svcRead m 1).getD [0]).headD 0
      let mark := ((if t.isEnd then 1 else 0) + (if t.stripEnd then 2 else 0)) * 4 ^ (k % 4)
      let new := BitVec.ofNat 8 (old.toNat - old.toNat / 4 ^ (k % 4) % 4 * 4 ^ (k % 4) + mark)
      ((s.svcWrite (a.spillBase + 65536 + a.markBytes + 4096 * g + 8 * k) (bytes64 t.data)).svcWrite m [new]).keepPoison t (s.placeAt p c i pos)

/-- Write tokens, the first of which is the k-th that stands on platform i. -/
def State.layTokens (s : State) (p c i : Nat) : Nat → List Token → State
  | _, [] => s
  | k, t :: r => (s.layToken p c i (((s.chan p c).plat i).placeOf k) t).layTokens p c i (k + 1) r

/-! ### Waiting ends are evaluated again (09 R253, R254) -/

/-- What the channel instruction of hart h waits for is there. -/
def State.unblocked (s : State) (h : Nat) (b : PortBinding) : Bool :=
  let x := s.chan b.part b.chan
  let a := s.hart h
  let strip := a.rc * rowTokens (a.vlAt (chanWidth b.fmt)) (chanWidth b.fmt)
  match s.fetchInstr h with
  | .cend _ _ => if x.mode = .deal then x.shortPlat.isNone else decide (1 ≤ x.slotCount (x.target b.idx))
  | .send _ _ _ => decide (1 ≤ x.slotCount (x.target b.idx))
  | .vsend _ _ _ => decide (strip ≤ x.slotCount (x.target b.idx))
  | .recv _ _ _ _ => (x.receive b.idx 1).isSome
  | .vrecv _ _ _ _ => (x.receive b.idx strip).isSome
  | _ => true

/-- A hart that waits at an end of channel c is evaluated again: it runs once what it waits for is there. -/
def State.reawaken (s : State) (p c : Nat) : Option ChanEnd → State
  | some (.hart h _) =>
    let a := s.hart h
    match a.rk a.port with
    | some b =>
      if (a.own = .blockedRead ∨ a.own = .blockedWrite) ∧ b.part = p ∧ b.chan = c ∧ s.unblocked h b then s.setOwn h .running 0 else s
    | none => s
  | _ => s

/-! ### The packets of channels -/

/-- A token packet reaches its platform; packets of one platform are taken in the order of arrival (09 R252). -/
def execTokenArrival (p : Nat) (s : State) : Out :=
  let same := fun (m m' : Msg) => match m, m' with
    | .tokens a b c _, .tokens a' b' c' _ => decide (a = a') && decide (b = b') && decide (c = c')
    | _, _ => false
  .next (match s.take p with
    | some ({ msg := .tokens q c i ts, id := id, prio := prio, .. }, s1) =>
      match s.arrived.find? fun r => same r.msg (.tokens q c i ts) with
      | some r =>
        if r.id ≠ id then s
        else
          let old := ((s1.chan q c).plat i).toks
          let s2 := s1.modChan q c fun x => x.setPlat i { x.plat i with toks := old ++ ts.map fun t => { t with prio := prio } }
          (s2.layTokens q c i old.length ts).reawaken q c ((s2.chan q c).readerOf i)
      | none => s
    | _ => s)

/-- A slot return adds its slots to S(p) (09 R253). -/
def execSlotReturn (p : Nat) (s : State) : Out :=
  .next (match s.take p with
    | some ({ msg := .slots q c i n, .. }, s1) => (s1.modChan q c fun x => x.addSlots i n).reawaken q c ((s1.chan q c).writerOf i)
    | _ => s)

/-- A growth grant adds its slots, and the signal box returns to WATCH (09 R269, R271). -/
def execGrowthGrant (p : Nat) (s : State) : Out :=
  .next (match s.take p with
    | some ({ msg := .grant q c i n, .. }, s1) =>
      ((s1.modChan q c fun x => x.addSlots i n).modPart q fun a => if a.sb = .grow then { a with sb := .watch, sweep := none } else a).reawaken
        q c ((s1.chan q c).writerOf i)
    | _ => s)

/-! ### Station pairs (09 R260 to R262; log 21) -/

/-- The platform that the next reply of pair n goes to. -/
def State.pairTarget (s : State) (p n : Nat) : Nat :=
  let x := s.chan p (s.pairOf p n).rep
  x.target (endAt x.writers (.mem n))

/-- Send the reply that pair n holds, if its slots are there. -/
def State.pairReply (s : State) (p n : Nat) : State :=
  let a := s.pairOf p n
  let i := s.pairTarget p n
  if a.out.isEmpty || (s.chan p a.rep).slotCount i < a.out.length then s
  else
    ((s.sendStrip (stEp a.home) a.prio p a.rep i a.out).nextStrip p a.rep).modPart p fun q =>
      { q with pairs := mput q.pairs n { a with out := [] } }

/-- Perform one request of pair n: its reply, or the part of it that another station is to perform, and the state after (09 R261, R262; 14
R326). Poison that it meets counts as a refusal. -/
def State.pairPerform (s : State) (p n : Nat) (req : W64) (data : List W64) : State × Sum (List Token) (Nat × Msg) :=
  let a := s.pairOf p n
  let op := (req.extractLsb' 60 4).toNat
  let len := (req.extractLsb' 44 16).toNat + 1
  let va := (req.extractLsb' 0 43).toNat
  let bad := decide (op ≠ 1 ∧ op ≠ 2) || req.getLsbD 43 || decide (2 ^ 43 < va + len)
  if bad then (s, .inl [endToken])
  else
    match s.translateAll a.home a.asid (if op = 1 then kRead else kWrite) true va len 3 with
    | none => (s, .inl [endToken])
    | some (runs, s1) =>
      if (s1.poisonRuns (if op = 1 then kRead else kWrite) 0 runs).isSome then (s1, .inl [endToken])
      else
        (s1.chargeAt a.home p (servedBytes (len / 4096 + 20) a.home runs)).pairServe a.home p n (decide (op = 2)) len runs
          ((data.flatMap bytes64).take len) []

/-- The reply of pair n is ready, and is sent if its slots are there. -/
def State.pairOut (s : State) (p n : Nat) (out : List Token) : State :=
  (s.modPart p fun q => { q with pairs := mput q.pairs n { s.pairOf p n with out := out, busy := false } }).pairReply p n

/-- The answer of the station that had the last part of pair n's request. -/
def State.pairAnswer (s : State) (p n : Nat) : Option (Packet × List Token) :=
  s.arrived.findSome? fun q => match q.msg with
    | .pairDone p' n' out => if p' = p ∧ n' = n then some (q, out) else none
    | _ => none

/-- The home station performs the next request of a pair, within its budgets (12 R315, R319), and replies; parts of it that other stations
serve are theirs to perform. -/
def execStationPairRequest (part pair : Nat) (s : State) : Out :=
  let a := s.pairOf part pair
  .next (if s.frozen (some part) then s
    else if !a.out.isEmpty then s.pairReply part pair
    else if a.busy then
      match s.pairAnswer part pair with
      | some (q, out) => { s with arrived := s.arrived.filter fun z => decide (z.id ≠ q.id) }.pairOut part pair out
      | none => s
    else
      match s.nextRequest part pair with
      | none => s
      | some (req, data, k) =>
        if !s.mayServeAt a.home (some part) then s else
        let c := s.requestClass part pair
        let s1 := (s.modPart part fun q => { q with pairs := mput q.pairs pair { a with prio := c } }).consume (stEp a.home) c part a.req k
        if k.bad || k.ended then s1.pairOut part pair [endToken]
        else
          match s1.pairPerform part pair req data with
          | (s2, .inl out) => s2.pairOut part pair out
          | (s2, .inr (st, m)) =>
            (s2.modPart part fun q => { q with pairs := mput q.pairs pair { s2.pairOf part pair with busy := true } }).send (stEp a.home)
              (.ep (stEp st)) c (some part) m)

end Sys2Proof.Machine
end

