-- ==== Sys2Proof/Machine/Control.lean ====
section
/-! DEFINITION. Control transfer, strip length and row count, issue control, TRAP, BRK and TRET (04 R122 to R130). -/

namespace Sys2Proof.Machine

/-- A taken or untaken transfer to a target that is always 4-aligned (04 R123). -/
def State.branchTo (s : State) (c : Ctl) (w : BitVec 13) (taken : Bool) (target : W64) : State :=
  if taken then s.retireTo s.cur c w target else s.retire s.cur c w

/-- A conditional transfer of 04 R122. -/
def State.branchIf (s : State) (c : Ctl) (test : Hart → Bool) (target : Imm) : State :=
  s.issue c {} fun w => s.branchTo c w (test (s.hart s.cur)) (relTo (s.hart s.cur).pc target)

def execBCond (c : Ctl) (k : Cond) (d : XReg) (a : XI) (b : Imm) (s : State) : Out :=
  .next (s.branchIf c (fun h => condHolds k (h.rx d) (h.xi a)) b)

def execBz (c : Ctl) (d : XReg) (a : Imm) (s : State) : Out :=
  .next (s.branchIf c (fun h => decide (h.rx d = 0)) a)

def execBnz (c : Ctl) (d : XReg) (a : Imm) (s : State) : Out :=
  .next (s.branchIf c (fun h => decide (h.rx d ≠ 0)) a)

def execJ (c : Ctl) (d : Imm) (s : State) : Out :=
  .next (s.branchIf c (fun _ => true) d)

/-- A transfer that links: x[D] := PC + 12, then PC := target (04 R123). -/
def State.linkTo (s : State) (c : Ctl) (w : BitVec 13) (d : XReg) (target : W64) : State :=
  (s.modHart s.cur fun a => a.wx d (a.pc + 12)).retireTo s.cur c w target

def execJal (c : Ctl) (d : XReg) (a : Imm) (s : State) : Out :=
  .next (s.issue c {} fun w => s.linkTo c w d (relTo (s.hart s.cur).pc a))

/-- JR alone can reach a misaligned target, and then traps ALIGN without writing the link (04 R123). -/
def execJr (c : Ctl) (d a : XReg) (b : XI) (s : State) : Out :=
  .next (s.issue c {} fun w =>
    let h := s.hart s.cur
    let target := h.rx a + h.xi b
    if target.toNat % 4 ≠ 0 then s.trapHere s.cur (trapAlign target 4) else s.linkTo c w d target)

/-- LOOP's new counter (04 R124). -/
def loopCount (vlForm : Bool) (vl : Nat) (c : W64) : W64 :=
  if vlForm then (if vl < c.toNat then c - BitVec.ofNat 64 vl else 0) else c - 1

def execLoop (c : Ctl) (d : XReg) (a : Imm) (s : State) : Out :=
  .next (s.issue c { mods := 0x20 } fun w =>
    let h := s.hart s.cur
    let n := loopCount c.x5 h.vl.toNat (h.rx d)
    (s.modHart s.cur fun t => t.wx d n).branchTo c w (decide (n ≠ 0)) (relTo h.pc a))

/-- SETVL and SETVLI (04 R126). -/
def setVl (f : Fmt) (d : XReg) (request : Nat) (a : Hart) : Hart :=
  let n := min request (vlMax f)
  { a.wx d (BitVec.ofNat 64 n) with vl := BitVec.ofNat 12 n, efmt := fmtCode f }

def execSetvl (c : Ctl) (d a : XReg) (b : Fmt) (s : State) : Out :=
  .next (s.onHart c {} fun h => setVl b d (h.rx a).toNat h)

def execSetvli (c : Ctl) (d : XReg) (a : BitVec 16) (b : Fmt) (s : State) : Out :=
  .next (s.onHart c {} fun h => setVl b d a.toNat h)

/-- The request of SETRC; an immediate carries its logarithm. -/
def Hart.rcRequest (h : Hart) : XU 2 → Nat
  | .x r => (h.rx r).toNat
  | .i v => 2 ^ v.toNat

/-- RCC for a request (04 R126). -/
def rccOf (n : Nat) : BitVec 2 := if 8 ≤ n then 3 else if 4 ≤ n then 2 else if 2 ≤ n then 1 else 0

def execSetrc (c : Ctl) (d : XReg) (a : XU 2) (s : State) : Out :=
  .next (s.onHart c {} fun h =>
    let r := rccOf (h.rcRequest a)
    { h.wx d (BitVec.ofNat 64 (2 ^ r.toNat)) with rcc := r })

def execNop (c : Ctl) (s : State) : Out := .next (s.onHart c {} id)

/-- YIELD acts as the YLD hint does (04 R128, 03 R90). -/
def execYield (c : Ctl) (s : State) : Out :=
  .next (s.issue c {} fun w => (s.retire s.cur c w).modHart s.cur fun a => { a with yielded := true })

/-- PAUSE: n cycles of the tile's divided clock without issue; STATE stays 0 (04 R128). -/
def execPause (c : Ctl) (d : BitVec 16) (s : State) : Out :=
  .next (s.issue c {} fun w =>
    let till := s.cycle (tileOf s.cur) + d.toNat
    (s.retire s.cur c w).modHart s.cur fun a => { a with pause := if d = 0 then none else some till })

def execTrap (c : Ctl) (d : Imm) (s : State) : Out :=
  .next (s.issue c {} fun _ => s.trapHere s.cur (trapSoft 0x11 d))

def execBrk (c : Ctl) (d : Imm) (s : State) : Out :=
  .next (s.issue c {} fun _ => s.trapHere s.cur (trapSoft 0x10 d))

/-- TRET: DOM with SVC = 0, else the return of 04 R130 and 16 R358; .next is MOD[5]. -/
def execTret (c : Ctl) (s : State) : Out :=
  let a := s.hart s.cur
  .next (s.issue c { mods := 0x20, unguarded := true, dom := if a.svc then none else some (trapDom 6 0) } fun w =>
    s.trapReturn s.cur c w (if c.x5 then a.trappc + 12 else a.trappc))

end Sys2Proof.Machine
end

