-- ==== Sys2Proof/Machine/Copy.lean ====
section
/-! DEFINITION. The copy engine and wait tokens (01 R17, R40; 07 R235 to R238; 12 R317). Of one transfer, one piece moves at a time
(log 22): in its own tile at once, and elsewhere by a request and its reply. -/

namespace Sys2Proof.Machine

/-! ### CPGO, CPSTAT, WAIT -/

def execCpgo (c : Ctl) (d : XReg) (a : WReg) (s : State) : Out :=
  .next (s.issue c { barred := true } fun w =>
    let h := s.cur
    let x := s.hart h
    let t := x.rw a.toNat
    if 16 ≤ (s.tile (tileOf h)).copyq.length || t.count = BitVec.allOnes 16 then s.wait h .waiting 0
    else
      let tr : Xfer := {
        set := x.copy, id := x.nextXfer, w := a, asid := x.asid, hart := h, prio := c.prio, running := false, row := 0, off := 0
        copied := 0, ws := x.windows, wait := none, piece := none, stamp := s.nextStamp }
      let s1 := ({ s with nextStamp := s.nextStamp + 1 }.hartRelease h).modTile (tileOf h) fun y => { y with copyq := y.copyq ++ [tr] }
      (s1.modHart h fun y =>
        { (y.ww a.toNat { t with count := t.count + 1 }).wx d (x.nextXfer.setWidth 64) with nextXfer := x.nextXfer + 1 }).retire
          h c w)

/-- The transfer of hart h that carries an id. -/
def Tile.transfer (t : Tile) (h : Nat) (id : BitVec 16) : Option Xfer :=
  t.copyq.find? fun x => decide (x.hart = h) && decide (x.id = id)

/-- CPSTAT's word (07 R238). -/
def cpstatWord (x : Option Xfer) : W64 :=
  match x with
  | none => 0
  | some x => if x.running then BitVec.ofNat 64 (2 + x.copied * 2 ^ 32) else 1

def execCpstat (c : Ctl) (d : XReg) (a : XU 16) (s : State) : Out :=
  .next (s.issue c { nd := true } fun w =>
    let h := s.cur
    (s.modHart h fun x => x.wx d (cpstatWord ((s.tile (tileOf h)).transfer h (x.xu a)))).retire h c w)

/-- The wait tokens of a mask. -/
def maskTokens (m : BitVec 8) : List Nat := (List.range 8).filter fun n => m.getLsbD n

/-- The trap of a failure record (07 R237; 16 R360). -/
def CopyFail.trap (f : CopyFail) : Trap := Trap.mk' f.cause f.addr (BitVec.ofNat 64 (f.id.toNat + 65536))

def execWait (c : Ctl) (d : XU 8) (s : State) : Out :=
  .next (s.issue c { barred := true } fun w =>
    let h := s.cur
    let x := s.hart h
    let ns := maskTokens (x.xu d)
    if ns.any fun n => decide ((x.rw n).count ≠ 0) then s.wait h .waiting 0
    else
      match ns.find? fun n => (x.rw n).fail.isSome with
      | some n =>
        match (x.rw n).fail with
        | some f => (s.modHart h fun y => y.ww n { y.rw n with fail := none }).trapHere h f.trap
        | none => s
      | none => (s.hartAcquire h).retire h c w)

/-! ### Transfers (07 R236, R237) -/

def CopySet.rowBytes (c : CopySet) : Nat := (c.len.extractLsb' 0 32).toNat
def CopySet.rows (c : CopySet) : Nat := if c.shape.extractLsb' 0 16 = 0 then 1 else (c.shape.extractLsb' 0 16).toNat
def CopySet.srcRow (c : CopySet) (r : Nat) : W64 := c.src + BitVec.ofNat 64 r * (c.stride.extractLsb' 0 32).signExtend 64
def CopySet.dstRow (c : CopySet) (r : Nat) : W64 := c.dst + BitVec.ofNat 64 r * (c.stride.extractLsb' 32 32).signExtend 64
def CopySet.bar? (c : CopySet) : Bool := c.shape.getLsbD 16

/-- Every byte has been moved. -/
def Xfer.finished (x : Xfer) : Bool := decide (x.set.rowBytes = 0) || decide (x.set.rows ≤ x.row)

/-- The endpoint of a copy's access at p. -/
def copyEp (t : Nat) (p : W64) : Nat :=
  match winOf p with
  | 0 => t
  | 1 => tileIdOf p
  | _ => stEp (vaOf p / 4096 % 16)

/-- The store-guard windows that tile t checks a copy of its own under: its 32, the launching hart's as they stood at CPGO (18 R387,
R391). -/
def State.copyWindows (s : State) (t : Nat) (x : Xfer) : List W64 :=
  (hartsOf t).flatMap fun h => if h = x.hart then x.ws else (s.hart h).windows

/-- Who asks for a copy's access at p: agent 4 at the tile itself, the yard of another (14 R343). -/
def State.copyAsker (s : State) (t : Nat) (x : Xfer) (p : W64) (late : Nat) : Asker :=
  let ep := copyEp t p
  if ep = t then { s.asker ep x.hart x.asid p late with agent := 4, ws := s.copyWindows t x } else s.asker ep x.hart x.asid p late

/-- The byte of key k is a source byte of the transfer. -/
def Xfer.sources (x : Xfer) (k : Nat) : Bool :=
  (List.range x.set.rows).any fun r =>
    let b := byteKey x.hart (x.set.srcRow r)
    decide (b ≤ k) && decide (k < b + x.set.rowBytes)

/-- What the piece writes: the bytes read, and free values where source and destination overlap (07 R236; log 4). -/
def Xfer.mixed (x : Xfer) (tick : Nat) (p : W64) (bs : List Byte) : List Byte :=
  bs.mapIdx fun i b => if x.sources (byteKey x.hart (p + BitVec.ofNat 64 i)) then Config.freeByte tick i else b

/-- The transfer stops: its token takes the record, unless it keeps that of a transfer issued earlier (07 R237). -/
def Hart.copyFailed (a : Hart) (x : Xfer) (t : Trap) : Hart :=
  let k := a.rw x.w.toNat
  let f : CopyFail := { cause := t.cause, addr := t.addr, id := x.id, stamp := x.stamp }
  let keep := k.fail.any fun g => decide (g.stamp ≤ x.stamp)
  a.ww x.w.toNat { count := k.count - 1, fail := if keep then k.fail else some f }

/-- The bytes of the failing row are unpredictable: free values wherever a write is admitted (log 4). -/
def State.spoilRow (s : State) (t : Nat) (x : Xfer) : List Nat → State
  | [] => s
  | i :: r =>
    let p := x.set.dstRow x.row + BitVec.ofNat 64 (64 * i)
    let n := min 64 (x.set.rowBytes - 64 * i)
    let s1 :=
      if (s.ptrTrap [0, 1, 2] p n 1).isSome then s
      else
        match s.ownerWrite (s.copyAsker t x p 5) p ((List.range n).map fun j => Config.freeByte s.tick (64 * i + j)) (fullMask n)
            kWrite with
        | .ok s1 => s1
        | .error _ => s
    s1.spoilRow t x r

/-- Remove a transfer from its queue. -/
def State.dropXfer (s : State) (t : Nat) (x : Xfer) : State :=
  s.modTile t fun y => { y with copyq := y.copyq.filter fun z => !(decide (z.hart = x.hart) && decide (z.id = x.id)) }

def State.failXfer (s : State) (t : Nat) (x : Xfer) (tr : Trap) : State :=
  ((s.spoilRow t x (List.range ((x.set.rowBytes + 63) / 64))).dropXfer t x).modHart x.hart fun a => a.copyFailed x tr

/-! Pieces end where an aligned 64-byte unit of the destination does, so that an aligned 8-byte unit of it is written at one instant, and a
piece reads the aligned 8-byte unit of the source that its end lies in whole, keeping what it does not write (07 R206). -/

def Xfer.src (x : Xfer) : W64 := x.set.srcRow x.row + BitVec.ofNat 64 x.off
def Xfer.dst (x : Xfer) : W64 := x.set.dstRow x.row + BitVec.ofNat 64 x.off
/-- Bytes of the row that are still to be written. -/
def Xfer.left (x : Xfer) : Nat := x.set.rowBytes - x.off
/-- How many bytes from `src` on are read for the next n. -/
def Xfer.upTo (x : Xfer) (n : Nat) : Nat := min ((x.src.toNat + n + 7) / 8 * 8 - x.src.toNat) x.left
/-- Bytes of the next piece; it reads no more than 64. -/
def Xfer.span (x : Xfer) : Nat :=
  let n := min (64 - x.dst.toNat % 64) x.left
  if 64 < x.upTo n - x.ahead.length then n - 8 else n
/-- The transfer with the bytes that its piece has read. -/
def Xfer.gather (x : Xfer) (bs : List Byte) : Xfer :=
  { x with piece := some ((x.ahead ++ bs).take x.span), ahead := (x.ahead ++ bs).drop x.span, wait := none }

/-- The transfer after a piece of n bytes. -/
def Xfer.after (x : Xfer) (n : Nat) : Xfer :=
  if x.off + n < x.set.rowBytes then { x with off := x.off + n, copied := x.copied + n }
  else { x with row := x.row + 1, off := 0, copied := x.copied + n }

def Tile.putXfer (t : Tile) (x : Xfer) : Tile :=
  { t with copyq := t.copyq.map fun z => if z.hart = x.hart && z.id = x.id then x else z }

/-- Send a request of transfer x, which waits for its answer. -/
def State.copyAsk (s : State) (t : Nat) (x : Xfer) (p : W64) (m : Nat → Msg) : State :=
  let s1 := { s with nextReq := s.nextReq + 1 }.modTile t fun y => y.putXfer { x with wait := some s.nextReq }
  s1.send t (accessDest x.hart p) x.prio (s.hart x.hart).part (m s.nextReq)

/-- The piece that transfer x has read is written: at once in its own tile, or by a request. -/
def State.writePiece (s : State) (t : Nat) (x : Xfer) (bs : List Byte) : State :=
  let q := x.dst
  let n := bs.length
  match s.ptrTrap [0, 1, 2] q n 1 with
  | some tr => s.failXfer t x tr
  | none =>
    let out := x.mixed s.tick q bs
    if copyEp t q = t then
      match s.ownerWrite (s.copyAsker t x q 5) q out (fullMask n) kWrite with
      | .error e => s.failXfer t x (e.trap q true)
      | .ok s1 => s1.modTile t fun y => y.putXfer { x.after n with piece := none, wait := none }
    else s.copyAsk t { x with piece := some bs } q fun id => .piece x.hart id q out x.asid

/-- Move one piece of transfer x: it is read, at once in its own tile or by a request, and then written. -/
def State.movePiece (s : State) (t : Nat) (x : Xfer) : State :=
  match x.piece with
  | some bs => s.writePiece t x bs
  | none =>
    let k := x.ahead.length
    let n := x.upTo x.span - k
    let p := x.src + BitVec.ofNat 64 k
    if n = 0 then s.writePiece t (x.gather []) (x.ahead.take x.span)
    else
    match s.ptrTrap [0, 1, 2] p n 1 with
    | some tr => s.failXfer t x tr
    | none =>
      if copyEp t p = t then
        match s.ownerRead (s.copyAsker t x p 5) p n kRead with
        | .error e => s.failXfer t x (e.trap p false)
        | .ok (bs, s1) => s1.writePiece t (x.gather bs) ((x.ahead ++ bs).take x.span)
      else s.copyAsk t x p fun id => .read x.hart id p n x.asid false

/-! ### The steps of the engine (12 R315, R317) -/

def execCopyTransferStart (tile : Nat) (s : State) : Out :=
  let q := (s.tile tile).copyq
  .next (if 4 ≤ (q.filter fun x => x.running).length then s
    else
      match q.find? fun x => !x.running with
      | some x => s.modTile tile fun y => y.putXfer { x with running := true }
      | none => s)

/-- The oldest running transfer of a hart that has bytes to move and no piece on its way. -/
def Tile.copyOf (t : Tile) (l : Nat) : Option Xfer :=
  t.copyq.find? fun x => x.running && !x.finished && x.wait.isNone && decide (x.hart % 4 = l)

/-- Hart l is within its copy budget, of 512-byte units. -/
def Tile.copyWithin (t : Tile) (l : Nat) : Bool := decide (mget 0 t.cpSpent l < t.cpbOf l * 8)

/-- The hart whose transfer moves next: round-robin after the last served, within budget if any is. `on l` says that hart l is
not stopped at a switch. -/
def Tile.copyChoice (t : Tile) (on : Nat → Bool) : Option Nat :=
  let order := (List.range 4).map fun i => (t.copyLast + 1 + i) % 4
  let ready := order.filter fun l => (t.copyOf l).isSome && on l
  match ready.find? t.copyWithin with
  | some l => some l
  | none => ready.head?

def execCopyPiece (tile : Nat) (s : State) : Out :=
  let t := s.tile tile
  .next (match t.copyChoice fun l => !(s.hart (4 * tile + l)).stopped with
    | none => s
    | some l =>
      match t.copyOf l with
      | none => s
      | some x =>
        (s.modTile tile fun y => { y with
          copyLast := l
          cpSpent := if x.piece.isSome then y.cpSpent else mput y.cpSpent l (mget 0 y.cpSpent l + 1) }).movePiece tile x)

/-- A transfer is done: its token counts it off. -/
def State.doneXfer (s : State) (t : Nat) (x : Xfer) : State :=
  (s.dropXfer t x).modHart x.hart fun a => a.ww x.w.toNat { a.rw x.w.toNat with count := (a.rw x.w.toNat).count - 1 }

/-- A transfer whose barrier arrival is refused: its token takes the record; its rows stand (07 R237). -/
def State.barFailed (s : State) (t : Nat) (x : Xfer) (tr : Trap) : State :=
  (s.dropXfer t x).modHart x.hart fun a => a.copyFailed x tr

/-- The arrival of a completed transfer at its barrier, as a BARA at scope .sys (07 R236): at once in its own tile, or by a request. -/
def State.copyArrive (s : State) (t : Nat) (x : Xfer) : State :=
  let p := x.set.bar
  let n := x.set.rowBytes * x.set.rows
  match s.ptrTrap [0, 1, 2, 3] p 32 32 with
  | some tr => s.barFailed t x tr
  | none =>
    if winOf p ≠ 3 ∧ copyEp t p = t then
      match s.ownerModify (s.copyAsker t x p 7) p 32 { kWrite with rd := true, sync := true, atomic := true, afterRel := true }
          (fun old => ([], some (barrierArrive n old))) with
      | .error e => s.barFailed t x (e.trap p true)
      | .ok (_, s1) => s1.doneXfer t x
    else s.copyAsk t x p fun id => .arrive x.hart id p n x.asid

/-- The oldest finished transfer completes: a release by agent 4, its arrival, then its token (07 R236; 14 R346). -/
def execCopyTransferComplete (tile : Nat) (s : State) : Out :=
  .next (match (s.tile tile).copyq.find? fun x => x.running && x.finished && x.wait.isNone && !(s.hart x.hart).stopped with
    | none => s
    | some x =>
      let s1 := s.modTile tile fun t => t.release 4
      if x.set.bar? then s1.copyArrive tile x else s1.doneXfer tile x)

/-- The answer to transfer x's request, from endpoint src (07 R236, R237). A FATAL answer is the hart's fatal context error as well (07
R205; 18 R399). -/
def State.copyAnswer (s : State) (t : Nat) (x : Xfer) (src : Nat) (r : Resp) : State :=
  let wr := x.finished || x.piece.isSome
  let s := match r with | .fatal a => s.fatalFor x.hart src x.asid a wr | _ => s
  let tr : Option Trap := match r with
    | .data _ => none
    | .trap c a i => some (Trap.mk' c a i)
    | .fatal a => some (trapPage a wr)
  match tr with
  | some tr => if x.finished then s.barFailed t x tr else s.failXfer t x tr
  | none =>
    if x.finished then s.doneXfer t x
    else match x.piece, r with
      | some bs, _ => s.modTile t fun y => y.putXfer { x.after bs.length with piece := none, wait := none }
      | none, .data bs => s.modTile t fun y => y.putXfer (x.gather bs)
      | none, _ => s

/-- The transfer of hart h that waits for answer id. -/
def State.copyWaiting (s : State) (h id : Nat) : Option Xfer :=
  (s.tile (tileOf h)).copyq.find? fun x => decide (x.hart = h) && decide (x.wait = some id)

/-- A reply to a load or a copy engine's request reaches its tile; one that nothing waits for any longer is dropped. -/
def execLoadReply (p : Nat) (s : State) : Out :=
  .next (match s.take p with
    | some (q@{ msg := .readRep h id r, .. }, s1) =>
      match s.copyWaiting h id with
      | some x => s1.copyAnswer (tileOf h) x q.src r
      | none => s1.reply q h id r
    | some (q@{ msg := .pieceRep h id r, .. }, s1) =>
      match s.copyWaiting h id with
      | some x => s1.copyAnswer (tileOf h) x q.src r
      | none => s1
    | some ({ msg := .elemsRep h id v _ _, .. }, s1) =>
      if ((s.hart h).rv v).flight.any (fun f => decide (f.id = id)) then s else s1
    | _ => s)

end Sys2Proof.Machine
end

