-- ==== Sys2Proof/Machine/Fabric.lean ====
section
/-! DEFINITION. One grant of a junction's output port (10 R279, R282, R283, R285, R286, R289; 12 R318): candidates, credits, classes,
ages, multicast branches, and ejection. -/

namespace Sys2Proof.Machine

def Flit.isHead (f : Flit) : Bool := decide (f.idx = 0)
def Flit.isTail (f : Flit) : Bool := decide (f.idx + 1 = f.n)

/-- The junction that an output port leads to; none off the mesh and for ports T and X (10 R276). -/
def neighbour (t port : Nat) : Option Nat :=
  match port with
  | 0 => if 32 ≤ t then some (t - 32) else none
  | 1 => if t % 32 < 31 then some (t + 1) else none
  | 2 => if t < 992 then some (t + 32) else none
  | 3 => if 0 < t % 32 then some (t - 1) else none
  | _ => none

/-- The output port of a unicast packet at junction t, by its bank. -/
def State.portOf (s : State) (t : Nat) (p : Packet) : Nat := s.junctionRoute t p.bank (s.packetEp p)

/-- A port that leads out of the mesh leads to the packet's own endpoint: T to the tile, X to the station at the junction (10 R276). -/
def State.rightExit (s : State) (t port : Nat) (p : Packet) : Bool :=
  if port = 4 then decide (s.packetEp p = t)
  else if port = 5 then decide ((stationAt t).map stEp = some (s.packetEp p))
  else true

/-- A packet that leaves the mesh here: 64 hops made or a reserved routing value (10 R286, R289). The manual does not say what becomes of
one whose valid entry names port T or X away from its own endpoint: DESIGN CHOICE (log 25), it leaves the mesh here too. -/
def State.lost (s : State) (t : Nat) (p : Packet) : Bool :=
  decide (64 ≤ p.hops) || (match p.dst with
    | .rect _ _ _ _ => false
    | .node n => decide (8 ≤ s.exitPort p n) || decide (6 ≤ s.portOf t p) || !s.rightExit t (s.portOf t p) p
    | .ep _ => decide (6 ≤ s.portOf t p) || !s.rightExit t (s.portOf t p) p)

/-- The branches of a multicast at junction t, entered through port `inp`: along X on the source row, then along Y in each column
(10 R285). -/
def mcastPorts (t inp x0 x1 y0 y1 : Nat) : List Nat :=
  let x := t % 32
  let y := t / 32
  let row := decide (inp ≠ 0) && decide (inp ≠ 2)
  let col := decide (x0 ≤ x) && decide (x ≤ x1)
  (if col && decide (y0 < y) && decide (inp ≠ 0) then [0] else [])
    ++ (if row && decide (x < x1) && decide (inp ≠ 1) then [1] else [])
    ++ (if col && decide (y < y1) && decide (inp ≠ 2) then [2] else [])
    ++ (if row && decide (x0 < x) && decide (inp ≠ 3) then [3] else [])
    ++ (if col && decide (y0 ≤ y) && decide (y ≤ y1) then [4] else [])

/-- The outputs that the packet at an input needs. One that leaves the mesh here takes the output on the service station's route, or port T
where that entry is reserved. -/
def State.branches (s : State) (t idx : Nat) (p : Packet) : List Nat :=
  if s.lost t p then [if s.junctionRoute t p.bank (stEp 29) < 6 then s.junctionRoute t p.bank (stEp 29) else 4]
  else match p.dst with
    | .rect x0 x1 y0 y1 => mcastPorts t (idx / 6) x0 x1 y0 y1
    | _ => [s.portOf t p]

/-- Output `port` can take a flit on a VC: the next hop has a free place of its 8 (10 R279). -/
def State.hasCredit (s : State) (t port vc : Nat) : Bool :=
  match neighbour t port with
  | some j => decide (((s.tile j).jn.buf (6 * ((port + 2) % 4) + vc)).length < 8)
  | none => decide (port = 4) || (decide (port = 5) && (stationAt t).isSome)

/-- The packet that holds an output VC, if one has begun on it. -/
def Junction.holder (j : Junction) (port vc : Nat) : Option Nat := (mget none j.hold (6 * port + vc)).map fun x => x.1

/-- Port T injects a class within its budget, or one that is spent when none within its budget is ready (12 R315, R318). -/
def Tile.mayInject (x : Tile) (idx : Nat) : Bool :=
  let within := fun vc => decide (mget 0 x.injSpent vc < x.jinjOf vc)
  if idx / 6 ≠ 4 then true
  else if idx % 6 = 0 || idx % 6 = 1 || idx % 6 = 3 then
    within (idx % 6) || !([0, 1, 3].any fun vc => within vc && !(x.jn.buf (24 + vc)).isEmpty)
  else true

/-- The flit at the head of input idx, if it is a candidate for an output (10 "Arbitration"). -/
def State.candidate (s : State) (t port idx : Nat) : Option Flit :=
  let x := s.tile t
  match x.jn.buf idx with
  | [] => none
  | f :: _ =>
    let bs := s.branches t idx f.pkt
    let many := match f.pkt.dst with | .rect _ _ _ _ => true | _ => false
    if bs.contains port && x.mayInject idx
        && bs.all (fun b =>
          (match x.jn.holder b (idx % 6) with | none => f.isHead && !many | some i => decide (i = idx))
            && (s.lost t f.pkt || s.hasCredit t b (idx % 6)))
    then some f else none

/-- The head of a multicast that has come to the front of its input takes VC4 of every branch together, or of none (10 R285). It does so
before any flit of its junction moves. -/
def State.allocate (s : State) (t : Nat) : State :=
  (List.range 6).foldl (fun s port =>
    let idx := 6 * port + 4
    let j := (s.tile t).jn
    match j.buf idx with
    | [] => s
    | f :: _ =>
      let bs := s.branches t idx f.pkt
      if f.isHead && (match f.pkt.dst with | .rect _ _ _ _ => true | _ => false) && bs.all (fun b => (j.holder b 4).isNone) then
        s.modTile t fun x => { x with jn := { x.jn with hold := bs.foldl (fun m b => mput m (6 * b + 4) (some (idx, f.pkt.id))) x.jn.hold } }
      else s) s

/-! ### Who wins (10 R283) -/

def Junction.credit (j : Junction) (port k : Nat) : Nat := mget 0 j.cred (4 * port + k)
def Junction.ptrAt (j : Junction) (port k : Nat) : Nat := mget 0 j.ptr (5 * port + k)
def Junction.ageOf (j : Junction) (port idx : Nat) : Nat := mget 0 j.age (36 * port + idx)
def Junction.promoted (j : Junction) (port idx : Nat) : Bool := mget false j.top (36 * port + idx)

/-- The first index after p, cyclically, of an ascending list. -/
def firstAfter (l : List Nat) (p : Nat) : Option Nat :=
  match l.find? fun i => decide (p < i) with
  | some i => some i
  | none => l.head?

/-- The highest class among candidates. -/
def topClass (cs : List (Nat × Flit)) : Nat := cs.foldl (fun m c => max m c.2.pkt.prio.toNat) 0

/-- The winner among candidates, and the junction with its credits and pointers after. -/
def Tile.arbitrate (x : Tile) (port : Nat) (cs : List (Nat × Flit)) : Option (Nat × Junction) :=
  let j := x.jn
  let top := (cs.filter fun c => j.promoted port c.1).map fun c => c.1
  match firstAfter top (j.ptrAt port 4) with
  | some w => some (w, { j with ptr := mput j.ptr (5 * port + 4) w })
  | none =>
    let j1 := if cs.any fun c => decide (0 < j.credit port c.2.pkt.prio.toNat) then j
      else { j with cred := (List.range 4).foldl (fun m k => mput m (4 * port + k) (x.weightOf k)) j.cred }
    let paid := cs.filter fun c => decide (0 < j1.credit port c.2.pkt.prio.toNat)
    let k := topClass (if paid.isEmpty then cs else paid)
    match firstAfter ((cs.filter fun c => decide (c.2.pkt.prio.toNat = k)).map fun c => c.1) (j1.ptrAt port k) with
    | none => none
    | some w =>
      some (w, { j1 with
        ptr := mput j1.ptr (5 * port + k) w
        cred := if 0 < j1.credit port k then mput j1.cred (4 * port + k) (j1.credit port k - 1) else j1.cred })

/-- The next packet at an input starts with AGE = 0 and its class's level at every output (10 R283). -/
def Junction.freshAge (j : Junction) (idx : Nat) : Junction :=
  (List.range 6).foldl (fun j port => { j with age := mput j.age (36 * port + idx) 0, top := mput j.top (36 * port + idx) false }) j

/-- Ages and levels after a grant: every other candidate loses once; a tail ends its packet's age and level. -/
def Tile.ageAll (x : Tile) (port w : Nat) (tail : Bool) (cs : List (Nat × Flit)) : Tile :=
  let lose := fun (j : Junction) (c : Nat × Flit) =>
    if c.1 = w then j
    else
      let a := min (j.ageOf port c.1 + 1) x.agemax
      { j with age := mput j.age (36 * port + c.1) a
               top := if a = x.agemax then mput j.top (36 * port + c.1) true else j.top }
  let j := cs.foldl lose x.jn
  { x with jn := if tail then j.freshAge w else j }

/-! ### Moving the flit -/

/-- A packet has left the mesh: it is no longer in flight under its bank (10 R288). -/
def State.outOfFlight (s : State) (p : Packet) : State := s.addFlight p.bank (-1)

/-- The service station logs a packet that left the mesh under 10 R289. -/
def State.logLost (s : State) (p : Packet) : State := { s.outOfFlight p with hopLost := p :: s.hopLost }

/-- The tail of a packet is ejected at port T or X: it stands at its endpoint; a multicast loads its tile's store; a packet for
another module waits in its link station, still in flight (10 R288, R298). -/
def State.eject (s : State) (t : Nat) (p : Packet) : State :=
  match p.dst, p.msg with
  | .rect _ _ _ _, .load off bs => (s.poke (storeBase t + off) bs).outOfFlight p
  | .rect _ _ _ _, _ => s.outOfFlight p
  | .node n, _ => s.modLink (s.exitPort p n) fun l => { l with outq := l.outq ++ [p] }
  | .ep _, _ => if p.vc = 5 then s.logLost p else { s.outOfFlight p with arrived := s.arrived ++ [p] }

/-- A packet that leaves the mesh at junction t under 10 R289 goes on VC5 to the service station; one that does so on that way too is logged
where it is. -/
def State.stray (s : State) (t : Nat) (p : Packet) : State :=
  if p.vc = 5 then s.logLost p else s.queueAt t 4 5 (flitsOf { p with vc := 5, hops := 0, dst := .ep (stEp 29) })

/-- Send flit f out of one branch. -/
def State.forward (s : State) (t vc : Nat) (f : Flit) (port : Nat) : State :=
  match neighbour t port with
  | some j => s.enqueue j ((port + 2) % 4) vc [{ f with pkt := { f.pkt with hops := f.pkt.hops + 1 } }]
  | none => if f.isTail then s.eject t f.pkt else s

/-- The winner's flit leaves its input, on every branch at once; its packet holds each branch's VC until its tail passes. -/
def State.sendFlit (s : State) (t idx : Nat) (f : Flit) : State :=
  let vc := idx % 6
  let bs := s.branches t idx f.pkt
  let gone := s.lost t f.pkt
  let s1 := s.modTile t fun x =>
    { x with
      jn := { x.jn with
        bufs := mput x.jn.bufs idx (x.jn.buf idx).tail
        hold := bs.foldl (fun m b => mput m (6 * b + vc) (if f.isTail then none else some (idx, f.pkt.id))) x.jn.hold }.refill idx
      injSpent := if idx / 6 = 4 then mput x.injSpent vc (mget 0 x.injSpent vc + 1) else x.injSpent }
  if gone then (if f.isTail then s1.stray t f.pkt else s1) else bs.foldl (fun s b => s.forward t vc f b) s1

/-- One cycle of an output port (10 R283). -/
def execOutputPortGrant (tile : Nat) (port : Nat) (s : State) : Out :=
  let s := s.allocate tile
  let cs := (List.range 36).filterMap fun i => (s.candidate tile port i).map fun f => (i, f)
  .next (match (s.tile tile).arbitrate port cs with
    | none => s
    | some (w, j) =>
      match (cs.find? fun c => decide (c.1 = w)).map fun c => c.2 with
      | none => s
      | some f =>
        let s1 := s.modTile tile fun x => Tile.ageAll { x with jn := j } port w f.isTail cs
        s1.sendFlit tile w f)

end Sys2Proof.Machine
end

