-- ==== Sys2Proof/Machine/System.lean ====
section
/-! DEFINITION. Control registers (01 R29 to R44) and CRD, CWR, CSET, CCLR (04 R131 to R133); ISYNC, HALT, STEP and TIMEWAIT
(04 R134 to R137). -/

namespace Sys2Proof.Machine

/-! ### The control registers (01 R29) -/

/-- Registers a program may write only in service. -/
def cregS (r : Nat) : Bool :=
  decide (r ≤ 6) || decide (r = 0x20) || decide (r = 0x21) || (decide (0x28 ≤ r) && decide (r ≤ 0x2F))
    || decide (r = 0x48) || decide (r = 0x49) || decide (r = 0x70) || decide (r = 0x78)

/-- Registers whose value depends on timing. -/
def cregTimed (r : Nat) : Bool :=
  decide (r = 0x40) || decide (r = 0x41) || decide (r = 0x49) || decide (r = 0x50) || decide (r = 0x51)

/-- The copy shadow set (01 R40), which 04 R140 bars in a gate call. -/
def cregCopy (r : Nat) : Bool := decide (0x60 ≤ r) && decide (r ≤ 0x65)

/-- VCFG (01 R35). -/
def Hart.vcfg (a : Hart) : W64 := BitVec.ofNat 64 (a.efmt.toNat * 2 ^ 16 + a.rcc.toNat * 2 ^ 12 + a.vl.toNat)
/-- GTBASE (01 R37). -/
def Hart.gtbaseReg (a : Hart) : W64 := BitVec.ofNat 64 (a.gtnent.toNat * 2 ^ 21 + a.gtbase.toNat)
/-- HBUDGET (01 R39). -/
def Hart.hbudget (a : Hart) : W64 := BitVec.ofNat 64 (a.spent * 2 ^ 16 + a.budget)
/-- KEYLIMIT (01 R41). -/
def State.keyLimitReg (s : State) : W64 :=
  BitVec.ofNat 64 ((if s.keyLock then 2 ^ 63 else 0) + (if s.keyTest then 2 ^ 62 else 0) + s.keyLimit.toNat)
/-- STEPCNT (01 R42). -/
def Partition.stepcnt (p : Partition) : W64 := p.thresh ++ p.count

/-- BLKRD or BLKWR with the cycles of the state it is in (01 R44). -/
def State.blkNow (s : State) (h st : Nat) (v : W64) : W64 :=
  if (s.hart h).state = st then v + BitVec.ofNat 64 (s.cycle (tileOf h) - (s.hart h).blkSince) else v

/-- The value of control register r for hart h; a reserved number reads zero (01 R29). -/
def State.readCreg (s : State) (h r : Nat) : W64 :=
  let a := s.hart h
  match r with
  | 0x00 => a.hstat
  | 0x01 => a.trappc
  | 0x02 => a.trapcause
  | 0x03 => a.trapaddr
  | 0x04 => a.trapinfo
  | 0x05 => a.trapvec.setWidth 64
  | 0x06 => a.xbnd.setWidth 64
  | 0x10 => a.fflags.setWidth 64
  | 0x11 => a.fctl.setWidth 64
  | 0x12 => a.wflag.setWidth 64
  | 0x18 => a.vcfg
  | 0x19 => a.tm.setWidth 64
  | 0x1A => a.tn.setWidth 64
  | 0x1B => a.tk.setWidth 64
  | 0x20 => a.asid.setWidth 64
  | 0x21 => a.gtbaseReg
  | 0x22 => a.gdepth.setWidth 64
  | 0x30 => BitVec.ofNat 64 a.jnlHead
  | 0x31 => BitVec.ofNat 64 (a.jnlCount h)
  | 0x40 => BitVec.ofNat 64 (s.cycle (tileOf h))
  | 0x41 => s.time
  | 0x48 => (s.part a.partKey).ttnext
  | 0x49 => a.hbudget
  | 0x50 => s.blkNow h 1 a.blkrd
  | 0x51 => s.blkNow h 2 a.blkwr
  | 0x60 => a.copy.src
  | 0x61 => a.copy.dst
  | 0x62 => a.copy.len
  | 0x63 => a.copy.stride
  | 0x64 => a.copy.shape
  | 0x65 => a.copy.bar
  | 0x70 => s.keyLimitReg
  | 0x78 => (s.part a.partKey).stepcnt
  | r => if 0x28 ≤ r && r ≤ 0x2F then a.guardReg (r - 0x28) else 0

/-- A write of KEYLIMIT (01 R41). -/
def State.writeKeyLimit (s : State) (v : W64) : State :=
  let lim := v.extractLsb' 0 48
  let test := v.getLsbD 62
  if s.keyLock then s
  else if (if test then decide (lim.toNat < 2 ^ 16 + 8) else decide (lim.toNat < 2 ^ 17)) then s
  else { s with keyLimit := lim, keyTest := test, keyLock := v.getLsbD 63 }

/-- Store v in control register r of hart h: RO bits, reserved bits and read-only registers keep their values (04 R132). The
W1C rule of WFLAG stands in the instructions. TRAPVEC and XBND take bits [1:0] as written (log 40). -/
def State.writeCreg (s : State) (h r : Nat) (v : W64) : State :=
  let a := s.hart h
  match r with
  | 0x00 => s.setHart h { a with svc := v.getLsbD 0, kahn := v.getLsbD 1 }
  | 0x01 => s.setHart h { a with trappc := v }
  | 0x02 => s.setHart h { a with trapcause := v &&& 0x3FF }
  | 0x03 => s.setHart h { a with trapaddr := v }
  | 0x04 => s.setHart h { a with trapinfo := v }
  | 0x05 => s.setHart h { a with trapvec := v.setWidth 21 }
  | 0x06 => s.setHart h { a with xbnd := v.setWidth 21 }
  | 0x10 => s.setHart h { a with fflags := v.setWidth 5 }
  | 0x11 => s.setHart h { a with fctl := v.setWidth 2 }
  | 0x20 => s.setHart h { a with asid := v.setWidth 16 }
  | 0x21 => s.setHart h { a with gtbase := v.setWidth 21 &&& 0x1FFFC0, gtnent := v.extractLsb' 21 8 }
  | 0x48 => s.modPart a.partKey fun p => { p with ttnext := v }
  | 0x49 => s.setHart h { a with budget := min 1024 (v.setWidth 11).toNat }
  | 0x60 => s.setHart h { a with copy := { a.copy with src := v } }
  | 0x61 => s.setHart h { a with copy := { a.copy with dst := v } }
  | 0x62 => s.setHart h { a with copy := { a.copy with len := v &&& 0xFFFFFFFF } }
  | 0x63 => s.setHart h { a with copy := { a.copy with stride := v } }
  | 0x64 => s.setHart h { a with copy := { a.copy with shape := v &&& 0x1FFFF } }
  | 0x65 => s.setHart h { a with copy := { a.copy with bar := v } }
  | 0x70 => s.writeKeyLimit v
  | 0x78 => s.modPart a.partKey fun p => { p with count := v.extractLsb' 0 32, thresh := v.extractLsb' 32 32 }
  | r =>
    if 0x28 ≤ r && r ≤ 0x2F then
      s.setHart h { a with stguard := mput a.stguard (r - 0x28) (v &&& guardBits) }
    else s

/-- CRD notes that TRAPCAUSE or TRAPADDR has been read; both clear UNREAD (16 R359). -/
def Hart.noteRead (a : Hart) (r : Nat) : Hart :=
  let rc := a.readCause || decide (r = 2)
  let ra := a.readAddr || decide (r = 3)
  { a with readCause := rc, readAddr := ra, unread := a.unread && !(rc && ra) }

def execCrd (c : Ctl) (d : XReg) (a : CReg) (s : State) : Out :=
  let r := a.toNat
  .next (s.issue c { barred := cregCopy r, nd := cregTimed r } fun w =>
    let v := s.readCreg s.cur r
    (s.modHart s.cur fun t => (t.noteRead r).wx d v).retire s.cur c w)

/-- The shared shape of CWR, CSET and CCLR: DOM for an S register without service (04 R132). -/
def State.cregWrite (s : State) (c : Ctl) (d : CReg) (f : State → State) : State :=
  let r := d.toNat
  s.issue c {
      barred := cregCopy r
      dom := if cregS r && !(s.hart s.cur).svc then some (trapDom 2 r) else none } fun w =>
    (f s).retire s.cur c w

def execCwr (c : Ctl) (d : CReg) (a : XI) (s : State) : Out :=
  .next (s.cregWrite c d fun s =>
    let b := (s.hart s.cur).xi a
    if d = 0x012 then s.modHart s.cur fun t => { t with wflag := t.wflag &&& ~~~(b.setWidth 13) }
    else s.writeCreg s.cur d.toNat b)

def execCset (c : Ctl) (d : CReg) (a : XI) (s : State) : Out :=
  .next (s.cregWrite c d fun s =>
    let b := (s.hart s.cur).xi a
    if d = 0x012 then s else s.writeCreg s.cur d.toNat (s.readCreg s.cur d.toNat ||| b))

def execCclr (c : Ctl) (d : CReg) (a : XI) (s : State) : Out :=
  .next (s.cregWrite c d fun s =>
    let b := (s.hart s.cur).xi a
    if d = 0x012 then s.modHart s.cur fun t => { t with wflag := t.wflag &&& ~~~(b.setWidth 13) }
    else s.writeCreg s.cur d.toNat (s.readCreg s.cur d.toNat &&& ~~~b))

/-- ISYNC: once the hart's stores to its own tile are performed, fetch sees every write before it, and TRAPVEC and XBND as
written govern fetch (04 R134, 01 R30). -/
def execIsync (c : Ctl) (s : State) : Out :=
  .next (s.issue c { unguarded := true } fun w =>
    if !(s.hart s.cur).drained s.cur .tile then s.wait s.cur .running 0
    else (s.modHart s.cur fun a => { a with trapvecF := a.trapvec, xbndF := a.xbnd, syncAt := s.stlog.length }).retire s.cur c w)

/-- Step 1 of 04 R135. A load that has stopped at a fault has ended: the handlers of 16 R367 halt harts that hold such records (log 38). -/
def State.haltReady (s : State) (h : Nat) : Bool :=
  let a := s.hart h
  a.ents.isEmpty && a.noFlight && ((s.tile (tileOf h)).queue (h % 4)).isEmpty
    && a.w.all (fun e => decide (e.2.count = 0))

def execHalt (c : Ctl) (s : State) : Out :=
  .next (s.issue c { dom := if (s.hart s.cur).gdepth ≠ 0 then some (trapDom 6 0) else none } fun w =>
    if !s.haltReady s.cur then s.wait s.cur .waiting 0
    else ((s.freeAccums s.cur).retire s.cur c w).setOwn s.cur .parked 0)

/-- STEP (01 R42, 04 R136). -/
def execStep (c : Ctl) (s : State) : Out :=
  .next (s.issue c {} fun w =>
    (s.modPart (s.hart s.cur).partKey fun p =>
      { p with count := if p.count = BitVec.allOnes 32 then p.count else p.count + 1 }).retire s.cur c w)

/-- TIMEWAIT with a target: it completes once TIME has reached it (04 R137). -/
def State.timeWait (s : State) (c : Ctl) (w : BitVec 13) (d : XReg) (target : W64) : State :=
  if s.time.toNat < target.toNat then
    (s.wait s.cur .waiting 0).modHart s.cur fun a => { a with timeTarget := some target }
  else (s.modHart s.cur fun a => { a.wx d s.time with timeTarget := none }).retire s.cur c w

def execTimewait (c : Ctl) (d : XReg) (a : XI) (s : State) : Out :=
  .next (s.issue c { mods := 0x20, nd := true } fun w =>
    let h := s.hart s.cur
    let b := h.xi a
    s.timeWait c w d (h.timeTarget.getD (if c.x5 then s.time + b else b)))

end Sys2Proof.Machine
end

