-- ==== Sys2Proof/Machine/Gate.lean ====
section
/-! DEFINITION. GATE, GRET and the unwind (04 R138 to R143; 18 R405 to R415). -/

namespace Sys2Proof.Machine

/-! ### Bytes of a tile store by offset: offsets wrap at its end (log 18) -/

def State.tilePeek (s : State) (t o n : Nat) : List Byte :=
  let o := o % 2 ^ 21
  let k := min n (2 ^ 21 - o)
  s.peek (storeBase t + o) k ++ s.peek (storeBase t) (n - k)

def State.tilePoke (s : State) (t o : Nat) (bs : List Byte) : State :=
  let o := o % 2 ^ 21
  let k := min bs.length (2 ^ 21 - o)
  let s1 := s.poke (storeBase t + o) (bs.take k)
  if bs.length ≤ k then s1 else s1.poke (storeBase t) (bs.drop k)

/-- The offset of the first poisoned byte among n bytes of a tile store (19 R430). -/
def State.tilePoison (s : State) (t o n : Nat) : Option Nat :=
  (firstPoison s.poison (storeBase t + o % 2 ^ 21) n).map fun a => a - storeBase t

/-- Little-endian fields of a byte list. -/
def natAt (bs : List Byte) (o n : Nat) : Nat := leNat ((bs.drop o).take n)
def wordAt (bs : List Byte) (o : Nat) : W64 := BitVec.ofNat 64 (natAt bs o 8)

/-! ### Gate entries (18 R405 to R408) -/

/-- A gate entry's eight words. -/
structure GateEntry where
  w0 : W64
  w1 : W64
  w2 : W64
  w3 : W64
  sb : List W64
  deriving DecidableEq, Repr

def GateEntry.dlim (e : GateEntry) : Nat := (e.w0.extractLsb' 56 3).toNat
def GateEntry.vmask (e : GateEntry) : BitVec 8 := e.w0.extractLsb' 48 8
def GateEntry.casid (e : GateEntry) : BitVec 16 := e.w0.extractLsb' 32 16
def GateEntry.entry (e : GateEntry) : BitVec 21 := e.w0.extractLsb' 0 21
def GateEntry.fbase (e : GateEntry) : BitVec 16 := e.w1.extractLsb' 48 16
def GateEntry.fmask (e : GateEntry) : BitVec 16 := e.w1.extractLsb' 32 16
def GateEntry.frame (e : GateEntry) : Nat := (e.w1.extractLsb' 21 8).toNat
def GateEntry.handler (e : GateEntry) : BitVec 21 := e.w1.extractLsb' 0 21
def GateEntry.retm (e : GateEntry) : BitVec 32 := e.w2.extractLsb' 32 32
def GateEntry.passm (e : GateEntry) : BitVec 32 := e.w2.extractLsb' 0 32
def GateEntry.gset (e : GateEntry) : Nat := (e.w3.extractLsb' 0 21).toNat

/-- A binding's pointer: bits [7:0] taken as zero (18 R407, R408). -/
def sbPtr (v : W64) : W64 := v &&& ~~~0xFF

/-- 18 R407. -/
def State.entryValid (s : State) (e : GateEntry) : Bool :=
  e.w0.getLsbD 63
    && decide (e.w0.extractLsb' 59 4 = 0) && decide (e.w0.extractLsb' 21 11 = 0) && decide (e.w0.extractLsb' 0 2 = 0)
    && decide (e.w1.extractLsb' 29 3 = 0) && decide (e.w1.extractLsb' 0 2 = 0)
    && decide (e.w3.extractLsb' 21 43 = 0) && decide (e.w3.extractLsb' 0 6 = 0)
    && decide (4096 + 8192 * popCount 8 e.vmask.toNat ≤ e.frame * 4096)
    && e.sb.all fun b => decide (b = 0) || (decide (winOf (sbPtr b) ≠ 0) && s.inWindow (sbPtr b) 1)

/-- Entry n of the hart's gate table, read without consulting store guards. -/
def State.gateEntry (s : State) (h n : Nat) : GateEntry :=
  let bs := s.tilePeek (tileOf h) ((s.hart h).gtbase.toNat + 64 * n) 64
  { w0 := wordAt bs 0, w1 := wordAt bs 8, w2 := wordAt bs 16, w3 := wordAt bs 24
    sb := [wordAt bs 32, wordAt bs 40, wordAt bs 48, wordAt bs 56] }

/-- The first check of 04 R138 that fails, by its reason. -/
def State.gateReason (s : State) (h n : Nat) (e : GateEntry) : Option Nat :=
  let a := s.hart h
  if a.gtnent.toNat ≤ n then some 1
  else if !s.entryValid e then some 2
  else if a.asid &&& e.fmask ≠ e.fbase &&& e.fmask then some 3
  else if 4 ≤ a.gdepth.toNat || e.dlim ≤ a.gdepth.toNat then some 4
  else if (a.gframe.size.toNat / 4096 : Nat) < a.gframe.used.toNat + e.frame then some 5
  else none

/-- The vector registers of a group mask, ascending. -/
def maskRows (m : BitVec 8) : List Nat := (List.range 64).filter fun v => m.getLsbD (v / 8)

/-! ### Frames (18 R411) -/

/-- A stream slot as 16 bytes (16 R375). -/
def StreamSlot.bytes (sl : StreamSlot) : List Byte :=
  if sl.isOpen || sl.closing then
    toBytes 1 ((if sl.isOpen then 1 else 0) + (if sl.closing then 2 else 0)) ++ toBytes 3 sl.num.toNat
      ++ toBytes 4 sl.seq.toNat ++ bytes64 sl.ptr
  else toBytes 16 0

/-- A stream slot from its 16 bytes, under the name of its binding. -/
def slotOf (bs : List Byte) (gen : Nat) : StreamSlot :=
  let f := natAt bs 0 1
  { isOpen := decide (f % 2 = 1), closing := decide (f / 2 % 2 = 1), num := BitVec.ofNat 8 (natAt bs 1 1)
    seq := BitVec.ofNat 20 (natAt bs 4 4), ptr := wordAt bs 8, gen := gen }

/-- The mode byte at 0x98. -/
def Hart.modeByte (a : Hart) : Nat :=
  (if a.svc then 1 else 0) + (if a.kahn then 2 else 0) + (if a.unread then 4 else 0) + a.td.toNat * 8
    + (if a.rmrSvc then 64 else 0) + (if a.rmrKahn then 128 else 0)

/-- The frame of a call, with the bytes not listed zero. -/
def Hart.frameBytes (a : Hart) (n : Nat) (e : GateEntry) : List Byte :=
  let rows := maskRows e.vmask
  bytes64 (a.pc + 12) ++ bytes64 (a.asid.setWidth 64)
    ++ ((List.range 8).flatMap fun i => bytes64 (a.guardReg i))
    ++ bytes64 (a.trapvec.setWidth 64) ++ bytes64 a.trappc ++ bytes64 a.trapcause ++ bytes64 a.trapaddr ++ bytes64 a.trapinfo
    ++ bytes64 (a.fflags.setWidth 64) ++ bytes64 (a.fctl.setWidth 64) ++ bytes64 (a.wflag.setWidth 64) ++ bytes64 a.vcfg
    ++ toBytes 8 a.modeByte
    ++ toBytes 4 e.passm.toNat ++ toBytes 4 e.retm.toNat ++ toBytes 1 e.vmask.toNat ++ toBytes 23 n
    ++ ((List.range 4).flatMap fun i => (a.slot (i + 1)).bytes)
    ++ ((List.range 32).flatMap fun i => if i = 0 || e.passm.getLsbD i then toBytes 8 0 else bytes64 (a.rx (BitVec.ofNat 5 i)))
    ++ ((List.range 7).flatMap fun i => toBytes 256 (a.rp (BitVec.ofNat 7 (i + 1))).toNat)
    ++ ((List.range 64).flatMap fun v => toBytes 2 (if e.vmask.getLsbD (v / 8) then (a.rv v).tag.toNat else 0))
    ++ toBytes 0x680 0
    ++ (rows.flatMap fun v => toBytes 1024 (a.rv v).data.toNat)
    ++ toBytes (e.frame * 4096 - 4096 - 1024 * rows.length) 0

/-- Step 3 of 04 R139 and the callee's domain of step 4. -/
def Hart.enterCallee (a : Hart) (e : GateEntry) (windows : List W64) (gen : Nat) : Hart :=
  let x := (List.range 32).foldl (fun m i => if i ≠ 0 && !e.passm.getLsbD i then mput m i 0 else m) a.x
  let v := (maskRows e.vmask).foldl (fun m i => mput m i VecReg.init) a.v
  let p := (List.range 7).foldl (fun m i => mput m (i + 1) 0) a.p
  let g := (List.range 8).foldl (fun m i => mput m i (windows.getD i 0 &&& guardBits)) a.stguard
  let sl := (List.range 4).foldl (fun m i =>
    let b := e.sb.getD i 0
    mput m (i + 1) (if b = 0 then StreamSlot.init else
      { isOpen := true, closing := false, num := b.setWidth 8, seq := 0, ptr := sbPtr b, gen := gen + i })) a.slots
  { a with
    x := x, v := v, p := p, stguard := g, slots := sl
    fflags := 0, fctl := 0, wflag := 0, vl := 0, rcc := 0, efmt := 0x0F
    asid := e.casid, trapvec := e.handler, trapvecF := e.handler, svc := false, kahn := false, td := 0, unread := false
    gdepth := a.gdepth + 1
    gframe := { a.gframe with used := a.gframe.used + BitVec.ofNat 10 e.frame } }

/-- A tag that no register may hold (01 R21). -/
def badTag (t : BitVec 16) : Bool :=
  match fmtOfCode (t.extractLsb' 11 5) with
  | none => true
  | some f => decide (t.extractLsb' 9 2 = 3) || (!isBlock f && decide (t.extractLsb' 5 6 ≠ 0)) || (isMx f && decide (t.extractLsb' 9 2 ≠ 0))

/-- A row from saved bytes: reserved bits of its tag read zero, and a forbidden tag is 0x0000 with data zero (00 R5; 01 R19, R21). -/
def savedRow (tag : BitVec 16) (data : List Byte) (pi : Nat) : VecReg :=
  { data := if badTag tag then 0 else BitVec.ofNat 8192 (leNat data), tag := if badTag tag then 0 else tag &&& 0xFFF0, pi := pi
    lrec := none, flight := none }

/-- The caller's state from its frame: every item but x, slots and PC (18 R411). -/
def Hart.leaveCallee (a : Hart) (bs : List Byte) (g : GCall) : Hart :=
  let rows := maskRows (BitVec.ofNat 8 (natAt bs 0xA8 1))
  let mode := natAt bs 0x98 1
  let vcfg := natAt bs 0x90 8
  let grp := fun (v : Nat) => 0x1000 + 1024 * ((rows.takeWhile fun r => decide (r ≠ v)).length)
  let v := rows.foldl (fun m r => mput m r
    (savedRow (BitVec.ofNat 16 (natAt bs (0x900 + 2 * r) 2)) ((bs.drop (grp r)).take 1024) 64)) a.v
  let p := (List.range 7).foldl (fun m i => mput m (i + 1) (BitVec.ofNat 2048 (natAt bs (0x200 + 256 * i) 256))) a.p
  let gd := (List.range 8).foldl (fun m i => mput m i (wordAt bs (0x10 + 8 * i) &&& guardBits)) a.stguard
  let sl := (List.range 4).foldl (fun m i => mput m (i + 1) (slotOf (bs.drop (0xC0 + 16 * i)) (g.gens.getD i 0))) a.slots
  { a with
    v := v, p := p, stguard := gd, slots := sl
    asid := BitVec.ofNat 16 (natAt bs 8 8)
    trapvec := BitVec.ofNat 21 (natAt bs 0x50 8), trapvecF := g.tvecF
    trappc := wordAt bs 0x58, trapcause := wordAt bs 0x60 &&& 0x3FF, trapaddr := wordAt bs 0x68, trapinfo := wordAt bs 0x70
    fflags := BitVec.ofNat 5 (natAt bs 0x78 8), fctl := BitVec.ofNat 2 (natAt bs 0x80 8)
    wflag := BitVec.ofNat 13 (natAt bs 0x88 8)
    vl := BitVec.ofNat 12 (vcfg % 4096), rcc := BitVec.ofNat 2 (vcfg / 4096), efmt := BitVec.ofNat 5 (vcfg / 65536)
    svc := decide (mode % 2 = 1), kahn := decide (mode / 2 % 2 = 1), unread := decide (mode / 4 % 2 = 1)
    td := BitVec.ofNat 3 (mode / 8)
    rmrSvc := decide (mode / 64 % 2 = 1), rmrKahn := decide (mode / 128 % 2 = 1)
    gdepth := a.gdepth - 1
    resume := a.resume.filter fun r => decide (r.depth / 8 < a.gdepth.toNat)
    gframe := { a.gframe with used := a.gframe.used - BitVec.ofNat 10 g.units } }

/-- The x registers of 04 R141 step 3; `keep` says whether the return mask counts (R142). -/
def Hart.returnX (a : Hart) (bs : List Byte) (keep : Bool) : Hart :=
  let passm := BitVec.ofNat 32 (natAt bs 0xA0 4)
  let retm := BitVec.ofNat 32 (natAt bs 0xA4 4)
  { a with x := (List.range 32).foldl (fun m i =>
      if i = 0 || (keep && retm.getLsbD i) then m
      else mput m i (if passm.getLsbD i then 0 else wordAt bs (0x100 + 8 * i))) a.x }

/-! ### GATE -/

/-- Some row of a list is not whole: its PI is below 64 (01 R25). -/
def Hart.partRows (a : Hart) (rows : List Nat) : Bool := rows.any fun v => decide ((a.rv v).pi ≠ 64)

/-- GATE: the checks, the wait of step 1 and the poison of masked rows (18 R412), then the call. A poisoned word of the entry, the
window set or, at the return, the frame is never used as data (19 R430): it traps POISON (log 19). -/
def execGate (c : Ctl) (d : BitVec 8) (s : State) : Out :=
  let h := s.cur
  let n := d.toNat
  let e := s.gateEntry h n
  let entryBad := s.tilePoison (tileOf h) ((s.hart h).gtbase.toNat + 64 * n) 64
  let bad := if entryBad.isSome then entryBad else s.tilePoison (tileOf h) e.gset 64
  let dom := if entryBad.isSome && decide (n < (s.hart h).gtnent.toNat) then none
    else (s.gateReason h n e).map fun r => trapDom 0 (r * 256 + n)
  .next (s.issue c { unguarded := true, dom := dom } fun w =>
    let rows := maskRows e.vmask
    if let some o := bad then s.trapHere h (trapPoisonMem (BitVec.ofNat 64 o))
    else if rows.any (fun v => s.vBusy h v) then s.wait h .running 0
    else
      match (s.hart h).firstTrap rows with
      | some t => s.trapHere h t
      | none =>
        if (s.hart h).partRows rows then s.wait h .running 0 else
        let a := { s.hart h with wflag := (s.hart h).wflag ||| w }
        let windows := (List.range 8).map fun i => wordAt (s.tilePeek (tileOf h) (e.gset + 8 * i) 8) 0
        let at_ := (a.gframe.base.toNat / 4096 + a.gframe.used.toNat) * 4096
        let call : GCall := { units := e.frame, stamp := s.nextStamp, casid := e.casid, tvecF := a.trapvecF
                              gens := (List.range 4).map fun i => (a.slot (i + 1)).gen }
        let s1 := s.tilePoke (tileOf h) at_ (a.frameBytes n e)
        let s2 := s1.setHart h { a.enterCallee e windows (s.nextStamp + 1) with gcalls := call :: a.gcalls }
        { s2 with nextStamp := s.nextStamp + 5 }.retireTo h c 0 (e.entry.setWidth 64))

/-! ### GRET and the unwind -/

/-- The callee's outstanding entries made since the GATE (04 R141). -/
def Hart.calleeEntries (a : Hart) (g : GCall) : List (Nat × JEntry) :=
  a.ents.filter fun e => decide (g.stamp ≤ e.2.stamp) && decide (e.2.asid = g.casid)

/-- The bytes of the innermost frame. -/
def State.frameOf (s : State) (h : Nat) (g : GCall) : List Byte :=
  s.tilePeek (tileOf h) (s.frameAt h - storeBase (tileOf h)) (g.units * 4096)

/-- GRET: DOM outside a call; else, once the callee's entries are acknowledged and every masked row is whole, the caller's state (04 R141). A
frame that holds a misaligned return PC traps ALIGN at the GRET, before any effect: R141 names no check, and 03 R92 gives this to every
transfer but TRET (log 38). -/
def execGret (c : Ctl) (s : State) : Out :=
  let h := s.cur
  .next (s.issue c { unguarded := true, dom := if (s.hart h).gdepth = 0 then some (trapDom 6 0) else none } fun _ =>
    let a := s.hart h
    match a.gcalls with
    | [] => s.wait h .waiting 0
    | g :: rest =>
      if !(a.calleeEntries g).isEmpty then s.wait h .waiting 0
      else if (maskRows (s.vmask h)).any (fun v => s.vBusy h v) || a.partRows (maskRows (s.vmask h)) then s.wait h .waiting 0
      else if let some o := s.tilePoison (tileOf h) (s.frameAt h - storeBase (tileOf h)) (g.units * 4096) then
        s.trapHere h (trapPoisonMem (BitVec.ofNat 64 o))
      else if (wordAt (s.frameOf h g) 0).toNat % 4 ≠ 0 then s.trapHere h (trapAlign (wordAt (s.frameOf h g) 0) 4)
      else
        let bs := s.frameOf h g
        (s.setHart h { (a.leaveCallee bs g).returnX bs true with gcalls := rest }).retireTo h c 0 (wordAt bs 0))

/-- Drop every refused entry of a list (04 R142). -/
def State.dropRefused (s : State) (h : Nat) : List (Nat × JEntry) → State
  | [] => s
  | (i, e) :: r => if e.refused then (s.dropEntry h i e e.prio).dropRefused h r else s.dropRefused h r

/-- One attempt to finish the unwind of hart h (04 R142, 18 R414, R415): refused callee entries are dropped; once none is
outstanding and the masked rows have landed, the caller's state returns and GFAULT is taken at its GATE. A row that the callee's trap has
left below PI = 64 will not land, and does not hold the unwind back (log 7). -/
def State.unwindStep (s : State) (h : Nat) : State :=
  let a := s.hart h
  match a.unwind, a.gcalls with
  | some u, g :: rest =>
    let es := a.calleeEntries g
    let any := es.any fun e => e.2.refused
    let s1 := s.dropRefused h es
    let u1 := { u with dropped := u.dropped || any }
    let a1 := s1.hart h
    if !(a1.calleeEntries g).isEmpty || (maskRows (s1.vmask h)).any (fun v => s1.vBusy h v) then
      s1.setHart h { a1 with unwind := some u1 }
    else if let some o := s1.tilePoison (tileOf h) (s1.frameAt h - storeBase (tileOf h)) (g.units * 4096) then
      (s1.setHart h { a1 with unwind := none }).romHold h 0x09 (BitVec.ofNat 64 o) a1.pc false
    else
      let bs := s1.frameOf h g
      let ret := wordAt bs 0
      let s2 := s1.setHart h { (a1.leaveCallee bs g).returnX bs false with gcalls := rest, unwind := none, pc := ret - 12 }
      s2.takeTrap h (ret - 12)
        (Trap.mk' 0x0B 0 (BitVec.ofNat 64 (natAt bs 0xA9 1 + u1.cause.toNat * 256 + (if u1.dropped then 65536 else 0))))
  | _, _ => s

end Sys2Proof.Machine
end

