-- ==== Sys2Proof/Machine/Matrix.lean ====
section
/-! DEFINITION. The matrix instructions of a hart (06 R180 to R201): ownership, shape, queueing, reading out. The array itself is
in MatrixArray. -/

namespace Sys2Proof.Machine

/-! ### Shape (06 R184) -/

/-- TKMAX of a format (06 R184, R185). -/
def tkMax (t : Fmt) : Nat :=
  match fmtWidth t with
  | 4 => 32 | 8 => 16 | 16 => 8 | _ => 4

def execTshape (c : Ctl) (d a : XReg) (b : Fmt) (s : State) : Out :=
  .next (s.onHart c {} fun h =>
    let v := h.rx a
    let tm := min (v.extractLsb' 0 16).toNat 64
    let tn := min (v.extractLsb' 16 16).toNat 64
    let tk := min (v.extractLsb' 32 16).toNat (tkMax b)
    { h.wx d (BitVec.ofNat 64 (tm + tn * 2 ^ 16 + tk * 2 ^ 32)) with
      tm := BitVec.ofNat 7 tm, tn := BitVec.ofNat 7 tn, tk := BitVec.ofNat 6 tk })

/-! ### Ownership -/

/-- DOM for an accumulator that the hart does not own (06 R180). -/
def State.accDom (s : State) (m : MReg) : Option Trap :=
  if s.owns s.cur m then none else some (trapDom 1 m.toNat)

/-- A head for an instruction that names an accumulator. -/
def State.accHead (s : State) (m : MReg) (mods : BitVec 6) : Head :=
  { barred := true, mods := mods, dom := s.accDom m }

def State.modAccum (s : State) (h : Nat) (m : MReg) (f : Acc → Acc) : State :=
  s.modTile (tileOf h) fun t => t.setAccum m.toNat (f (t.accum m.toNat))

def execMacq (c : Ctl) (d : MReg) (s : State) : Out :=
  let h := s.cur
  .next (s.issue c { barred := true } fun w =>
    let acc := s.accum (tileOf h) d.toNat
    if acc.owner = none || s.owns h d then
      ((s.modAccum h d fun a => { a with owner := some (h % 4) }).modHart h fun a => { a with waitAcc := none }).retire h c w
    else (s.wait h .waiting 0).modHart h fun a => { a with waitAcc := some d })

/-- Hart h has an operation on m queued. -/
def State.queuedOn (s : State) (h : Nat) (m : MReg) : Bool :=
  ((s.tile (tileOf h)).queue (h % 4)).any fun o => decide (o.m = m)

def execMrel (c : Ctl) (d : MReg) (s : State) : Out :=
  .next (s.issue c (s.accHead d 0) fun w =>
    if s.queuedOn s.cur d then s.wait s.cur .waiting 0 else (s.freeAccum s.cur d).retire s.cur c w)

/-- MWAIT and MSTAT wait for the operations of md, and cover it (06 R192, R198). -/
def execMwait (c : Ctl) (d : MReg) (s : State) : Out :=
  .next (s.issue c (s.accHead d 0) fun w =>
    if s.queuedOn s.cur d then s.wait s.cur .waiting 0
    else (s.modAccum s.cur d fun a => { a with covered := true }).retire s.cur c w)

def execMstat (c : Ctl) (d : XReg) (a : MReg) (s : State) : Out :=
  .next (s.issue c (s.accHead a 0x20) fun w =>
    if s.queuedOn s.cur a then s.wait s.cur .waiting 0
    else
      let acc := s.accum (tileOf s.cur) a.toNat
      let v := BitVec.ofNat 64 (acc.flags.toNat + (if acc.isInt then 256 else 0))
      ((s.modAccum s.cur a fun x => { x with covered := true, flags := if c.x5 then 0 else x.flags }).modHart s.cur fun h =>
        h.wx d v).retire s.cur c w)

/-! ### Queued operations (06 R188) -/

/-- Queue an operation of hart `cur`, or stall with STATE 0 while four are outstanding. -/
def State.queueOp (s : State) (c : Ctl) (w : BitVec 13) (o : MOp) (f : Acc → Acc) : State :=
  let h := s.cur
  let q := (s.tile (tileOf h)).queue (h % 4)
  if 4 ≤ q.length then s.wait h .running 0
  else
    ((s.modTile (tileOf h) fun t => t.setQueue (h % 4) (q ++ [o])).modAccum h o.m fun a => { f a with covered := false }).retire
      h c w

/-- An operation as a hart issues it. -/
def Hart.mkOp (a : Hart) (m : MReg) (k : MKind) (va vb : VReg) : MOp :=
  { m := m, kind := k, a := va, b := vb, rc := a.rc, tm := a.tm.toNat, tn := a.tn.toNat, tk := a.tk.toNat, done := 0, held := [] }

def execMzero (c : Ctl) (d : MReg) (s : State) : Out :=
  .next (s.issue c (s.accHead d 0x20) fun w =>
    s.queueOp c w ((s.hart s.cur).mkOp d .mzero 0 0) fun a => { a with isInt := c.x5 })

/-- Operand pairs of 06 R185, by FMT and GRP. -/
def mmaPair (x y : BitVec 16) : Bool :=
  match tagFmt x, tagFmt y with
  | .mx4, .mx4 | .e2m1, .e2m1 | .f16, .f16 | .bf16, .bf16 | .f32, .f32 | .i4, .i4 | .i8, .i8 => true
  | .mx8a, .mx8a | .mx8a, .mx8b | .mx8b, .mx8a | .mx8b, .mx8b => true
  | .e4m3, .e4m3 | .e4m3, .e5m2 | .e5m2, .e4m3 | .e5m2, .e5m2 => true
  | .q4, .q4 | .q8, .q8 => decide (tagGroup x = tagGroup y)
  | _, _ => false

/-- The pairs MRANK accepts (06 R190). -/
def mrankPair (x y : BitVec 16) : Bool :=
  match tagFmt x, tagFmt y with
  | .f32, .f32 | .f16, .f16 | .bf16, .bf16 | .i8, .i8 => true
  | _, _ => false

/-- A pair that accumulates in i32. -/
def pairInt (t : Fmt) : Bool := decide (t = .i4) || decide (t = .i8)

def accTag (a : Acc) : BitVec 16 := plainTag (if a.isInt then .i32 else .f32)

/-- The tag checks of MMA and MRANK: the pair, one FMT and GRP for all A rows and for all B rows, then the accumulator's tag. -/
def State.pairTrap (s : State) (m : MReg) (va vb : VReg) (pair : BitVec 16 → BitVec 16 → Bool) : Option Trap :=
  let h := s.hart s.cur
  let ta := (h.rv va.toNat).tag
  let tb := (h.rv vb.toNat).tag
  let same := fun (x y : BitVec 16) => decide (tagFmt x = tagFmt y) && decide (tagGroup x = tagGroup y)
  match h.fmtCheck 0 (rowChecks va.toNat h.rc 1 (fun _ t => same t ta && pair ta ta)
      ++ rowChecks vb.toNat h.rc 2 fun _ t => same t tb && pair ta t) with
  | some t => some t
  | none =>
    let acc := s.accum (tileOf s.cur) m.toNat
    if acc.isInt = pairInt (tagFmt ta) then none else some (trapFmt (accTag acc) 0)

/-- What MMA, MRANK and MWR meet in the rows they read: each row with how many groups it needs; a wait, the first trap by row and
then by group, or neither (06 R189). -/
def Hart.panelMeets (a : Hart) : List (List (Nat × Nat)) → Option (Option Trap)
  | rows =>
    if rows.any (fun r => r.any fun (v, n) => (a.rv v).waits n) then some none
    else
      let first : List (Nat × Nat) → Option (Nat × VHalt) := fun r => r.foldl (fun m (v, n) =>
        earlier m (match (a.rv v).trap v with
          | none => none
          | some t => let g := if (a.rv v).pi < 64 then (a.rv v).pi else 0
                      if g < n then some (g, .trap t) else none)) none
      match rows.findSome? first with
      | some (_, .trap t) => some (some t)
      | _ => none

/-- Read the panels, then queue (06 R189). -/
def State.queueRead (s : State) (c : Ctl) (w : BitVec 13) (o : MOp) (rows : List (List (Nat × Nat))) : State :=
  match (s.hart s.cur).panelMeets rows with
  | some none => s.wait s.cur .running 0
  | some (some t) => s.trapHere s.cur t
  | none => s.queueOp c w o id

/-- The shape of MMA and MRANK; `na` and `nb` are how many elements each row of A and B holds of the panel. -/
def State.multiply (s : State) (c : Ctl) (mods : BitVec 6) (d : MReg) (a b : VReg) (pair : BitVec 16 → BitVec 16 → Bool)
    (k : MKind) (na nb : Hart → Fmt → Nat) : State :=
  s.issue c { s.accHead d mods with vs := [a, b], aV := true, bV := true } fun w =>
    match s.pairTrap d a b pair with
    | some t => s.trapHere s.cur t
    | none =>
      let h := s.hart s.cur
      let fa := h.rowFmt a.toNat 0
      let fb := h.rowFmt b.toNat 0
      let rows := (List.range h.rc).map fun j =>
        [(a.toNat + j, groupsFor (na h fa) (fmtWidth fa)), (b.toNat + j, groupsFor (nb h fb) (fmtWidth fb))]
      s.queueRead c (w ||| wfIf 9 ((c.x5 || c.u) && !pairInt fa)) (h.mkOp d k a b) rows

def execMma (c : Ctl) (d : MReg) (a b : VReg) (s : State) : Out :=
  .next (s.multiply c 0x30 d a b mmaPair (.mma c.x5 c.u)
    (fun h t => h.tm.toNat * min h.tk.toNat (tkMax t)) fun h t => h.tn.toNat * min h.tk.toNat (tkMax t))

def execMrank (c : Ctl) (d : MReg) (a b : VReg) (s : State) : Out :=
  .next (s.multiply c 0x38 d a b mrankPair (.mrank c.x5 c.u c.sat) (fun h _ => h.tm.toNat) fun h _ => h.tn.toNat)

/-- The quad of row j (06 R193). -/
def quadAt (q j : Nat) : Nat := (q + j) % 16

def execMwr (c : Ctl) (d : MReg) (a : VReg) (b : XU 4) (s : State) : Out :=
  .next (s.issue c { s.accHead d 0 with vs := [a], aV := true } fun w =>
    let h := s.hart s.cur
    let acc := s.accum (tileOf s.cur) d.toNat
    match h.fmtCheck 0 (rowChecks a.toNat h.rc 1 fun _ t => decide (tagFmt t = if acc.isInt then .i32 else .f32)) with
    | some t => s.trapHere s.cur t
    | none => s.queueRead c w (h.mkOp d (.mwr (h.xu b).toNat) a 0) ((List.range h.rc).map fun j => [(a.toNat + j, 64)]))

/-! ### Reading out (06 R193 to R198, R202) -/

def Acc.cell (a : Acc) (i j : Nat) : Nat := (mget 0 a.cells (64 * i + j)).toNat

/-- Element e of quad q. -/
def Acc.quadCell (a : Acc) (q e : Nat) : Nat := a.cell (4 * q + e / 64) (e % 64)

/-- A quad holds a poisoned row (06 R202). -/
def Acc.quadBad (a : Acc) (q : Nat) : Bool := (List.range 4).any fun i => a.poisoned.getLsbD (4 * q + i)

/-- The 256 cells of a quad as one register. -/
def Acc.quadData (a : Acc) (q : Nat) : VData :=
  (List.range 256).foldl (fun d e => setElem d 32 e (a.quadCell q e)) 0

/-- Write row j of a read-out: its data, its tag, and poison where the quad is poisoned (06 R202). -/
def Hart.writeOut (a : Hart) (v : Nat) (tag : BitVec 16) (bad : Bool) (data : VData) : Hart :=
  a.wv v { data := data, tag := if bad then poisonTag tag else tag, pi := 64, lrec := none, flight := none }

/-- The destination rows are free to write. -/
def State.rowsBusy (s : State) (d : VReg) : Bool :=
  (List.range (s.hart s.cur).rc).any fun j => s.vBusy s.cur (d.toNat + j)

/-- MRD: quads bit for bit; uncovered, a free value in each row (06 R194, R198). -/
def execMrd (c : Ctl) (d : VReg) (a : MReg) (b : XU 4) (s : State) : Out :=
  .next (s.issue c { s.accHead a 0 with vs := [d] } fun w =>
    if s.rowsBusy d then s.wait s.cur .running 0
    else
      let h := s.hart s.cur
      let acc := s.accum (tileOf s.cur) a.toNat
      let q := (h.xu b).toNat
      (s.setHart s.cur ((List.range h.rc).foldl (fun x j =>
        x.writeOut (d.toNat + j) (accTag acc) (acc.quadBad (quadAt q j))
          (if acc.covered then acc.quadData (quadAt q j) else Config.freeV s.tick j)) (h.charge (h.rc * 8)))).retire s.cur c w)

/-- The destination formats of MCVT (06 R196). -/
def mcvtFmt (m : BitVec 6) : Fmt :=
  match (m.extractLsb' 3 3).toNat with
  | 0 => .f32 | 1 => .f16 | 2 => .bf16 | 3 => .e4m3 | 4 => .e5m2 | 5 => .i32 | 6 => .i16 | _ => .i8

/-- A cell's value. -/
def Acc.value (a : Acc) (v : Nat) : FVal :=
  if a.isInt then .fin (decide (2 ^ 31 ≤ v)) (intOf 32 false v).natAbs 0 else fdec .f32 v

/-- One element of MCVT. -/
def mcvtElem (a : Acc) (t : Fmt) (r : Rnd) (sat : Bool) (k : Int) (v : Nat) : Nat × BitVec 5 :=
  let y := (a.value v).scale k
  if isFloat t then cvtVal y t r sat else cvtToInt y (fmtWidth t) false r

/-- One row of MCVT: 256 elements over the old data, with flags. -/
def mcvtRow (a : Acc) (t : Fmt) (r : Rnd) (sat : Bool) (k : Int) (q : Nat) (old : VData) : VData × BitVec 5 :=
  foldElems (fmtWidth t) (fun e => some (mcvtElem a t r sat k (a.quadCell q e))) (List.range 256) (old, 0)

/-- The low 256 elements of a free value over the old data. -/
def freeLow (w : Nat) (v old : VData) : VData :=
  let m : VData := BitVec.ofNat 8192 (2 ^ (256 * w) - 1)
  (v &&& m) ||| (old &&& ~~~m)

/-- MCVT: the status flags gather those of its conversions; uncovered, values and flags are free (06 R196, R198). -/
def execMcvt (c : Ctl) (d : VReg) (a : MReg) (b : XI) (s : State) : Out :=
  .next (s.issue c { s.accHead a 0x3F with vs := [d] } fun w =>
    if s.rowsBusy d then s.wait s.cur .running 0
    else
      let h := s.hart s.cur
      let acc := s.accum (tileOf s.cur) a.toNat
      let k := h.xi b
      let t := mcvtFmt c.mod
      let q := (k.extractLsb' 0 4).toNat
      let row := fun (j : Nat) =>
        if acc.covered then
          mcvtRow acc t (h.rnd c) (k.getLsbD 7) (k.extractLsb' 8 8).toInt (quadAt q j) (h.rv (d.toNat + j)).data
        else (freeLow (fmtWidth t) (Config.freeV s.tick j) (h.rv (d.toNat + j)).data, 0)
      let x := (List.range h.rc).foldl (fun x j =>
        x.writeOut (d.toNat + j) (plainTag t) (acc.quadBad (quadAt q j)) (row j).1) (h.charge (h.rc * 8))
      let fl := (List.range h.rc).foldl (fun m j => m ||| (row j).2) 0
      ((s.setHart s.cur x).modAccum s.cur a fun y =>
        { y with flags := y.flags ||| (if acc.covered then fl else Config.freeFlags s.tick) }).retire s.cur c w)

end Sys2Proof.Machine
end

