-- ==== Sys2Proof/Machine/Pred.lean ====
section
/-! DEFINITION. The predicate instructions at OPC 0x60 to 0x65 (05 R177). -/

namespace Sys2Proof.Machine

/-- The active bits. -/
def Hart.activeMask (a : Hart) (c : Ctl) : PData := a.guard c &&& BitVec.ofNat 2048 (2 ^ a.vl.toNat - 1)

/-- An instruction of 05 R177 that writes p[D]: active bits only. -/
def State.pWrite (s : State) (c : Ctl) (ps : List PReg) (d : PReg) (f : Hart → PData) : State :=
  s.issue c { ps := ps, elem := true } fun w =>
    (s.modHart s.cur fun a =>
      let m := a.activeMask c
      (a.charge 1).wp d ((a.rp d &&& ~~~m) ||| (f a &&& m))).retire s.cur c w

def execPand (c : Ctl) (d a b : PReg) (s : State) : Out := .next (s.pWrite c [d, a, b] d fun h => h.rp a &&& h.rp b)
def execPor (c : Ctl) (d a b : PReg) (s : State) : Out := .next (s.pWrite c [d, a, b] d fun h => h.rp a ||| h.rp b)
def execPxor (c : Ctl) (d a b : PReg) (s : State) : Out := .next (s.pWrite c [d, a, b] d fun h => h.rp a ^^^ h.rp b)
def execPandn (c : Ctl) (d a b : PReg) (s : State) : Out := .next (s.pWrite c [d, a, b] d fun h => h.rp a &&& ~~~(h.rp b))
def execPnot (c : Ctl) (d a : PReg) (s : State) : Out := .next (s.pWrite c [d, a] d fun h => ~~~(h.rp a))
def execPmov (c : Ctl) (d a : PReg) (s : State) : Out := .next (s.pWrite c [d, a] d fun h => h.rp a)
def execPsetn (c : Ctl) (d : PReg) (a : XI) (s : State) : Out :=
  .next (s.pWrite c [d] d fun h => BitVec.ofNat 2048 (2 ^ min 2048 (h.xi a).toNat - 1))
def execPclr (c : Ctl) (d : PReg) (s : State) : Out := .next (s.pWrite c [d] d fun _ => 0)

/-- An instruction of 05 R177 that writes x[D], as RC = 1 under fallback bit 1. -/
def State.pRead (s : State) (c : Ctl) (d : XReg) (a : PReg) (f : List Nat → W64) : State :=
  s.issue c { ps := [a], elem := true } fun w =>
    let h := s.hart s.cur
    (s.modHart s.cur fun x => (x.charge 1).wx d (f (activeElems (h.activeMask c &&& h.rp a) h.vl.toNat))).retire s.cur c
      (w ||| wfIf 1 (decide (h.rc ≠ 1)))

def execPcnt (c : Ctl) (d : XReg) (a : PReg) (s : State) : Out :=
  .next (s.pRead c d a fun es => BitVec.ofNat 64 es.length)
def execPfirst (c : Ctl) (d : XReg) (a : PReg) (s : State) : Out :=
  .next (s.pRead c d a fun es => match es.head? with | some e => BitVec.ofNat 64 e | none => BitVec.allOnes 64)
def execPlast (c : Ctl) (d : XReg) (a : PReg) (s : State) : Out :=
  .next (s.pRead c d a fun es => match es.getLast? with | some e => BitVec.ofNat 64 e | none => BitVec.allOnes 64)

end Sys2Proof.Machine
end

