-- ==== Sys2Proof/Machine/VectorMove.lean ====
section
/-! DEFINITION. Cross-lane movement (05 R170, R171), reductions and scans (R172 to R174), dot products (R175), selection and
sorting (R176). -/

namespace Sys2Proof.Machine

/-! ### Rows made whole -/

/-- The shape of an instruction that reads every source group of a row before it writes (05 R147): `out` gives, for a row, the
elements of width dw to write and their values, with flags. -/
def State.vRow (s : State) (c : Ctl) (w : BitVec 13) (d : VReg) (srcs : List VSrc) (wd : Nat) (tag : Nat → BitVec 16)
    (wf : BitVec 13) (out : Nat → Nat → List (Nat × Nat) × BitVec 5) : State :=
  let h := s.reader d.toNat
  let vl := h.vlAt wd
  let dw := fun j => fmtWidth (tagFmt (tag j))
  s.runV c w {
    vl := vl, rc := h.rc, beats := beatsOf h.rc vl wd, srcs := srcs, dw := dw, whole := true
    dest := some (d.toNat, tag), wf := wfIf 0 (h.vlClamps wd) ||| wf
    row := fun j _ _ x =>
      let r := x.rv (d.toNat + j)
      let (es, fl) := out vl j
      (x.wv (d.toNat + j) { r with data := es.foldl (fun m e => setElem m (dw j) e.1 e.2) r.data }).addFlags fl }

/-- Cross-lane movement of A, whose tag the result keeps (05 R170): `out` gives the elements to write from VL and a reader of
A's row. -/
def State.vLane (s : State) (c : Ctl) (mods : BitVec 6) (d a : VReg) (out : Hart → PData → Nat → Nat → (Nat → Nat) → List (Nat × Nat)) :
    State :=
  s.issue c (vHead d a [] mods) fun w =>
    let h := s.reader d.toNat
    s.withTags d.toNat (rowChecks a.toNat h.rc 1 fun _ t => decide (tagFmt t ≠ .raw)) <|
      s.vRow c w d [h.src a] (widestOf (h.rowFmts a.toNat)) (fun j => cleanTag (h.rv (a.toNat + j)).tag) 0 fun vl j =>
        (out h (h.guard c) vl j fun e => h.elem (a.toNat + j) (fmtWidth (h.rowFmt a.toNat j)) e, 0)

def execVslide (c : Ctl) (d a : VReg) (b : XI) (s : State) : Out :=
  .next (s.vLane c 0 d a fun h g vl _ va =>
    let n := (h.xi b).toInt
    (activeElems g vl).map fun (e : Nat) =>
      let src := (e : Int) + n
      (e, if 0 ≤ src && src < vl then va src.toNat else 0))

def execVbcast (c : Ctl) (d a : VReg) (b : XI) (s : State) : Out :=
  .next (s.vLane c 0 d a fun h g vl _ va =>
    let i := (h.xi b).toNat
    (activeElems g vl).map fun e => (e, if i < vl then va i else 0))

/-- Number a list from n. -/
def enumFrom {α : Type} : Nat → List α → List (Nat × α)
  | _, [] => []
  | n, x :: r => (n, x) :: enumFrom (n + 1) r

def execVcomp (c : Ctl) (d a : VReg) (s : State) : Out :=
  .next (s.vLane c 0 d a fun _ g vl _ va => (enumFrom 0 (activeElems g vl)).map fun e => (e.1, va e.2))

def execVexpd (c : Ctl) (d a : VReg) (s : State) : Out :=
  .next (s.vLane c 0 d a fun _ g vl _ va => (enumFrom 0 (activeElems g vl)).map fun e => (e.2, va e.1))

/-- The source of element e under VSHFL's mode (05 R171). -/
def shflSrc (mode m n e : Nat) : Int :=
  match mode with
  | 0 => ((e ^^^ m : Nat) : Int)
  | 1 => (e : Int) - m
  | 2 => (e : Int) + m
  | _ => ((e - e % n + m : Nat) : Int)

def execVshfl (c : Ctl) (d a : VReg) (b : XI) (s : State) : Out :=
  .next (s.vLane c 0x38 d a fun h g vl _ va =>
    let k := h.xi b
    let m := (k.extractLsb' 0 11).toNat
    let n := 2 ^ min 11 (k.extractLsb' 12 4).toNat
    let mode := (c.mod.extractLsb' 4 2).toNat
    (List.range vl).filterMap fun e =>
      let src := shflSrc mode m n e
      let ok := decide (0 ≤ src) && decide (src / n = ((e / n : Nat) : Int)) && actAt g vl src.toNat
      if g.getLsbD e && ok then some (e, va src.toNat)
      else if c.sat then none else some (e, 0))

/-- VPERM: the index row is i4 or Int, and VL is clamped at the wider of the two (05 R170). -/
def execVperm (c : Ctl) (d a b : VReg) (s : State) : Out :=
  .next (s.issue c (vHead d a [b] 0) fun w =>
    let h := s.reader d.toNat
    s.withTags d.toNat (rowChecks a.toNat h.rc 1 (fun _ t => decide (tagFmt t ≠ .raw))
        ++ rowChecks b.toNat h.rc 2 fun _ t => iotaOk (tagFmt t)) <|
      s.vRow c w d [h.src a, h.src b] (max (widestOf (h.rowFmts a.toNat)) (widestOf (h.rowFmts b.toNat)))
        (fun j => cleanTag (h.rv (a.toNat + j)).tag) 0 fun vl j =>
          ((activeElems (h.guard c) vl).map fun e =>
            let i := h.elem (b.toNat + j) (fmtWidth (h.rowFmt b.toNat j)) e
            (e, if i < vl then h.elem (a.toNat + j) (fmtWidth (h.rowFmt a.toNat j)) i else 0), 0))

/-! ### Reductions and scans (05 R172 to R174) -/

def RedOp_isLogic : RedOp → Bool
  | .and | .or | .xor => true
  | _ => false

/-- MOD bits that the operation defines (05 R172). -/
def redMods : RedOp → BitVec 6
  | .sum => 0x1F
  | .min | .max => 0x17
  | _ => 0x07

/-- Formats an operation accepts. -/
def redOk (k : RedOp) (t : Fmt) : Bool := if RedOp_isLogic k then iotaOk t else intFp t

/-- Bits 6, 8 and 9 of 03 R97 that depend on the tags. -/
def redFlags (c : Ctl) (k : RedOp) (ts : List Fmt) : BitVec 13 :=
  wfIf 6 (decide (k = .sum) && c.sat && ts.any isFloat)
    ||| wfIf 8 (c.rounds && ts.any fun t => !isFloat t)
    ||| wfIf 9 (!RedOp_isLogic k && c.u && ts.any isFloat)

/-- Combine two codes; an Int sum is taken elsewhere, exactly. -/
def redCombine (c : Ctl) (r : Rnd) (k : RedOp) (t : Fmt) (a b : Nat) : Nat × BitVec 5 :=
  match k with
  | .sum => ((fdec t a).ex.plus r (fdec t b)).round t r false
  | .min => minMax c false t a b
  | .max => minMax c true t a b
  | .and => (a &&& b, 0)
  | .or => (a ||| b, 0)
  | .xor => (a ^^^ b, 0)

def redEmpty (c : Ctl) (k : RedOp) (t : Fmt) : Nat :=
  let w := fmtWidth t
  let f := fpSpec t
  match k with
  | .sum | .or | .xor => 0
  | .and => 2 ^ w - 1
  | .min => if isInt t then codeOf w (rangeHi w c.u) else f.maxc + 1
  | .max => if isInt t then codeOf w (rangeLo w c.u) else f.sgn true + f.maxc + 1

/-- The pairwise tree over 2^k elements from lo (05 R173). -/
def redTree (f : Nat → Nat → Nat × BitVec 5) (leaf : Nat → Option Nat) : Nat → Nat → Option Nat × BitVec 5
  | 0, lo => (leaf lo, 0)
  | k + 1, lo =>
    match redTree f leaf k lo, redTree f leaf k (lo + 2 ^ k) with
    | (none, x), (y, z) => (y, x ||| z)
    | (some a, x), (none, z) => (some a, x ||| z)
    | (some a, x), (some b, z) => let (v, g) := f a b; (some v, x ||| z ||| g)

/-- The logarithm of the smallest power of two ≥ n. -/
def log2Up (n : Nat) : Nat := if n ≤ 1 then 0 else bitLen (n - 1)

/-- Element 0 of VRED's row. -/
def redValue (c : Ctl) (r : Rnd) (k : RedOp) (t : Fmt) (g : PData) (vl : Nat) (va : Nat → Nat) : Nat × BitVec 5 :=
  let w := fmtWidth t
  if isInt t && decide (k = .sum) then
    (fitCode w c.u c.sat ((activeElems g vl).foldl (fun m e => m + intOf w c.u (va e)) 0), 0)
  else
    match redTree (redCombine c r k t) (fun e => if actAt g vl e then some (va e) else none) (log2Up vl) 0 with
    | (some v, fl) => (v, fl)
    | (none, fl) => (redEmpty c k t, fl)

/-- VSCAN's prefixes over the active elements (05 R174); `acc` is the exact running sum of an Int sum, else a code. -/
def scanFrom (c : Ctl) (r : Rnd) (k : RedOp) (t : Fmt) (va : Nat → Nat) : List Nat → Option Int → BitVec 5 →
    List (Nat × Nat) × BitVec 5
  | [], _, fl => ([], fl)
  | e :: es, acc, fl =>
    let w := fmtWidth t
    let isum := isInt t && decide (k = .sum)
    let x : Int := if isum then intOf w c.u (va e) else (va e : Int)
    let (y, g) : Int × BitVec 5 :=
      match acc with
      | none => (x, 0)
      | some a => if isum then (a + x, 0) else let (v, g) := redCombine c r k t a.toNat (va e); ((v : Int), g)
    let (rest, fl') := scanFrom c r k t va es (some y) (fl ||| g)
    ((e, if isum then fitCode w c.u c.sat y else y.toNat) :: rest, fl')

/-- The shape of VRED and VSCAN. -/
def State.vReduce (s : State) (c : Ctl) (k : RedOp) (d a : VReg)
    (out : Rnd → Fmt → PData → Nat → (Nat → Nat) → List (Nat × Nat) × BitVec 5) : State :=
  s.issue c (vHead d a [] (redMods k)) fun w =>
    let h := s.reader d.toNat
    s.withTags d.toNat (rowChecks a.toNat h.rc 1 fun _ t => redOk k (tagFmt t)) <|
      let ts := h.rowFmts a.toNat
      s.vRow c w d [h.src a] (widestOf ts) (fun j => cleanTag (h.rv (a.toNat + j)).tag) (redFlags c k ts) fun vl j =>
        let t := h.rowFmt a.toNat j
        out (h.rnd c) t (h.guard c) vl fun e => h.elem (a.toNat + j) (fmtWidth t) e

def execVred (c : Ctl) (k : RedOp) (d a : VReg) (s : State) : Out :=
  .next (s.vReduce c k d a fun r t g vl va => let (v, fl) := redValue c r k t g vl va; ([(0, v)], fl))

def execVscan (c : Ctl) (k : RedOp) (d a : VReg) (s : State) : Out :=
  .next (s.vReduce c k d a fun r t g vl va => scanFrom c r k t va (activeElems g vl) none 0)

/-! ### Dot products (05 R175) -/

/-- An exact sum of terms; NaN, infinities and zeros under 02 R75 and R54. -/
def sumEx (r : Rnd) (ts : List Ex) : Ex :=
  let inv := ts.any fun t => match t with | .nan i => i | _ => false
  let nan := ts.any fun t => match t with | .nan _ => true | _ => false
  let pinf := ts.any fun t => match t with | .inf false _ => true | _ => false
  let ninf := ts.any fun t => match t with | .inf true _ => true | _ => false
  if nan then .nan (inv || (pinf && ninf))
  else if pinf && ninf then .nan true
  else if pinf then .inf false false
  else if ninf then .inf true false
  else
    match ts with
    | [] => .fin false 0 0 false
    | t :: rest => rest.foldl (fun m x => match m, x with
        | .fin s1 n1 e1 _, .fin s2 n2 e2 _ => addFin r s1 n1 e1 s2 n2 e2
        | m, _ => m) t

/-- Source pairs: i4, i8, i16 with themselves, any pairing of e4m3 and e5m2, f16 and bf16 with themselves. -/
def dotPair (x y : Fmt) : Bool :=
  match x, y with
  | .i4, .i4 | .i8, .i8 | .i16, .i16 | .f16, .f16 | .bf16, .bf16 => true
  | .e4m3, .e4m3 | .e4m3, .e5m2 | .e5m2, .e4m3 | .e5m2, .e5m2 => true
  | _, _ => false

def dotFmt (x : Fmt) : Fmt := if isFloat x then .f32 else .i32

/-- One destination element from its pairs of source codes. -/
def dotElem (c : Ctl) (r : Rnd) (ta tb : Fmt) (ps : List (Nat × Nat)) (d : Nat) : Nat × BitVec 5 :=
  if isFloat ta then
    (sumEx r ((ps.map fun p => exMul (fdec ta p.1) (fdec tb p.2)) ++ [(fdec .f32 d).ex])).round .f32 r c.sat
  else
    let w := fmtWidth ta
    (fitCode 32 c.u c.sat (ps.foldl (fun m p => m + intOf w c.u p.1 * intOf w c.u p.2) (intOf 32 c.u d)), 0)

def execVdot (c : Ctl) (d a b : VReg) (s : State) : Out :=
  .next (s.issue c (vHead d a [b] 0x1F) fun w =>
    let h := s.reader d.toNat
    let rc := h.rc
    s.withTags d.toNat (rowChecks a.toNat rc 1 (fun _ t => dotPair (tagFmt t) (tagFmt t))
        ++ rowChecks b.toNat rc 2 (fun j t => dotPair (h.rowFmt a.toNat j) (tagFmt t))
        ++ rowChecks d.toNat rc 0 fun j t => decide (tagFmt t = dotFmt (h.rowFmt a.toNat j))) <|
      let vl := h.vlAt 32
      let g := h.guard c
      let per := fun j => 32 / fmtWidth (h.rowFmt a.toNat j)
      let src := fun (v : VReg) => ({ base := v.toNat, per := 1, w := fun _ => 32 } : VSrc)
      s.runV c w {
        vl := vl, rc := rc, beats := beatsOf rc vl 32, srcs := [src a, src b, src d], dw := fun _ => 32
        dest := some (d.toNat, fun j => plainTag (dotFmt (h.rowFmt a.toNat j)))
        wf := wfIf 0 (h.vlClamps 32) ||| fmtFlags c 0x1F (h.rowFmts a.toNat)
        row := fun j lo hi x => writeRow d.toNat 32 (actAt g vl) (fun j e =>
          let ta := h.rowFmt a.toNat j
          let tb := h.rowFmt b.toNat j
          dotElem c (h.rnd c) ta tb ((List.range (per j)).map fun i =>
            (h.elem (a.toNat + j) (fmtWidth ta) (e * per j + i), h.elem (b.toNat + j) (fmtWidth tb) (e * per j + i)))
            (h.elem (d.toNat + j) 32 e)) j lo hi x })

/-! ### Selection and sorting (05 R176; 02 R79, R80) -/

/-- A candidate: its key, global index and local position. -/
structure Ranked where
  key : Int
  glob : Nat
  pos : Nat

/-- x ranks before y. -/
def Ranked.before (asc : Bool) (x y : Ranked) : Bool :=
  if x.key = y.key then
    if x.glob = y.glob then decide (x.pos < y.pos) else decide (x.glob < y.glob)
  else if asc then decide (x.key < y.key) else decide (y.key < x.key)

def insertRanked (asc : Bool) (x : Ranked) : List Ranked → List Ranked
  | [] => [x]
  | y :: r => if x.before asc y then x :: y :: r else y :: insertRanked asc x r

def sortRanked (asc : Bool) : List Ranked → List Ranked
  | [] => []
  | x :: r => insertRanked asc x (sortRanked asc r)

/-- The key of a code of format t; a block element's comes from its scale entry. -/
def rankKey (u : Bool) (t : Fmt) (scale c : Nat) : Int :=
  if isBlock t then (blockKey t scale c : Int)
  else if isFloat t then (orderKey (fmtWidth t) c : Int)
  else intOf (fmtWidth t) u c

/-- The shape of VTOPK and VSORT; `k` is how many to write of VL, `base` the first global index. -/
def State.vRank (s : State) (c : Ctl) (d a : VReg) (k : Hart → Nat → Nat) (base : Hart → Nat) : State :=
  s.issue c (vHead d a [] 0x38) fun w =>
    let h := s.reader d.toNat
    let rc := h.rc
    let idx := c.sat
    s.withTags d.toNat (rowChecks a.toNat rc 1 (fun _ t => decide (tagFmt t ≠ .raw))
        ++ (if idx then rowChecks d.toNat rc 0 (fun _ t => decide (tagFmt t = .i32)) else [])) <|
      let ts := h.rowFmts a.toNat
      s.vRow c w d (h.src a :: (if idx then [h.src d] else [])) (max 32 (widestOf ts)) (fun _ => plainTag .i32)
        (wfIf 9 (c.u && ts.any fun t => isFloat t || isBlock t)) fun vl j =>
          let r := h.rv (a.toNat + j)
          let w := fmtWidth r.fmt
          let cand := (activeElems (h.guard c) vl).map fun e => ({
            key := rankKey c.u r.fmt (h.scaleAt r.scl (e / tagGroup r.tag)) (elemAt r.data w e)
            glob := if idx then h.elem (d.toNat + j) 32 e else (base h + e) % 2 ^ 32
            pos := e } : Ranked)
          let ranked := (sortRanked c.x5 cand).take (k h vl)
          ((List.range vl).map fun i => (i, match ranked[i]? with | some x => x.pos | none => 0xFFFFFFFF), 0)

def execVtopk (c : Ctl) (d a : VReg) (b : XU 12) (s : State) : Out :=
  .next (s.vRank c d a (fun h _ => (h.xu b).toNat) fun h =>
    match b with
    | .x r => ((h.rx r).extractLsb' 32 32).toNat
    | .i _ => 0)

def execVsort (c : Ctl) (d a : VReg) (b : XReg) (s : State) : Out :=
  .next (s.vRank c d a (fun _ vl => vl) fun h => ((h.rx b).extractLsb' 32 32).toNat)

end Sys2Proof.Machine
end

