-- ==== Sys2Proof/Machine/Share.lean ====
section
/-! DEFINITION. How the lanes and the array are shared (12 R308 to R314): levels, weights and the credit rule; the sequencer's pick,
the period ends, and the timers of PAUSE and TIMEWAIT. -/

namespace Sys2Proof.Machine

/-! ### Level and weight (12 R310) -/

def isHost : Option ChanEnd → Bool
  | some (.host _) => true
  | _ => false

/-- A port whose input platform is more than three-quarters full, or whose output platform has more than three-quarters of its
slots free. -/
def State.portPresses (s : State) (b : PortBinding) : Bool :=
  let x := s.chan b.part b.chan
  if b.out then
    let i := x.target b.idx
    !isHost (x.readerOf i) && decide (3 * (x.plat i).cap < 4 * x.slotCount i)
  else
    let i := match x.mode with | .normal => 0 | .deal => b.idx | .merge => x.turn
    !isHost (x.writerOf i) && decide (3 * (x.plat i).cap < 4 * (x.plat i).toks.length)

def Hart.bindings (a : Hart) : List PortBinding := a.k.filterMap fun e => e.2

/-- W of 12 R310. -/
def State.weight (s : State) (h : Nat) : Nat :=
  let bs := (s.hart h).bindings
  (if bs.any fun b => !b.out && s.portPresses b then 2 else 1) * (if bs.any fun b => b.out && s.portPresses b then 2 else 1)

/-- The level of 12 R310. -/
def Hart.level1 (a : Hart) : Bool := decide (a.spent < a.budget) || a.svc

/-- The contender with the largest credit; ties go to the first. -/
def largest : List (Nat × Int) → Option (Nat × Int)
  | [] => none
  | (h, c) :: r =>
    match largest r with
    | some (h', c') => if c < c' then some (h', c') else some (h, c)
    | none => some (h, c)

/-- The rule of 12 R311 over contenders, given with their weights by hart number within the tile: the winner and the credits
after. -/
def creditPick (cr : SMap Int) (es : List (Nat × Nat)) : Option (Nat × SMap Int) :=
  let cr1 := es.foldl (fun m e => mput m e.1 (mget 0 m e.1 + (e.2 : Int))) cr
  match largest (es.map fun e => (e.1, mget 0 cr1 e.1)) with
  | none => none
  | some (w, c) => some (w, mput cr1 w (c - (((es.map fun e => e.2).foldl (· + ·) 0 : Nat) : Int)))

/-- Pick among the harts of a tile that `ok` admits: those at level 1 if there are any. -/
def State.sharePick (s : State) (t : Nat) (cr : SMap Int) (ok : Nat → Bool) : Option (Nat × SMap Int) :=
  let hs := (List.range 4).filter fun l => ok (4 * t + l)
  let top := hs.filter fun l => (s.hart (4 * t + l)).level1
  creditPick cr ((if top.isEmpty then hs else top).map fun l => (l, s.weight (4 * t + l)))

/-! ### The sequencer -/

/-- Instructions that reach the sequencer, each with its meaning (12 R308). -/
def laneExec : Instr → Option (State → Out)
  | .vadd c d a b => some (execVadd c d a b)
  | .vsub c d a b => some (execVsub c d a b)
  | .vmul c d a b => some (execVmul c d a b)
  | .vmad c d a b => some (execVmad c d a b)
  | .vmsb c d a b => some (execVmsb c d a b)
  | .vnmad c d a b => some (execVnmad c d a b)
  | .vdiv c d a b => some (execVdiv c d a b)
  | .vsqrt c d a => some (execVsqrt c d a)
  | .vrcp c d a => some (execVrcp c d a)
  | .vrsq c d a => some (execVrsq c d a)
  | .vexp2 c d a => some (execVexp2 c d a)
  | .vlog2 c d a => some (execVlog2 c d a)
  | .vmin c d a b => some (execVmin c d a b)
  | .vmax c d a b => some (execVmax c d a b)
  | .vand c d a b => some (execVand c d a b)
  | .vor c d a b => some (execVor c d a b)
  | .vxor c d a b => some (execVxor c d a b)
  | .vshl c d a b => some (execVshl c d a b)
  | .vshr c d a b => some (execVshr c d a b)
  | .vabs c d a => some (execVabs c d a)
  | .vneg c d a => some (execVneg c d a)
  | .vnot c d a => some (execVnot c d a)
  | .vsha c d a b => some (execVsha c d a b)
  | .vcmp c k d a b => some (execVcmp c k d a b)
  | .vclass c d a b => some (execVclass c d a b)
  | .vsmax c d a b => some (execVsmax c d a b)
  | .vmovGFromV c d a => some (execVmovGFromV c d a)
  | .vext c d a b => some (execVext c d a b)
  | .vsel c d a b => some (execVsel c d a b)
  | .vcvt c d a b => some (execVcvt c d a b)
  | .vqnt c d a b => some (execVqnt c d a b)
  | .vdqnt c d a b => some (execVdqnt c d a b)
  | .vtag c d a b => some (execVtag c d a b)
  | .vsplat c d a b => some (execVsplat c d a b)
  | .vmovV c d a => some (execVmovV c d a)
  | .vmovVFromG c d a => some (execVmovVFromG c d a)
  | .viota c d a b => some (execViota c d a b)
  | .vins c d a b => some (execVins c d a b)
  | .vred c k d a => some (execVred c k d a)
  | .vscan c k d a => some (execVscan c k d a)
  | .vdot c d a b => some (execVdot c d a b)
  | .vtopk c d a b => some (execVtopk c d a b)
  | .vsort c d a b => some (execVsort c d a b)
  | .vslide c d a b => some (execVslide c d a b)
  | .vperm c d a b => some (execVperm c d a b)
  | .vshfl c d a b => some (execVshfl c d a b)
  | .vbcast c d a b => some (execVbcast c d a b)
  | .vcomp c d a => some (execVcomp c d a)
  | .vexpd c d a => some (execVexpd c d a)
  | .vld c d a b => some (execVld c d a b)
  | .vlds c d a b => some (execVlds c d a b)
  | .vgath c d a b => some (execVgath c d a b)
  | .vst c d a b => some (execVst c d a b)
  | .vsts c d a b => some (execVsts c d a b)
  | .vscat c d a b => some (execVscat c d a b)
  | .rvst c d a b => some (execRvst c d a b)
  | .pand c d a b => some (execPand c d a b)
  | .por c d a b => some (execPor c d a b)
  | .pxor c d a b => some (execPxor c d a b)
  | .pandn c d a b => some (execPandn c d a b)
  | .pnot c d a => some (execPnot c d a)
  | .pmov c d a => some (execPmov c d a)
  | .pcnt c d a => some (execPcnt c d a)
  | .pfirst c d a => some (execPfirst c d a)
  | .plast c d a => some (execPlast c d a)
  | .psetn c d a => some (execPsetn c d a)
  | .pclr c d => some (execPclr c d)
  | .mrd c d a b => some (execMrd c d a b)
  | .mcvt c d a b => some (execMcvt c d a b)
  | .vsend c d a => some (execVsend c d a)
  | .vrecv c d a b => some (execVrecv c d a b)
  | _ => none

/-- The first vector register that such an instruction writes. -/
def destRow : Instr → Option VReg
  | .vadd _ d _ _ | .vsub _ d _ _ | .vmul _ d _ _ | .vmad _ d _ _ | .vmsb _ d _ _ | .vnmad _ d _ _ | .vdiv _ d _ _ => some d
  | .vsqrt _ d _ | .vrcp _ d _ | .vrsq _ d _ | .vexp2 _ d _ | .vlog2 _ d _ => some d
  | .vmin _ d _ _ | .vmax _ d _ _ | .vand _ d _ _ | .vor _ d _ _ | .vxor _ d _ _ | .vshl _ d _ _ | .vshr _ d _ _ => some d
  | .vabs _ d _ | .vneg _ d _ | .vnot _ d _ | .vsha _ d _ _ => some d
  | .vsel _ d _ _ | .vcvt _ d _ _ | .vqnt _ d _ _ | .vdqnt _ d _ _ | .vtag _ d _ _ | .vsplat _ d _ _ | .vmovV _ d _ => some d
  | .vmovVFromG _ d _ | .viota _ d _ _ | .vins _ d _ _ | .vred _ _ d _ | .vscan _ _ d _ | .vdot _ d _ _ => some d
  | .vtopk _ d _ _ | .vsort _ d _ _ | .vslide _ d _ _ | .vperm _ d _ _ | .vshfl _ d _ _ | .vbcast _ d _ _ => some d
  | .vcomp _ d _ | .vexpd _ d _ | .vld _ d _ _ | .vlds _ d _ _ | .vgath _ d _ _ => some d
  | .mrd _ d _ _ | .mcvt _ d _ _ => some d
  | .vrecv _ d _ _ => some d
  | _ => none

/-- The instruction at hart h's PC, if it reaches the sequencer: at VL = 0 all but MRD and MCVT retire before it (03 R89). -/
def State.laneAt (s : State) (h : Nat) : Option (State → Out) :=
  let i := s.fetchInstr h
  let whole := match i with | .mrd _ _ _ _ | .mcvt _ _ _ _ => true | _ => false
  if decide ((s.hart h).vl = 0) && !whole then none else laneExec i

/-- Hart h only goes on waiting in t. -/
def waitsOnly (s t : State) (h : Nat) : Bool :=
  let a := s.hart h
  let b := t.hart h
  b.stalled && decide (b.pc = a.pc) && decide (b.td = a.td) && decide (b.resume = a.resume)

/-- The instruction could issue now: it would do more than wait (12 R309). -/
def State.couldIssue (s : State) (h : Nat) (f : State → Out) : Bool :=
  match f { s with cur := h } with
  | .next t => !waitsOnly s t h
  | _ => true

/-- The hart can take a turn at all. -/
def Hart.runnable (a : Hart) : Bool :=
  !a.held && !a.stopped && decide (a.own ≠ .parked) && a.pend.isNone && a.pause.isNone && a.unwind.isNone && a.fatal.isNone

/-- A hart is eligible at a pick (12 R309): in STATE 0, or 4 with its handler running, and its next instruction needs the sequencer and
could issue now. -/
def State.eligible (s : State) (h : Nat) : Bool :=
  let a := s.hart h
  a.runnable && decide (a.own = .running) && !a.inMiddle && a.reportable.isEmpty
    && (match s.laneAt h with
        | none => false
        | some f => s.couldIssue h f)

/-- No hart of the tile holds the lanes: one whose issued instruction waits under R26 does (12 R308). -/
def State.lanesFree (s : State) (tile : Nat) : Bool :=
  (hartsOf tile).all fun h => !((s.hart h).inMiddle && !(s.hart h).stopped && !(s.hart h).held)

/-- The pick: credits move by 12 R311 and the winner has the next turn, in which its instruction issues and is charged. A hart
that yielded is passed over, at this one pick, while any other is eligible. -/
def execVectorSequencerPick (tile : Nat) (s : State) : Out :=
  let es := (hartsOf tile).filter fun h => s.eligible h
  let fresh := es.filter fun h => !(s.hart h).yielded
  let ok := fun h => (if fresh.isEmpty then es else fresh).contains h
  .next (if !s.lanesFree tile then s
    else match s.sharePick tile (s.tile tile).seqCR ok with
    | none => s
    | some (l, cr) =>
      let s1 := es.foldl (fun s h => s.modHart h fun a => { a with yielded := false }) s
      { s1.modTile tile fun t => { t with seqCR := cr } with sched := .lanes (4 * tile + l) :: s1.sched })

/-- A period of the tile ends in cycle 1,023 of each 1,024: SPENT of its harts and the copy budgets begin anew (12 R312, R315). Where a
step passes that cycle by, the step ends the period itself. -/
def execSequencerPeriodEnd (tile : Nat) (s : State) : Out :=
  .next (if s.cycle tile % 1024 ≠ 1023 then s
    else (hartsOf tile).foldl (fun s h => s.modHart h fun a => { a with spent := 0 }) (s.modTile tile fun t => { t with cpSpent := [] }))

/-- A period of a junction or a station ends in main-clock cycle 1,023 of each 1,024 (12 R315). -/
def execBudgetPeriodEnd (ep : Nat) (s : State) : Out :=
  .next (if s.main % 1024 ≠ 1023 then s
    else if ep < 1024 then s.modTile ep fun t => { t with injSpent := [] }
    else s.modStation (ep - 1024) fun x => { x with units := [] })

/-- The periods that have ended between main-clock counts, of every tile, junction and station: `old` is the state before the step's
time passed. -/
def State.endPeriods (s old : State) : State :=
  let main := decide (old.main / 1024 < s.main / 1024)
  let tile := fun t => decide (old.cycle t / 1024 < s.cycle t / 1024)
  { s with
    harts := s.harts.map fun e => (e.1, { e.2 with spent := if tile (tileOf e.1) then 0 else e.2.spent })
    tiles := s.tiles.map fun e => (e.1, { e.2 with
      cpSpent := if tile e.1 then [] else e.2.cpSpent, injSpent := if main then [] else e.2.injSpent })
    stations := s.stations.map fun e => (e.1, { e.2 with units := if main then [] else e.2.units }) }

/-! ### Timers -/

def execPauseExpiry (hart : Nat) (s : State) : Out :=
  let a := s.hart hart
  .next (match a.pause with
    | some t => if t ≤ s.cycle (tileOf hart) && !a.stopped then s.setHart hart { a with pause := none } else s
    | none => s)

/-- The hart's TIMEWAIT completes once TIME has reached its target (04 R137). -/
def execTimewaitExpiry (hart : Nat) (s : State) : Out :=
  let a := s.hart hart
  match a.timeTarget, s.fetchInstr hart with
  | some t, .timewait c d x =>
    if t.toNat ≤ s.time.toNat && a.runnable then
      match execTimewait c d x { s with cur := hart } with
      | .next s1 => .next { s1 with cur := s.cur }
      | .fault f => .fault f
      | .refused r => .refused r
    else .next s
  | _, _ => .next s

end Sys2Proof.Machine
end

