-- ==== Sys2Proof/Machine/SignalBox.lean ====
section
/-! DEFINITION. The signal box (09 R266 to R272), the delivery of its reports (09 R273, R274) and the watchdog (16 R370). -/

namespace Sys2Proof.Machine

/-! ### What a sweep sees (09 R266, R267) -/

/-- The platform that a writer waits for: the lowest without slots in a CEND on a DEAL channel, else the one its strip goes to
(09 R253, R256). -/
def State.blockedOn (s : State) (h : Nat) (b : PortBinding) : Nat × Nat :=
  let x := s.chan b.part b.chan
  let i := match s.fetchInstr h with
    | .cend _ _ => if x.mode = .deal then x.shortPlat.getD 0 else x.target b.idx
    | _ => x.target b.idx
  (b.chan, i)

/-- The class of a hart, its port, and the platform a blocked writer waits for. A hart blocked in a channel instruction has no
deferred fault pending: it has read no vector source (07 R233). -/
def State.classHart (s : State) (h : Nat) : HState × Nat × Option (Nat × Nat) :=
  let a := s.hart h
  let refused := a.ents.any fun e => e.2.refused && decide (e.2.asid = a.asid)
  if a.state = 5 then (.parked, 0, none)
  else if refused then (.running, 0, none)
  else
    let k : KReg := a.port
    match a.state, a.rk k with
    | 1, some b =>
      let x := s.chan b.part b.chan
      let i := match x.mode with | .normal => 0 | .deal => b.idx | .merge => x.turn
      if isHost (x.writerOf i) then (.running, 0, none) else (.blockedRead, k.toNat, none)
    | 2, some b =>
      let p := s.blockedOn h b
      if isHost ((s.chan b.part b.chan).readerOf p.2) then (.running, 0, none) else (.blockedWrite, k.toNat, some p)
    | _, _ => (.running, 0, none)

/-- The class of the station end of pair n; one that waits for another station's part of its request is running. -/
def State.classPair (s : State) (p n : Nat) : HState × Nat × Option (Nat × Nat) :=
  let a := s.pairOf p n
  if a.busy then (.running, 0, none)
  else if a.out.isEmpty then
    if (s.nextRequest p n).isSome then (.running, 0, none) else (.blockedRead, 0, none)
  else
    let x := s.chan p a.rep
    let i := s.pairTarget p n
    if isHost (x.readerOf i) then (.running, 0, none)
    else if x.slotCount i < a.out.length then (.blockedWrite, 0, some (a.rep, i))
    else (.running, 0, none)

/-- Every classed agent: the partition's harts but its supervisor, then its pairs, numbered from 4,096. 'Every station end' may mean one agent a
pair or one an end, which NBLK of 09 R274 would show: DESIGN CHOICE (log 34), one a pair. -/
def State.classAgents (s : State) (p : Nat) : List (Nat × HState × Nat × Option (Nat × Nat)) :=
  (((s.part p).harts.filter fun h => decide (h ≠ (s.part p).sup)).map fun h => (h, s.classHart h))
    ++ ((s.part p).pairs.map fun e => (4096 + e.1, s.classPair p e.1))

def State.sweepOf (s : State) (p : Nat) : Sweep :=
  let as := s.classAgents p
  { classes := as.map fun a => (a.1, a.2.1, a.2.2.1)
    plats := as.filterMap fun a => a.2.2.2
    inj := s.injSum p, ej := s.ejSum p }

/-- 09 R268. -/
def Sweep.quiescent (w : Sweep) : Bool := w.classes.all (fun c => decide (c.2.1 ≠ .running)) && decide (w.inj = w.ej)

/-! ### Reports (09 R273, R274) -/

def Partition.segFree (a : Partition) : Nat := a.spillSegs - a.segsUsed

/-- A report record of 64 bytes. -/
def State.reportBytes (s : State) (p kind chan plat : Nat) : List Byte :=
  let a := s.part p
  let blocked := ((s.classAgents p).filter fun c => decide (c.2.1 = .blockedRead)).length
  toBytes 4 kind ++ toBytes 4 a.seq ++ bytes64 s.time ++ toBytes 4 chan ++ toBytes 2 plat ++ toBytes 2 blocked
    ++ toBytes 4 a.grows ++ toBytes 4 a.segFree ++ toBytes 32 0

/-- Write the next report record; the supervisor hart has its trap pending. -/
def State.report (s : State) (p : Nat) (cause : BitVec 8) (kind chan plat : Nat) : State :=
  let a := s.part p
  let va := a.spillBase + 64 * (a.seq % 1024)
  (s.svcWrite va (s.reportBytes p kind chan plat)).modPart p fun a =>
    { a with seq := a.seq + 1, reports := a.reports ++ [{ cause := cause, addr := globalPtr va }] }

/-- The supervisor traps at its next boundary outside STATE 4, after any REFUSE (09 R273, 16 R362). Its report record goes into
Wilnil's fault log, and the network is then to end with DONE reason 1 or 2 (09 R435). -/
def execSupervisorReportTrap (part : Nat) (s : State) : Out :=
  let p := s.part part
  let a := s.hart p.sup
  .next (match p.reports with
    | [] => s
    | r :: rest =>
      if !a.atBoundary || decide (a.state = 4) || !a.reportable.isEmpty then s
      else
        let s1 := { s with faultLog := (s.svcRead (vaOf r.addr) 64).getD [] :: s.faultLog }.modPart part fun q =>
          { q with reports := rest, ending := some (if r.cause = 0x0E then 2 else 1) }
        (s1.dropBwait p.sup).trapHere p.sup (Trap.mk' r.cause r.addr (BitVec.ofNat 64 part)))

/-! ### Growth (09 R270, R271) -/

/-- Platform a of (chan, platform) comes before b: smaller capacity, then channel, then platform. -/
def State.growsFirst (s : State) (p : Nat) (a b : Nat × Nat) : Bool :=
  let ca := ((s.chan p a.1).plat a.2).cap
  let cb := ((s.chan p b.1).plat b.2).cap
  decide (ca < cb) || (decide (ca = cb) && (decide (a.1 < b.1) || (decide (a.1 = b.1) && decide (a.2 ≤ b.2))))

/-- The one platform that a decision grows. -/
def State.growChoice (s : State) (p : Nat) : List (Nat × Nat) → Option (Nat × Nat)
  | [] => none
  | c :: r =>
    match s.growChoice p r with
    | none => some c
    | some d => if s.growsFirst p c d then some c else some d

/-- Segments that the growth of a platform of capacity c takes. -/
def growSegs (c : Nat) : Nat := max 1 ((c * 8 + 4095) / 4096)

/-- Grow platform c of its channel, or deliver MORTAR (09 R271, R272). -/
def State.grow (s : State) (p : Nat) (c : Nat × Nat) : State :=
  let a := s.part p
  let x := s.chan p c.1
  let cap := (x.plat c.2).cap
  let n := growSegs cap
  if a.segFree < n then (s.report p 0x0E 2 c.1 c.2).modPart p fun a => { a with sb := .held, sweep := none }
  else
    let segs := (List.range n).map fun i => a.segsUsed + i
    let s1 := ((s.modChan p c.1 fun x =>
        x.setPlat c.2 { x.plat c.2 with cap := 2 * cap, head := 0, segs := (x.plat c.2).segs ++ segs }).layTokens p c.1 c.2 0
          (x.plat c.2).toks).modPart p
      fun a => { a with segsUsed := a.segsUsed + n, grows := a.grows + 1, sb := .grow, sweep := none }
    s1.send (stEp 29) (.ep (s1.endEp p (x.writerOf c.2))) 3 (some p) (.grant p c.1 c.2 cap)

/-! ### The state machine (09 R268, R269) -/

/-- The decision after two identical quiescent sweeps. -/
def State.decideSweep (s : State) (p : Nat) (w : Sweep) : State :=
  let kind := fun k => w.classes.any fun c => decide (c.2.1 = k)
  if kind .blockedWrite then
    match s.growChoice p w.plats with
    | some c => s.grow p c
    | none => s
  else if kind .blockedRead then
    (s.report p 0x0D 1 0xFFFFFFFF 0xFFFF).modPart p fun a => { a with sb := .held, sweep := none }
  else s.modPart p fun a => { a with sb := .watch, sweep := none }

def State.sweep (s : State) (p : Nat) : State :=
  let a := s.part p
  let w := s.sweepOf p
  match a.sb with
  | .watch => if w.quiescent then s.setPart p { a with sb := .confirm, sweep := some w } else s
  | .confirm =>
    if w.quiescent && decide (a.sweep = some w) then s.decideSweep p w
    else s.setPart p { a with sb := .watch, sweep := none }
  | _ => s

/-- A sweep ends every 170 main-clock cycles of a bound partition (09 R268). -/
def execSignalBoxSweep (part : Nat) (s : State) : Out :=
  let a := s.part part
  .next (if !a.bound || a.loading || decide (s.main < a.sweepAt) then s
    else (s.setPart part { a with sweepAt := a.sweepAt + 170 }).sweep part)

/-! ### The watchdog (16 R370) -/

/-- The count stands still: unbound, at a switch, or a hart that is not held reports STATE 4. -/
def State.watchPaused (s : State) (a : Partition) : Bool :=
  !a.bound || a.loading || decide (a.sb = .switch) || a.harts.any fun h => !(s.hart h).held && decide ((s.hart h).state = 4)

/-- d nanoseconds pass for every watchdog. -/
def State.watch (s : State) (d : Nat) : State :=
  { s with parts := s.parts.map fun e => (e.1, if s.watchPaused e.2 then e.2 else { e.2 with wdCount := e.2.wdCount + d }) }

def execWatchdogExpiry (part : Nat) (s : State) : Out :=
  let a := s.part part
  .next (if !a.bound || a.wdFired || decide (a.wdPeriod = 0) || decide (a.wdCount < a.wdPeriod.toNat * 1000) || s.watchPaused a
    then s
    else (s.report part 0x0D 3 0xFFFFFFFF 0xFFFF).modPart part fun a => { a with wdFired := true })

end Sys2Proof.Machine
end

