-- ==== Sys2Proof/Machine/Context.lean ====
section
/-! DEFINITION. Saved contexts as bytes (01 R45; 16 R373, R375, R376): what SAVE writes for a hart and a tile, and what LOAD makes of
it. Fields that the manual lists without a place have one here (log 12); what it gives no place at all is kept beside the bytes
(log 27). -/

namespace Sys2Proof.Machine

/-- A section of n bytes: the given ones, then zeros. -/
def sect (n : Nat) (bs : List Byte) : List Byte := (bs ++ toBytes n 0).take n

/-- The n bytes from o, as many as there are. -/
def cut (bs : List Byte) (o n : Nat) : List Byte := (bs.drop o).take n

def flagNat (b : Bool) (n : Nat) : Nat := if b then 2 ^ n else 0
def bitOf (n i : Nat) : Bool := decide (n / 2 ^ i % 2 = 1)

/-! ### A hart (16 R375) -/

/-- Hart-scoped control registers that a context holds (01 R29). CYCLE, TIME and the registers of wider scope are not. -/
def savedCreg (r : Nat) : Bool :=
  decide (r ≤ 6) || (decide (0x10 ≤ r) && decide (r ≤ 0x12)) || (decide (0x18 ≤ r) && decide (r ≤ 0x1B))
    || (decide (0x20 ≤ r) && decide (r ≤ 0x22)) || (decide (0x28 ≤ r) && decide (r ≤ 0x31)) || decide (r = 0x49)
    || decide (r = 0x50) || decide (r = 0x51) || (decide (0x60 ≤ r) && decide (r ≤ 0x65))

/-- The remaining PAUSE cycles, or the TIMEWAIT target. -/
def Hart.waitWord (a : Hart) : W64 := match a.pause with | some n => BitVec.ofNat 64 n | none => a.timeTarget.getD 0

def Hart.headerBytes (a : Hart) (h : Nat) : List Byte :=
  sect 0x100 (toBytes 4 0x00014358 ++ toBytes 2 1 ++ toBytes 2 h ++ bytes64 a.pc ++ toBytes 8 (4096 * a.gframe.used.toNat)
    ++ toBytes 1 (flagNat a.rmrSvc 0 + flagNat a.rmrKahn 1) ++ toBytes 1 a.td.toNat ++ toBytes 1 (flagNat a.unread 0) ++ toBytes 1 0
    ++ toBytes 2 a.nextXfer.toNat ++ toBytes 2 0 ++ bytes64 a.waitWord ++ bytes64 a.gframe.word)

def PortBinding.bytes (b : Option PortBinding) : List Byte :=
  match b with
  | none => toBytes 32 0
  | some b =>
    let m := match b.mode with | .normal => 0 | .deal => 1 | .merge => 2
    sect 32 (toBytes 1 (1 + flagNat b.out 1 + 4 * m) ++ toBytes 1 b.part ++ toBytes 2 b.chan ++ toBytes 1 (fmtCode b.fmt).toNat
      ++ toBytes 3 0 ++ toBytes 4 b.idx)

def portOfBytes (bs : List Byte) : Option PortBinding :=
  let f := natAt bs 0 1
  if bitOf f 0 then
    some {
      part := natAt bs 1 1, chan := natAt bs 2 2, out := bitOf f 1
      mode := match f / 4 % 4 with | 0 => .normal | 1 => .deal | _ => .merge
      fmt := (fmtOfCode (BitVec.ofNat 5 (natAt bs 4 1))).getD .raw, idx := natAt bs 8 4 }
  else none

def WaitTok.bytes (w : WaitTok) : List Byte :=
  sect 32 (toBytes 2 w.count.toNat ++ (match w.fail with
    | none => []
    | some f => toBytes 1 1 ++ toBytes 1 f.cause.toNat ++ toBytes 2 f.id.toNat ++ toBytes 2 0 ++ bytes64 f.addr ++ toBytes 8 f.stamp))

def waitTokOf (bs : List Byte) : WaitTok :=
  { count := BitVec.ofNat 16 (natAt bs 0 2)
    fail := if natAt bs 2 1 = 1 then
        some { cause := BitVec.ofNat 8 (natAt bs 3 1), id := BitVec.ofNat 16 (natAt bs 4 2), addr := wordAt bs 8, stamp := natAt bs 16 8 }
      else none }

def LoadRec.bytes (l : LoadRec) : List Byte :=
  let k := match l.desc.kind with | .unit => 0 | .strided => 1 | .gather => 2
  sect 256 (toBytes 1 l.cause.toNat ++ toBytes 1 l.detail.toNat ++ toBytes 1 (k + flagNat l.again 4 + flagNat l.spoilt 5) ++ toBytes 1 l.desc.d.toNat
    ++ toBytes 1 l.desc.offReg.toNat ++ toBytes 1 l.desc.rc ++ toBytes 2 l.desc.tag.toNat ++ bytes64 l.addr ++ bytes64 l.desc.base
    ++ bytes64 l.desc.stride ++ bytes64 l.desc.pc ++ toBytes 2 l.desc.vl ++ toBytes 2 l.desc.asid.toNat ++ toBytes 4 l.desc.prio.toNat
    ++ (List.range 8).flatMap fun i => bytes64 (l.desc.ws.getD i 0))
    ++ toBytes 256 l.desc.guard.toNat

/-- The load of a record's bytes. -/
def loadDescOf (bs : List Byte) : LoadDesc :=
  { kind := match natAt bs 2 1 % 16 with | 0 => .unit | 1 => .strided | _ => .gather
    d := BitVec.ofNat 6 (natAt bs 3 1), offReg := BitVec.ofNat 6 (natAt bs 4 1), rc := natAt bs 5 1
    tag := BitVec.ofNat 16 (natAt bs 6 2), base := wordAt bs 16, stride := wordAt bs 24, pc := wordAt bs 32
    vl := natAt bs 40 2, asid := BitVec.ofNat 16 (natAt bs 42 2), prio := BitVec.ofNat 2 (natAt bs 44 4)
    ws := (List.range 8).map fun i => wordAt bs (48 + 8 * i), guard := BitVec.ofNat 2048 (natAt bs 256 256) }

/-- A record from its bytes. The index row of a gather has no place in them: it is taken to be what the register `idx` holds. -/
def loadRecOf (bs : List Byte) (idx : VData × BitVec 16) : LoadRec :=
  { cause := BitVec.ofNat 8 (natAt bs 0 1), detail := BitVec.ofNat 8 (natAt bs 1 1), addr := wordAt bs 8, desc := loadDescOf bs
    idxData := idx.1, idxTag := idx.2, again := bitOf (natAt bs 2 1) 4, spoilt := bitOf (natAt bs 2 1) 5 }

/-- An entry's 32 bytes: its three words. -/
def entryBytes (e : Option JEntry) : List Byte :=
  match e with
  | none => toBytes 32 0
  | some e => bytes64 (e.word 0) ++ bytes64 (e.word 1) ++ bytes64 (e.word 2) ++ toBytes 8 0

/-- An entry from its words and data; what they do not hold comes from `old`. -/
def entryOf (bs data : List Byte) (old : Option JEntry) (i : Nat) : Option JEntry :=
  let w1 := wordAt bs 8
  let w2 := wordAt bs 16
  let st := (w1.extractLsb' 37 2).toNat
  if st ≠ 1 ∧ st ≠ 2 then none
  else
    let len := (w1.extractLsb' 0 9).toNat
    let kind : BitVec 3 := w1.extractLsb' 29 3
    let n := match kind.toNat with | 0 => len | 1 => 4 | 3 => 8 | _ => 0
    some {
      addr := wordAt bs 0, seq := w1.extractLsb' 44 20, slot := w1.extractLsb' 40 4, last := w1.getLsbD 39
      refused := decide (st = 2), mark := w1.getLsbD 36, reason := w1.extractLsb' 32 4, kind := kind, svc := w1.getLsbD 28
      len := len, pc := (w2.extractLsb' 32 21).setWidth 64, asid := w2.extractLsb' 0 16, data := data.take n
      mask := (old.map fun e => e.mask).getD (List.replicate n 3)
      strm := (old.map fun e => e.strm).getD 0, dest := (old.map fun e => e.dest).getD 0, gen := (old.map fun e => e.gen).getD 0
      stamp := (old.map fun e => e.stamp).getD i, rep := (old.map fun e => e.rep).getD none
      rel := (old.map fun e => e.rel).getD false, prio := (old.map fun e => e.prio).getD 0
      ws := (old.map fun e => e.ws).getD [] }

/-- The 1 MiB of hart h. -/
def State.hartContext (s : State) (h : Nat) : List Byte :=
  let a := s.hart h
  sect 0x100000 (a.headerBytes h
    ++ ((List.range 32).flatMap fun i => bytes64 (a.rx (BitVec.ofNat 5 i)))
    ++ ((List.range 128).flatMap fun r => if savedCreg r then bytes64 (s.readCreg h r) else toBytes 8 0)
    ++ ((List.range 64).flatMap fun v =>
          toBytes 8 ((a.rv v).tag.toNat + (a.rv v).pi * 2 ^ 16 + flagNat (a.rv v).lrec.isSome 23))
    ++ ((List.range 16).flatMap fun k => PortBinding.bytes (a.rk (BitVec.ofNat 4 k)))
    ++ ((List.range 8).flatMap fun w => (a.rw w).bytes)
    ++ ((List.range 16).flatMap fun n => (a.slot n).bytes)
    ++ sect 0x400 (bytes64 a.copy.src ++ bytes64 a.copy.dst ++ bytes64 a.copy.len ++ bytes64 a.copy.stride
        ++ bytes64 a.copy.shape ++ bytes64 a.copy.bar)
    ++ ((List.range 96).flatMap fun p => toBytes 256 (a.rp (BitVec.ofNat 7 p)).toNat)
    ++ ((List.range 16).flatMap fun g => toBytes 1024 (a.rg g).toNat)
    ++ ((List.range 128).flatMap fun i => entryBytes (a.entry i))
    ++ ((List.range 128).flatMap fun i => sect 256 ((a.entry i).map fun e => e.data).toList.flatten)
    ++ ((List.range 64).flatMap fun v => sect 512 ((a.rv v).lrec.map LoadRec.bytes).toList.flatten)
    ++ ((List.range 64).flatMap fun v => toBytes 1024 (a.rv v).data.toNat)
    ++ s.tilePeek (tileOf h) a.gframe.start (4096 * a.gframe.used.toNat))

/-- A register from its VSTATE word and data. -/
def vecOf (st : Nat) (data : List Byte) : VecReg := savedRow (BitVec.ofNat 16 (st % 2 ^ 16)) data (min 64 (st / 2 ^ 16 % 128))

/-- The registers' load records, once every register stands. -/
def Hart.withRecords (a : Hart) (bs : List Byte) : Hart :=
  (List.range 64).foldl (fun b v =>
    if bitOf (natAt bs (0x600 + 8 * v) 8) 23 then
      let r := cut bs (0x14000 + 512 * v) 512
      let d := loadDescOf r
      b.wv v { b.rv v with lrec := some (loadRecOf r (a.indexOf d v)) }
    else b) a

/-- The vector instruction `ins` at address pc and depth td that goes on after a restore from bytes alone: of its rc destination rows those
below the first whose PI is below 64 are done, and that row goes on at its PI (01 R46; 16 R364). What it read at issue is what the
registers hold (log 6). Rows with a record of a cancelled load are GO's. -/
def Hart.derivedResume (a : Hart) (ins : Option Instr) (pc : W64) (td rc : Nat) : List Resume :=
  match ins.bind destRow with
  | none => []
  | some d =>
    match (List.range rc).find? fun j =>
        decide ((a.rv (d.toNat + j)).pi < 64) && !((a.rv (d.toNat + j)).lrec.any fun l => decide (l.cause = 0)) with
    | none => []
    | some j =>
      [{ pc := pc, dest := d.toNat, depth := 8 * a.gdepth.toNat + td, mid := false
         row := j, grp := (a.rv (d.toNat + j)).pi, read := a.issuedNow d.toNat }]

/-- The instruction at the PC, and in a handler also the one that trapped, whose RC the handler may have changed. -/
def Hart.derivedResumes (a : Hart) (ins : Nat → Option Instr) : List Resume :=
  a.derivedResume (ins a.pc.toNat) a.pc a.td.toNat a.rc
    ++ (if a.td = 0 then [] else a.derivedResume (ins a.trappc.toNat) a.trappc (a.td.toNat - 1) 8)

/-- The PAUSE or TIMEWAIT in progress, by the word at bytes 32 to 39. Where the bytes alone tell, a word of 0 is none; a PAUSE stands before
the PC, since it has completed but for the time it takes, and a TIMEWAIT at it, with STATE 3 outside a handler (04 R128, R137). -/
def waitOf (known : Option Hart) (before here : Option Instr) (st : Nat) (w : W64) : Option Nat × Option W64 :=
  let paused := match before with | some (.pause _ _) => decide (st ≠ 3) && decide (w.toNat < 2 ^ 16) | _ => false
  let timed := match here with | some (.timewait _ _ _) => true | _ => false
  match known with
  | some b => (if b.pause.isSome then some w.toNat else none, if b.timeTarget.isSome then some w else none)
  | none => if w = 0 then (none, none) else if paused then (some w.toNat, none) else if timed then (none, some w) else (none, none)

/-- A hart from its 1 MiB. `known` is the hart that was kept beside the same bytes; `ins` gives the instruction at an offset of its tile
store. -/
def hartOfContext (bs : List Byte) (known : Option Hart) (ins : Nat → Option Instr) : Hart :=
  let b := known.getD .init
  let creg := fun r => wordAt bs (0x200 + 8 * r)
  let hstat := creg 0
  let vcfg := creg 0x18
  let st := (hstat.extractLsb' 8 3).toNat
  let wait := waitOf known (ins (natAt bs 8 8 - 12)) (ins (natAt bs 8 8)) st (wordAt bs 32)
  let gf := wordAt bs 40
  let a : Hart := { b with
    pc := wordAt bs 8
    x := (List.range 31).foldl (fun m i => mput m (i + 1) (wordAt bs (0x108 + 8 * i))) b.x
    p := (List.range 95).foldl (fun m i => mput m (i + 1) (BitVec.ofNat 2048 (natAt bs (0x1100 + 256 * i) 256))) b.p
    v := (List.range 64).foldl (fun m v => mput m v (vecOf (natAt bs (0x600 + 8 * v) 8) (cut bs (0x1C000 + 1024 * v) 1024))) b.v
    g := (List.range 16).foldl (fun m i => mput m i (BitVec.ofNat 8192 (natAt bs (0x7000 + 1024 * i) 1024) &&& entryBits)) b.g
    k := (List.range 16).foldl (fun m i => mput m i (portOfBytes (cut bs (0x800 + 32 * i) 32))) b.k
    w := (List.range 8).foldl (fun m i => mput m i (waitTokOf (cut bs (0xA00 + 32 * i) 32))) b.w
    slots := (List.range 16).foldl (fun m i => mput m i (slotOf (cut bs (0xB00 + 16 * i) 16) (b.slot i).gen)) b.slots
    journal := (List.range 128).foldl (fun m i =>
      mput m i (entryOf (cut bs (0xB000 + 32 * i) 32) (cut bs (0xC000 + 256 * i) 256) (b.entry i) i)) b.journal
    copy := { src := wordAt bs 0xC00, dst := wordAt bs 0xC08, len := wordAt bs 0xC10 &&& 0xFFFFFFFF, stride := wordAt bs 0xC18
              shape := wordAt bs 0xC20 &&& 0x1FFFF, bar := wordAt bs 0xC28 }
    svc := hstat.getLsbD 0, kahn := hstat.getLsbD 1, port := hstat.extractLsb' 12 4
    own := match st with
      | 1 => .blockedRead | 2 => .blockedWrite | 3 => .waiting | 5 => .parked
      | 4 => (if b.own = .parked then .running else b.own) | _ => .running
    trappc := creg 1, trapcause := creg 2 &&& 0x3FF, trapaddr := creg 3, trapinfo := creg 4
    trapvec := (creg 5).setWidth 21, xbnd := (creg 6).setWidth 21
    trapvecF := (known.map fun k => k.trapvecF).getD ((creg 5).setWidth 21), xbndF := (known.map fun k => k.xbndF).getD ((creg 6).setWidth 21)
    fflags := (creg 0x10).setWidth 5, fctl := (creg 0x11).setWidth 2, wflag := (creg 0x12).setWidth 13
    vl := vcfg.setWidth 12, rcc := vcfg.extractLsb' 12 2, efmt := vcfg.extractLsb' 16 5
    tm := (creg 0x19).setWidth 7, tn := (creg 0x1A).setWidth 7, tk := (creg 0x1B).setWidth 6
    asid := (creg 0x20).setWidth 16, gtbase := (creg 0x21).setWidth 21, gtnent := (creg 0x21).extractLsb' 21 8
    gdepth := (creg 0x22).setWidth 3
    stguard := (List.range 8).foldl (fun m i => mput m i (creg (0x28 + i) &&& guardBits)) b.stguard
    budget := ((creg 0x49).extractLsb' 0 11).toNat, spent := ((creg 0x49).extractLsb' 16 11).toNat
    blkrd := creg 0x50, blkwr := creg 0x51
    rmrSvc := bitOf (natAt bs 24 1) 0, rmrKahn := bitOf (natAt bs 24 1) 1
    td := BitVec.ofNat 3 (natAt bs 25 1), unread := bitOf (natAt bs 26 1) 0
    nextXfer := BitVec.ofNat 16 (natAt bs 28 2)
    gframe := { size := gf.extractLsb' 32 21, used := gf.extractLsb' 21 10, base := gf.extractLsb' 0 21 }
    pause := wait.1, timeTarget := wait.2
    held := b.held || (decide (st = 4) && decide (natAt bs 25 1 = 0))
    pend := none, stalled := false }
  let a1 := a.withRecords bs
  { a1 with resume := if known.isSome then b.resume else a1.derivedResumes ins }

/-! ### A tile (16 R376) -/

/-- What has been read of the source unit that the next byte lies in; a piece on its way is read again. -/
def Xfer.kept (x : Xfer) : List Byte :=
  if x.off = 0 then [] else (x.piece.getD [] ++ x.ahead).take ((8 - x.src.toNat % 8) % 8)

def Xfer.bytes (x : Xfer) : List Byte :=
  sect 128 (toBytes 1 (1 + flagNat x.running 1) ++ toBytes 1 x.w.toNat ++ toBytes 2 x.id.toNat ++ toBytes 2 x.asid.toNat
    ++ toBytes 2 x.hart ++ toBytes 1 x.prio.toNat ++ toBytes 7 0 ++ bytes64 x.set.src ++ bytes64 x.set.dst ++ bytes64 x.set.len
    ++ bytes64 x.set.stride ++ bytes64 x.set.shape ++ bytes64 x.set.bar ++ toBytes 8 x.copied ++ toBytes 8 x.row ++ toBytes 8 x.off
    ++ toBytes 1 x.kept.length ++ sect 7 x.kept ++ toBytes 8 x.stamp)

/-- A queued transfer of tile t from its 128 bytes. -/
def xferOf (bs : List Byte) (t : Nat) : Option Xfer :=
  let f := natAt bs 0 1
  if bitOf f 0 then
    some {
      running := bitOf f 1, w := BitVec.ofNat 3 (natAt bs 1 1), id := BitVec.ofNat 16 (natAt bs 2 2)
      asid := BitVec.ofNat 16 (natAt bs 4 2), hart := 4 * t + natAt bs 6 2 % 4, prio := BitVec.ofNat 2 (natAt bs 8 1)
      set := { src := wordAt bs 16, dst := wordAt bs 24, len := wordAt bs 32, stride := wordAt bs 40, shape := wordAt bs 48
               bar := wordAt bs 56 }
      copied := natAt bs 64 8, row := natAt bs 72 8, off := natAt bs 80 8, ws := [], wait := none, piece := none
      ahead := cut bs 89 (natAt bs 88 1), stamp := natAt bs 96 8 }
  else none

def Acc.bytes (a : Acc) : List Byte :=
  sect 32 (toBytes 1 (flagNat a.isInt 0 + flagNat a.covered 1) ++ toBytes 1 (match a.owner with | some l => l + 1 | none => 0)
    ++ toBytes 1 a.flags.toNat ++ toBytes 5 0 ++ toBytes 8 a.poisoned.toNat)

def accOf (bs cells : List Byte) : Acc :=
  { isInt := bitOf (natAt bs 0 1) 0, covered := bitOf (natAt bs 0 1) 1
    owner := if natAt bs 1 1 = 0 then none else some (natAt bs 1 1 - 1)
    flags := BitVec.ofNat 5 (natAt bs 2 1), poisoned := BitVec.ofNat 64 (natAt bs 8 8)
    cells := (List.range 4096).foldl (fun m i => mset 0 m i (BitVec.ofNat 32 (natAt cells (4 * i) 4))) [] }

/-! A stream's record: sender, number, next SEQ, where it lies, the SEQs from the next on that have been dropped, its binding and whether
its next member is being performed. Its held members follow in HELD, each with its stream's place in the list. -/

def StreamSt.bytes (ep : Nat) (x : StreamSt) : List Byte :=
  sect 32 (toBytes 3 (x.sender + 1) ++ toBytes 1 x.num.toNat ++ toBytes 3 x.next.toNat ++ toBytes 1 (flagNat x.busy.isSome 0)
    ++ toBytes 4 ep ++ toBytes 4 0
    ++ toBytes 8 (((List.range 64).filter fun i => x.skips.contains (x.next + BitVec.ofNat 20 i)).foldl (fun n i => n + 2 ^ i) 0)
    ++ toBytes 8 x.gen)

/-- A held member in 512 bytes, with the number of its stream's record. -/
def memberBytes (i : Nat) (p : Packet) : List Byte :=
  match p.msg with
  | .write h n e =>
    sect 256 (toBytes 2 (i + 1) ++ toBytes 2 n ++ toBytes 8 h ++ toBytes 4 p.src ++ toBytes 8 p.id ++ toBytes 8 p.home
      ++ toBytes 1 p.prio.toNat ++ toBytes 1 (match p.part with | some q => q + 1 | none => 0) ++ toBytes 8 e.gen ++ toBytes 8 e.stamp
      ++ bytes64 e.dest ++ toBytes 1 e.strm.toNat ++ toBytes 1 (flagNat e.rel 0) ++ toBytes 1 e.prio.toNat
      ++ bytes64 (e.word 0) ++ bytes64 (e.word 1) ++ bytes64 (e.word 2)
      ++ sect 64 ((List.range 64).map fun k => BitVec.ofNat 8 (((List.range 4).map fun m => (e.mask.getD (4 * k + m) 0).toNat * 4 ^ m).foldl (· + ·) 0)))
      ++ sect 256 e.data
  | _ => toBytes 512 0

/-- The member of 512 bytes, and the number of its stream's record; `ep` is where it is held. -/
def memberOfBytes (bs : List Byte) (ep : Nat) : Option (Nat × Packet) :=
  if natAt bs 0 2 = 0 then none
  else
    (entryOf (cut bs 69 24) (cut bs 256 256) none 0).map fun e =>
      (natAt bs 0 2 - 1,
        { id := natAt bs 16 8, src := natAt bs 12 4, dst := .ep ep, vc := 1, prio := BitVec.ofNat 2 (natAt bs 32 1), bank := false
          part := if natAt bs 33 1 = 0 then none else some (natAt bs 33 1 - 1), hops := 0, home := natAt bs 24 8, dl := 0
          msg := .write (natAt bs 4 8) (natAt bs 2 2)
            { e with gen := natAt bs 34 8, stamp := natAt bs 42 8, dest := wordAt bs 50, strm := BitVec.ofNat 8 (natAt bs 58 1)
                     rel := bitOf (natAt bs 59 1) 0, prio := BitVec.ofNat 2 (natAt bs 60 1), data := cut bs 256 e.data.length
                     mask := (List.range e.data.length).map fun k => BitVec.ofNat 2 (natAt bs (93 + k / 4) 1 / 4 ^ (k % 4)) } })

/-- The streams that tile t's context holds: those of its yard, and those of its harts at the memory stations (14 R351). -/
def State.streamsOf (s : State) (t : Nat) : List (Nat × StreamSt) :=
  (s.tile t).streams.map (fun x => (t, x))
    ++ s.stations.flatMap fun e => (e.2.streams.filter fun x => decide (tileOf x.sender = t)).map fun x => (stEp e.1, x)

/-- The stream of record i. -/
def streamOfBytes (r : List Byte) (held : List Packet) : StreamSt :=
  let next := BitVec.ofNat 20 (natAt r 4 3)
  { sender := natAt r 0 3 - 1, num := BitVec.ofNat 8 (natAt r 3 1), next := next, held := held
    skips := ((List.range 64).filter fun i => bitOf (natAt r 16 8) i).map fun i => next + BitVec.ofNat 20 i
    busy := if bitOf (natAt r 7 1) 0 then held.find? fun p => decide (memberSeq p = next) else none
    gen := natAt r 24 8 }

/-- The streams of a tile context, each with where it lies. -/
def streamsOfContext (tc : List Byte) : List (Nat × StreamSt) :=
  (List.range 256).filterMap fun i =>
    let r := cut tc (0x11000 + 32 * i) 32
    if natAt r 0 3 = 0 then none
    else
      let ep := natAt r 8 4
      let held := (List.range 1024).filterMap fun k => match memberOfBytes (cut tc (0x13000 + 512 * k) 512) ep with
        | some (j, p) => if j = i then some p else none
        | none => none
      some (ep, streamOfBytes r held)

/-- Segments of the growths of a platform of depth c that has n of them, growth by growth (09 R271). -/
def growSizes (c n : Nat) : List Nat :=
  (List.range n).foldl (fun (x : List Nat × Nat × Nat) _ => if n ≤ x.2.2 then x else (x.1 ++ [growSegs x.2.1], 2 * x.2.1, x.2.2 + growSegs x.2.1))
    ([], c, 0) |>.1
/-- The first segment of each growth. -/
def growStarts : List Nat → List Nat → List Nat
  | [], _ => []
  | n :: r, gs => gs.headD 0 :: growStarts r (gs.drop n)
/-- The segments of growths that begin at `starts`. -/
def growRuns : List Nat → List Nat → List Nat
  | n :: r, g :: gs => (List.range n).map (fun i => g + i) ++ growRuns r gs
  | _, _ => []

/-- A platform's descriptor, with what 09 R258 gives its channel: channel, platform, capacity, head, count, S(p), place, whether its
writer has ended, the strip counter or turn, how many segments it has, and the first segment of each of its growths: ten here, and thirteen in
each further descriptor, which byte 23 marks as a continuation. -/
def platBytes (c i : Nat) (x : Chan) : List Byte :=
  let p := x.plat i
  let starts := growStarts (growSizes x.depth p.segs.length) p.segs
  let rest := starts.drop 10
  sect 64 (toBytes 2 c ++ toBytes 2 i ++ toBytes 4 p.cap ++ toBytes 4 p.head ++ toBytes 4 p.toks.length ++ toBytes 4 (x.slotCount i)
    ++ toBytes 3 p.base ++ toBytes 1 (1 + flagNat (x.ended.contains i) 1)
    ++ toBytes 4 (match x.mode with | .deal => x.strip % max 1 x.f | _ => x.turn) ++ toBytes 4 p.segs.length
    ++ (starts.take 10).flatMap fun g => toBytes 3 g)
    ++ (List.range ((rest.length + 12) / 13)).flatMap fun k =>
      sect 64 (toBytes 2 c ++ toBytes 2 i ++ toBytes 19 0 ++ toBytes 1 4 ++ ((rest.drop (13 * k)).take 13).flatMap fun g => toBytes 3 g)

/-- The platforms whose reader is on tile t: channel, its index, and the channel as bound. -/
def State.platsAt (s : State) (p t : Nat) : List (Nat × Nat × Chan) :=
  (s.part p).chans.flatMap fun e => e.2.plats.filterMap fun q =>
    match e.2.readerOf q.1 with
    | some (.hart h _) => if tileOf h = t then some (e.1, q.1, e.2) else none
    | _ => none

/-- The marks of a platform's tile-store part, by place: 2 bits each, END below SEND; a place without a token has none. -/
def platMarks (x : Chan) (i : Nat) : List Byte :=
  let p := x.plat i
  let mark := fun (pos : Nat) =>
    if pos < x.depth then
      match p.toks[(pos + p.cap - p.head) % max 1 p.cap]? with
      | some t => flagNat t.isEnd 0 + flagNat t.stripEnd 1
      | none => 0
    else 0
  (List.range ((x.depth + 3) / 4)).map fun k =>
    BitVec.ofNat 8 (((List.range 4).map fun m => mark (4 * k + m) * 4 ^ m).foldl (· + ·) 0)

/-- The parked packets of tile t's junction, in parking order. -/
def Partition.parkedAt (a : Partition) (t : Nat) : List Packet := (a.parked.filter fun e => decide (e.1 = t)).map fun e => e.2

/-- The 1 MiB context of tile t of partition p. -/
def State.tileContext (s : State) (p t : Nat) : List Byte :=
  let x := s.tile t
  let parked := ((s.part p).parkedAt t).flatMap packetBytes
  let ps := s.platsAt p t
  let ss := s.streamsOf t
  sect 0x100000 (sect 0x100 (toBytes 4 0x00015458 ++ toBytes 2 1 ++ toBytes 2 t ++ toBytes 4 (parked.length / 64))
    ++ sect 0x100 ((List.range 4).flatMap fun m => (x.accum m).bytes)
    ++ sect 0xE00 (x.copyq.flatMap Xfer.bytes)
    ++ ((List.range 4).flatMap fun m => (List.range 4096).flatMap fun i => toBytes 4 (mget 0 (x.accum m).cells i).toNat)
    ++ sect 0x2000 (ss.flatMap fun e => e.2.bytes e.1)
    ++ sect 0x80000 ((ss.mapIdx fun i e => (i, e)).flatMap fun e => e.2.2.held.flatMap fun q => memberBytes e.1 q)
    ++ sect 0x4000 (ps.flatMap fun e => platBytes e.1 e.2.1 e.2.2)
    ++ sect 0x2000 (ps.flatMap fun e => platMarks e.2.2 e.2.1)
    ++ sect 0x67000 parked)

/-- A tile from its context, over what its own stays: its yard's streams among `ss`. -/
def tileOfContext (bs : List Byte) (t : Nat) (b : Tile) (ss : List (Nat × StreamSt)) : Tile :=
  { b with
    acc := (List.range 4).foldl (fun m i => mput m i (accOf (cut bs (0x100 + 32 * i) 32) (cut bs (0x1000 + 16384 * i) 16384))) b.acc
    mq := []
    copyq := (List.range 16).filterMap fun i => xferOf (cut bs (0x200 + 128 * i) 128) t
    streams := (ss.filter fun e => decide (e.1 = t)).map fun e => e.2 }

end Sys2Proof.Machine
end

