-- ==== Sys2Proof/Machine/Switch.lean ====
section
/-! DEFINITION. Gang switches and checkpoints (16 R371 to R380; 19 R432): stopping, parking, SAVE, LOAD, GO, release, the checkpoint's
manifest and its restore. -/

namespace Sys2Proof.Machine

/-! ### Stopping (16 R372) -/

/-- The harts that a switch stops: all but the supervisor. -/
def Partition.stops (a : Partition) : List Nat := a.harts.filter fun h => decide (h ≠ a.sup)

/-- Step 1 and 2: TTNEXT becomes all ones, and every hart stops that does not wait for the reply of a load or atomic (07 R241);
one that does stops when the reply has come, and one that unwinds a gate call when the caller's domain is back (18 R414). -/
def State.stopGang (s : State) (p : Nat) : State :=
  let a := s.part p
  let s1 := s.setPart p { a with ttnext := BitVec.allOnes 64, stopping := true, sb := .switch, sweep := none }
  a.stops.foldl (fun s h =>
    if (s.hart h).stopped || (s.hart h).unwind.isSome then s
    else match (s.hart h).pend with
      | none => s.stopHart h
      | some { kind := .bwait _, .. } => s.stopHart h
      | some _ => s) s1

/-- TIME has reached TTNEXT of a bound partition that is not at a switch already. -/
def State.switchDue (s : State) (p : Nat) : Bool :=
  let a := s.part p
  a.bound && !a.loading && !a.stopping && !a.stopped && !a.going && decide (a.ttnext.toNat ≤ s.time.toNat)

def execGangSwitchStop (part : Nat) (s : State) : Out := .next (if s.switchDue part then s.stopGang part else s)

/-- Every hart that the switch stops has stopped. -/
def State.allStopped (s : State) (p : Nat) : Bool := (s.part p).stops.all fun h => (s.hart h).stopped

/-- A row whose load has not finished keeps its PI and takes a record with cause 0 and P = 0 (16 R372 step 3). -/
def VecReg.cancel (r : VecReg) : VecReg :=
  match r.flight with
  | none => r
  | some f =>
    { r with
      tag := cleanTag r.tag, flight := none
      lrec := some { desc := f.desc, cause := 0, addr := f.desc.base, detail := 0, idxData := f.idxData, idxTag := f.idxTag
                     again := f.again, spoilt := f.spoilt } }

def Hart.cancelLoads (a : Hart) : Hart := { a with v := a.v.map fun e => (e.1, e.2.cancel) }

/-- A packet that nothing waits for any longer: of a load that was cancelled, or of a BWAIT that was given up. -/
def State.stale (s : State) (q : Packet) : Bool :=
  match q.msg with
  | .elems h id v _ _ _ _ | .elemsRep h id v _ _ => decide (h < 4096) && !((s.hart h).rv v).flight.any fun f => decide (f.id = id)
  | .atomic h id (.bwait _) _ _ _ _ => decide (h < 4096) && !(s.hart h).pend.any fun w => decide (w.id = id)
  | _ => false

def execLoadCancel (part : Nat) (s : State) : Out :=
  let a := s.part part
  .next (if a.stopping && s.allStopped part then
      let s1 := a.stops.foldl (fun s h => s.modHart h Hart.cancelLoads) s
      { s1 with arrived := s1.arrived.filter fun q => !s1.stale q }
    else s)

/-! ### Parking (16 R372 step 4) -/

/-- The flits that stand in a junction's buffers, or wait there to be injected, input by input in their order. -/
def Junction.flits (j : Junction) : List Flit := (j.bufs.flatMap fun e => e.2) ++ j.inq.flatMap fun e => e.2

/-- The least number among the flits of packet i in a junction, if any stands there: where the packet is furthest. -/
def Junction.front (j : Junction) (i : Nat) : Option Nat :=
  (j.flits.filter fun f => decide (f.pkt.id = i)).foldl (fun m f => some (match m with | none => f.idx | some n => min n f.idx)) none

/-- Insert a flit by the step at which it came, and by its packet's number. -/
def insertFlit (x : Flit) : List Flit → List Flit
  | [] => [x]
  | y :: r => if x.at_ < y.at_ || (x.at_ = y.at_ && x.pkt.id < y.pkt.id) then x :: y :: r else y :: insertFlit x r

/-- The partition's packets that stand furthest at junction t, in the order in which they came, and behind them those that wait to leave the
module at its link station. A multicast is none of them: a network's loads are over before any hart of it runs. -/
def State.packetsAt (s : State) (p t : Nat) : List Packet :=
  let j := (s.tile t).jn
  (((j.flits.filter fun f => s.holds p f.pkt && decide (j.front f.pkt.id = some f.idx) && !s.stale f.pkt
    && s.tiles.all fun e => decide (e.1 = t) || match e.2.jn.front f.pkt.id with
      | none => true
      | some n => decide (f.idx < n)).foldl (fun l x => insertFlit x l) []).map fun f => f.pkt)
    ++ s.links.flatMap fun e =>
      if stationTile (21 + e.1) = t then (e.2.queued s.node e.1).filter fun q => s.holds p q && !s.stale q else []

/-- As many of the packets as the parking area of a tile slot holds: 0x6_7000 bytes (16 R376). -/
def parkRoom : List Packet → Nat → List Packet
  | [], _ => []
  | p :: r, n => if p.msg.flits * 64 + n ≤ 0x67000 then p :: parkRoom r (n + p.msg.flits * 64) else []

/-- Without the packets numbered in `is`: their outputs are free, and what stood behind them starts anew. -/
def Junction.drop (j : Junction) (is : List Nat) : Junction :=
  let gone := fun (f : Flit) => is.contains f.pkt.id
  let begun := j.hold.filterMap fun e => (e.2.filter fun x => is.contains x.2).map fun x => x.1
  let j1 := { j with
    bufs := j.bufs.map fun e => (e.1, e.2.filter fun f => !gone f), inq := j.inq.map fun e => (e.1, e.2.filter fun f => !gone f)
    hold := j.hold.map fun e => (e.1, e.2.filter fun x => !is.contains x.2) }
  (List.range 36).foldl (fun k i => (if (j.buf i).head?.any gone || begun.contains i then k.freshAge i else k).refill i) j1

/-- The packets of a list leave the mesh and the link stations. -/
def State.withdraw (s : State) (qs : List Packet) : State :=
  let ids := qs.map fun q => q.id
  let s1 := qs.foldl State.outOfFlight s
  { s1 with
    tiles := s1.tiles.map fun e => (e.1, { e.2 with jn := e.2.jn.drop ids })
    links := s1.links.map fun e => (e.1, e.2.without ids) }

/-- The partition's packets in the mesh and at the link stations. -/
def State.aboutOf (s : State) (p : Nat) : List Packet :=
  ((s.tiles.flatMap fun e => e.2.jn.flits.map fun f => f.pkt).filter (s.holds p)).eraseDups
    ++ s.links.flatMap fun e => (e.2.queued s.node e.1).filter (s.holds p)

/-- Every packet of the partition that is in the mesh or at a link station leaves it for the parking area of the junction that it has
reached. One that its area has no room for stalls at its source: it is injected after resume, in its source's order (16 R376). The manual
gives a tile slot to the partition's tiles alone; DESIGN CHOICE (log 27): what is parked at another tile's junction is kept as well, and is
part of no tile's context. -/
def State.parkAll (s : State) (p : Nat) : State :=
  let ts := ((s.tiles.map fun e => e.1) ++ (s.links.map fun e => stationTile (21 + e.1))).eraseDups
  let park := ts.flatMap fun t => (parkRoom (s.packetsAt p t) 0).map fun q => (t, q)
  let wait := ts.flatMap fun t => (s.packetsAt p t).drop (parkRoom (s.packetsAt p t) 0).length
  (s.withdraw (s.aboutOf p)).modPart p fun a => { a with parked := a.parked ++ park, late := a.late ++ wait }

/-! ### Checkpoints that are due (16 R377; 01 R42) -/

def State.ckTimeDue (s : State) (p : Nat) : Bool :=
  let a := s.part p
  a.ckEn && decide (a.ckLast + a.ckPeriod.toNat * 1000000 ≤ s.time.toNat)

def Partition.stepDue (a : Partition) : Bool := decide (a.thresh ≠ 0) && decide (a.thresh.toNat ≤ a.count.toNat)

/-- Wilnil schedules a switch for a checkpoint within PERIOD / 16 of the time at which it falls due (16 R377, 19 R433): the earlier of the
switch that is scheduled already and one at a free moment of that span. -/
def State.scheduleSwitch (s : State) (p : Nat) : State :=
  s.modPart p fun a =>
    let at_ := s.time + BitVec.ofNat 64 (Config.freeChoice s.tick 8 % (a.ckPeriod.toNat * 1000000 / 16 + 1))
    if a.ckEn && decide (at_.toNat < a.ttnext.toNat) && !a.stopping && !a.stopped && !a.going then { a with ttnext := at_ } else a

/-- A checkpoint falls due. -/
def execCheckpointDue (part : Nat) (s : State) : Out :=
  .next (if (s.part part).bound && !(s.part part).ckDue && (s.ckTimeDue part || (s.part part).stepDue) then
      (s.modPart part fun a => { a with ckDue := true }).scheduleSwitch part
    else s)

/-! ### STOPPED (16 R372 step 5) -/

/-- The arrival at SWBAR, a BARA of 1 that the service station performs; one that its owner refuses has no effect. -/
def State.arriveSwbar (s : State) (p : Nat) : State :=
  let a := s.part p
  let b := a.swBar
  match s.ptrTrap [0, 1, 2, 3] b 32 32 with
  | some _ => s
  | none =>
    let e := { Hart.mkEntry .init (ctlYld false) 3 0 false false true 0 { addr := b, data := toBytes 8 1, mask := [] } with prio := 3, ws := [] }
    if winOf b = 3 then s.send (stEp 29) (.node (nodeOf b)) 3 (some p) (.write a.sup 128 e)
    else
      let ep := match winOf b with | 0 => tileOf a.sup | 1 => tileIdOf b | _ => stEp (vaOf b / 4096 % 16)
      match s.performEntry ep a.sup e with
      | .ok s1 => s1
      | .error _ => s

/-- No matrix operation of the partition's tiles is queued (06 R200). -/
def State.arraysIdle (s : State) (p : Nat) : Bool :=
  (s.part p).tiles.all fun t => (List.range 4).all fun l => ((s.tile t).queue l).isEmpty

/-- Nothing of the partition has been ejected and not yet been performed, but for a skip that waits for its stream's number. -/
def State.allPerformed (s : State) (p : Nat) : Bool :=
  s.arrived.all fun q => !s.holds p q || match q.msg with | .skip _ _ _ _ _ => true | _ => false

/-- Where the slot of the n-th tile lies; SWCFG ignores BASE[22:0] (16 R371). -/
def Partition.slotAt (a : Partition) (n : Nat) : Nat := a.swBase.toNat / 2 ^ 23 * 2 ^ 23 + n * 2 ^ 23

/-- The partition's tiles in ascending tile id, numbered. -/
def Partition.slots (a : Partition) : List (Nat × Nat) := a.tiles.mapIdx fun i t => (i, t)

/-- The parking areas of the tile slots take the parked packets (16 R372 step 4, R376). -/
def State.writePark (s : State) (p : Nat) : State :=
  (s.part p).slots.foldl (fun s e =>
    s.svcWrite ((s.part p).slotAt e.1 + 0x299000) (((s.part p).parkedAt e.2).flatMap packetBytes)) s

def execSwitchStopped (part : Nat) (s : State) : Out :=
  let a := s.part part
  let idle := (a.stops.all fun h => (s.hart h).noFlight) && s.arraysIdle part && s.allPerformed part
  .next (if a.stopping && s.allStopped part && idle then
      let s1 := s.parkAll part
      let due := a.ckDue || a.stepDue || s.ckTimeDue part
      let s2 := s1.modPart part fun q => { q with stopping := false, stopped := true, savePend := due, ckWriting := due, swTime := s.time }
      (s2.writePark part).arriveSwbar part
    else s)

/-! ### SAVE (16 R373, R375, R376) -/

/-- The protected units that the bytes from lo to hi − 1 lie in. -/
def unitsOf (lo hi : Nat) : List Nat := ((List.range (hi - lo)).map fun i => unitOf (lo + i)).eraseDups

/-- The poison of the run of n bytes at a, moved with its bytes to b (19 R430: no soft error is delivered as data). -/
def movePoison (ps : List Nat) (a n b : Nat) : List Nat :=
  (ps.filter fun u => decide (u < a + n) && decide (a < u + unitLen u)).flatMap fun u =>
    unitsOf (b + (max u a - a)) (b + (min (u + unitLen u) (a + n) - a))

/-- The physical runs that a virtual range reaches, and the poison of a store carried to them. -/
def State.svcMovePoison (s : State) (a va n : Nat) : State :=
  match s.translateAll (svcStation va) 0 kWrite false va n (n / 65536 + 2) with
  | none => s
  | some (runs, s1) =>
    let step := fun (x : Nat × List Nat) (r : Nat × Nat) => (x.1 + r.2, x.2 ++ movePoison s.poison (a + x.1) r.2 r.1)
    { s1 with poison := s1.poison ++ (runs.foldl step (0, [])).2 }

/-- Write the slot of the n-th tile t. -/
def State.saveTile (s : State) (p n t : Nat) : State :=
  let base := (s.part p).slotAt n
  let tc := s.tileContext p t
  let hs := (hartsOf t).map fun h => (h, s.hartContext h)
  let s1 := ((s.svcWrite base (s.peek (storeBase t) (2 ^ 21))).svcMovePoison (storeBase t) base (2 ^ 21)).svcWrite (base + 0x200000) tc
  let s2 := hs.foldl (fun s e => s.svcWrite (base + 0x300000 + 0x100000 * (e.1 % 4)) e.2) s1
  { s2 with
    savedTiles := { bytes := tc, copyq := (s.tile t).copyq, parked := (s.part p).parkedAt t } :: s2.savedTiles
    savedHarts := (hs.map fun e => { bytes := e.2, hart := s.hart e.1 }) ++ s2.savedHarts }

def State.saveAll (s : State) (p : Nat) : State := (s.part p).slots.foldl (fun s e => s.saveTile p e.1 e.2) s

/-! ### LOAD (16 R373) -/

/-- Open slots and their entries take names of bindings where the saved context knew none. -/
def Hart.nameSlots (a : Hart) (g : Nat) : Hart :=
  let slots := a.slots.map fun e => (e.1, if e.2.gen = 0 && (e.2.isOpen || e.2.closing) then { e.2 with gen := g + e.1 } else e.2)
  let b := { a with slots := slots }
  { b with journal := b.journal.map fun e => (e.1, e.2.map fun j =>
      if j.slot ≠ 0 && j.gen = 0 then
        let sl := b.slot j.slot.toNat
        { j with gen := sl.gen, strm := sl.num, dest := sl.ptr }
      else j) }

/-- The open gate calls of a hart whose context gives no more than its frames: `d` calls, the outermost frame at offset o, newest call
first. A frame names its gate, whose entry gives its size and the callee's ASID (18 R406, R411). The caller's bindings take new names
from g on (log 7). -/
def State.framesOf (s : State) (h : Nat) : Nat → Nat → Nat → List GCall
  | 0, _, _ => []
  | d + 1, o, g =>
    let e := s.gateEntry h (natAt (s.tilePeek (tileOf h) (o + 0xA9) 1) 0 1)
    s.framesOf h d (o + 4096 * e.frame) (g + 4)
      ++ [{ units := e.frame, stamp := 0, casid := e.casid, tvecF := BitVec.ofNat 21 (natAt (s.tilePeek (tileOf h) (o + 0x50) 8) 0 8)
            gens := (List.range 4).map fun i => g + i }]

/-- The context of hart h from its bytes: with what was kept beside the same bytes, if they were saved here (log 27). A hart that the ROM
handler holds stays held (16 R368). -/
def State.loadHart (s : State) (p h : Nat) (bs : List Byte) : State :=
  let t := tileOf h
  let old := s.hart h
  let known := (s.savedHarts.find? fun e => decide (e.bytes = bs)).map fun e => e.hart
  let a := (hartOfContext bs known (s.storedInstr t)).nameSlots (s.nextStamp + 1)
  let a1 := { a with
    part := some p, stopped := true, held := old.held || a.held, blkSince := s.cycle t, syncAt := s.stlog.length }
  let s1 := ({ s.setHart h a1 with nextStamp := a1.w.foldl (fun n (e : Nat × WaitTok) => max n ((e.2.fail.map fun (f : CopyFail) => f.stamp + 1).getD 0)) (s.nextStamp + 34) }).tilePoke t a1.gframe.start (cut bs 0x2C000 (min 0xD4000 (natAt bs 16 8)))
  if known.isSome then s1
  else s1.modHart h fun a => { a with gcalls := s1.framesOf h a.gdepth.toNat a.gframe.start (s.nextStamp + 18) }

/-- Token k of the platform whose descriptor is d, in a channel of depth `depth`: from the tile store, or from mortar (09 R252, R271). -/
def State.savedToken (s : State) (p t : Nat) (d marks : List Byte) (depth : Nat) (segs : List Nat) (k : Nat) : Token :=
  let a := s.part p
  let base := natAt d 20 3
  let pos := (natAt d 8 4 + k) % max 1 (natAt d 4 4)
  let of := fun (v : W64) (m : Nat) (at_ : Option Nat) =>
    ({ data := v, isEnd := bitOf m 0, stripEnd := bitOf m 1, bad := at_.any fun o => (firstPoison s.poison o 8).isSome } : Token)
  if pos < depth then
    let o := storeBase t + base + 8 * pos
    of (s.peek64 o) (natAt marks (pos / 4) 1 / 4 ^ (pos % 4) % 4) (some o)
  else
    let g := segs.getD ((pos - depth) / 512) 0
    let j := (pos - depth) % 512
    let va := a.spillBase + 65536 + a.markBytes + 4096 * g + 8 * j
    of (wordAt ((s.svcRead va 8).getD []) 0)
      (natAt ((s.svcRead (a.spillBase + 65536 + 128 * g + j / 4) 1).getD []) 0 1 / 4 ^ (j % 4) % 4) (s.svcPhys va)

/-- The platform of a descriptor: `more` are the growths that its continuations name. -/
def State.savedPlat (s : State) (p t : Nat) (d marks : List Byte) (depth : Nat) (more : List Nat) : Platform :=
  let sizes := growSizes depth (natAt d 28 4)
  let segs := growRuns sizes ((List.range 10).map (fun i => natAt d (32 + 3 * i) 3) ++ more)
  { cap := natAt d 4 4, base := natAt d 20 3, head := natAt d 8 4 % max 1 (natAt d 4 4), segs := segs
    toks := (List.range (natAt d 12 4)).map (s.savedToken p t d marks depth segs) }

/-- The channel with one descriptor of a tile context taken back. -/
def Chan.takePlat (x : Chan) (d : List Byte) (q : Platform) : Chan :=
  let i := natAt d 2 2
  let v := natAt d 24 4
  let y := { x.setPlat i q with
    slots := mput x.slots i (natAt d 16 4)
    ended := if bitOf (natAt d 23 1) 1 then (if x.ended.contains i then x.ended else i :: x.ended) else x.ended.filter fun j => decide (j ≠ i) }
  match x.mode with
  | .deal => { y with strip := v }
  | _ => { y with turn := v }

/-- The platforms of a tile's context are taken back, as far as they fit in 256 KiB (09 R265). -/
def State.loadPlats (s : State) (p t : Nat) (tc : List Byte) : State :=
  ((List.range 256).foldl (fun (x : State × Nat × Nat) i =>
    let rec_ := fun k => cut tc (0x93000 + 64 * k) 64
    let d := rec_ i
    let more := (((List.range 256).drop (i + 1)).takeWhile fun k => bitOf (natAt (rec_ k) 23 1) 2).flatMap fun k =>
      (List.range 13).map fun m => natAt (rec_ k) (24 + 3 * m) 3
    let c := natAt d 0 2
    if natAt d 23 1 % 2 = 0 || !((x.1.part p).chans.any fun e => decide (e.1 = c)) then x
    else
      let ch := x.1.chan p c
      let room := x.2.1 + 8 * ch.depth
      let off := x.2.2 + (ch.depth + 3) / 4
      if 0x40000 < room then (x.1, x.2.1, off)
      else
        (x.1.setChan p c (ch.takePlat d (x.1.savedPlat p t d (tc.drop (0x97000 + x.2.2)) ch.depth more)), room, off))
    (s, 0, 0)).1

/-- Hart h takes the context at its place: a hart of the partition but its supervisor, or a free hart that Wilnil has moved a running
context to (09 R264; log 39). -/
def State.takesContext (s : State) (p h : Nat) (bs : List Byte) : Bool :=
  if (s.part p).sup = h then false
  else (s.part p).harts.contains h
    || (s.hart h).part.isNone && decide (natAt bs 0 4 = 0x00014358) && decide ((wordAt bs 0x200).extractLsb' 8 3 ≠ 5)

/-- Hart h belongs to partition p. -/
def State.joinPart (s : State) (p h : Nat) : State :=
  s.modPart p fun a => if a.harts.contains h then a else { a with harts := a.harts ++ [h] }

/-- The streams of tile t's harts at the memory stations stand as its context has them (14 R351). -/
def State.loadStreams (s : State) (t : Nat) (ss : List (Nat × StreamSt)) : State :=
  (List.range 30).foldl (fun s n =>
    let mine := (ss.filter fun e => decide (e.1 = stEp n)).map fun e => e.2
    if mine.isEmpty && (s.station n).streams.all fun x => decide (tileOf x.sender ≠ t) then s
    else s.modStation n fun x => { x with streams := (x.streams.filter fun y => decide (tileOf y.sender ≠ t)) ++ mine }) s

/-- The queue of a tile with what the bytes have no room for: from the queue kept beside them, or the windows of the launching hart. -/
def State.fillQueue (s : State) (known : Option SavedTile) (q : List Xfer) : List Xfer :=
  match known with
  | some k => k.copyq
  | none => q.map fun x => { x with ws := (s.hart x.hart).windows }

/-- The counts of 09 R267 follow the channel packets that stand parked: those of `old` stand no longer, those of `new` do now. -/
def State.recount (s : State) (old new : List Packet) : State :=
  let bump := fun (d : Int) (s : State) (q : Packet) => match q.msg.chanPart with
    | none => s
    | some p => if q.src < 1024 then s.modTile q.src fun t => { t with inj := mput t.inj p (mget 0 t.inj p + d).toNat }
        else s.modStation (q.src - 1024) fun x => { x with inj := mput x.inj p (mget 0 x.inj p + d).toNat }
  new.foldl (bump 1) (old.foldl (bump (-1)) s)

/-- The packet of a run of bytes: the one that was parked as these bytes, else what they read as. -/
def State.packetOf (s : State) (bs : List Byte) : Option Packet :=
  match (s.savedTiles.flatMap fun e => e.parked).find? fun q => decide (packetBytes q = bs) with
  | some q => some q
  | none => packetRead (bs.drop 2)

/-- The packets of a parking area. -/
def State.readPark (s : State) : Nat → List Byte → List Packet
  | 0, _ => []
  | f + 1, bs =>
    let n := 64 * leNat (bs.take 2)
    if n = 0 || bs.length < n then [] else (s.packetOf (bs.take n)).toList ++ s.readPark f (bs.drop n)

/-- Read the slot of the n-th tile t back. -/
def State.loadTile (s : State) (p n t : Nat) : State :=
  let base := (s.part p).slotAt n
  match s.svcRead base (2 ^ 21), s.svcRead (base + 0x200000) 0x100000 with
  | some (img : List Byte), some (tc : List Byte) =>
    let s1 := s.poke (storeBase t) img
    let s2 := { s1 with poison := s1.poison ++ (match s.translateAll (svcStation base) 0 kRead false base (2 ^ 21) 34 with
      | none => []
      | some (runs, _) => (runs.foldl (fun (x : Nat × List Nat) (r : Nat × Nat) =>
          (x.1 + r.2, x.2 ++ movePoison s.poison r.1 r.2 (storeBase t + x.1))) (0, [])).2) }
    let known := s.savedTiles.find? fun e => decide (e.bytes = tc)
    let park : List Packet := match known with
      | some k => k.parked
      | none => s2.readPark 7000 ((tc.drop 0x99000).take (64 * natAt tc 8 4))
    let ss := streamsOfContext tc
    let s3 := ((((s2.recount ((s2.part p).parkedAt t) park).setTile t (tileOfContext tc t (s2.tile t) ss)).loadStreams t
        ss).loadPlats p t tc).modPart p fun a =>
      { a with parked := (a.parked.filter fun (e : Nat × Packet) => decide (e.1 ≠ t)) ++ park.map fun q => (t, q) }
    let s4 := (hartsOf t).foldl (fun s h =>
      match s.svcRead (base + 0x300000 + 0x100000 * (h % 4)) 0x100000 with
      | some bs => if s.takesContext p h bs then (s.loadHart p h bs).joinPart p h else s
      | none => s) s3
    let q := s4.fillQueue known (s4.tile t).copyq
    { s4 with nextStamp := q.foldl (fun n (x : Xfer) => max n (x.stamp + 1)) s4.nextStamp }.modTile t fun x => { x with copyq := q }
  | _, _ => s

/-- Every channel's ends are the ports that the partition's harts now bind: a context that Wilnil has moved in the switch region keeps its
channels (09 R264, R265; log 39). -/
def State.rebindEnds (s : State) (p : Nat) : State :=
  (s.part p).harts.foldl (fun s h =>
    (s.hart h).k.foldl (fun s e =>
      match e.2 with
      | none => s
      | some b =>
        let x : ChanEnd := .hart h (BitVec.ofNat 4 e.1)
        if b.part ≠ p || !((s.part p).chans.any fun c => decide (c.1 = b.chan)) then s
        else s.modChan p b.chan fun c =>
          if b.out then { c with writers := mput c.writers b.idx x } else { c with readers := mput c.readers b.idx x }) s) s

def State.loadAll (s : State) (p : Nat) : State := ((s.part p).slots.foldl (fun s e => s.loadTile p e.1 e.2) s).rebindEnds p

def execSwctlLoad (part : Nat) (s : State) : Out :=
  let a := s.part part
  .next (if a.stopped && a.loadPend && !a.savePend && !a.ckWriting then (s.loadAll part).modPart part fun a => { a with loadPend := false }
    else s)

/-! ### Re-binding (09 R264, R265; log 39) -/

/-- A message between harts, whose numbers have changed by f. -/
def Msg.moved (m : Msg) (f : Nat → Nat) : Msg :=
  match m with
  | .write h i e => .write (f h) i e
  | .ack h i x => .ack (f h) i x
  | .nack h i x r => .nack (f h) i x r
  | .skip h n q d g => .skip (f h) n q d g
  | .read h i p n g y => .read (f h) i p n g y
  | .readRep h i r => .readRep (f h) i r
  | .readOn h i p n g bs => .readOn (f h) i p n g bs
  | .rest h i e d => .rest (f h) i e d
  | .pairPart p n w l rs ds bs => .pairPart p n w l rs ds bs
  | .pairDone p n ts => .pairDone p n ts
  | .elems h i v g es n x => .elems (f h) i v g es n x
  | .elemsRep h i v g rs => .elemsRep (f h) i v g rs
  | .member h i e o => .member (f h) i e o
  | .memberRep h i e r => .memberRep (f h) i e r
  | .piece h i p bs g => .piece (f h) i p bs g
  | .arrive h i p n g => .arrive (f h) i p n g
  | .pieceRep h i r => .pieceRep (f h) i r
  | .atomic h i o p g r q => .atomic (f h) i o p g r q
  | .atomicRep h i r => .atomicRep (f h) i r
  | .tokens p c i ts => .tokens p c i ts
  | .slots p c i n => .slots p c i n
  | .grant p c i n => .grant p c i n
  | .load o bs => .load o bs

def ChanEnd.moved (f : Nat → Nat) : ChanEnd → ChanEnd
  | .hart h k => .hart (f h) k
  | e => e

/-- The hart whose packet of the partition this is, and the one that it is for: what sent a request and what a reply answers, and the ends
of a channel. -/
def State.fromHart (s : State) (q : Packet) : Option Nat :=
  match q.msg with
  | .tokens p c i _ => match (s.chan p c).writerOf i with | some (.hart h _) => some h | _ => none
  | .slots p c i _ => match (s.chan p c).readerOf i with | some (.hart h _) => some h | _ => none
  | m => if m.vc = 2 then none else m.hart
def State.toHart (s : State) (q : Packet) : Option Nat :=
  match q.msg with
  | .tokens p c i _ => match (s.chan p c).readerOf i with | some (.hart h _) => some h | _ => none
  | .slots p c i _ | .grant p c i _ => match (s.chan p c).writerOf i with | some (.hart h _) => some h | _ => none
  | m => if m.vc = 2 then m.hart else none

/-- A packet once harts have moved by f: what it names of them, and where it comes from and goes to. -/
def State.follow (s : State) (f : Nat → Nat) (q : Packet) : Packet :=
  let at_ := fun (o : Option Nat) (e : Nat) => match o with
    | some h => if h < 4096 && e = tileOf h then tileOf (f h) else e
    | none => e
  { q with
    src := at_ (s.fromHart q) q.src
    dst := match q.dst with | .ep e => .ep (at_ (s.toHart q) e) | d => d
    msg := q.msg.moved f }

def State.followStream (s : State) (f : Nat → Nat) (x : StreamSt) : StreamSt :=
  { x with sender := f x.sender, held := x.held.map (s.follow f), busy := x.busy.map (s.follow f) }

/-- A byte that a pointer of tile `own` names lies in the store of tile a. A pointer of 0 names none where it is a barrier's. -/
def inStore (a own : Nat) (p : W64) : Bool :=
  match winOf p with
  | 0 => decide (own = a)
  | 1 => decide (tileIdOf p = a)
  | _ => false

/-- No journal entry, active stream or copy transfer of the partition has bytes in the store of tile a (14 R352). -/
def State.storeFree (s : State) (p a : Nat) : Bool :=
  let q := s.part p
  ((s.tile a).streams.all fun x => !q.harts.contains x.sender)
    && (q.harts.all fun h => (s.hart h).ents.all fun e => !inStore a (tileOf h) e.2.addr)
    && q.tiles.all fun t => (s.tile t).copyq.all fun x =>
      !inStore a t x.set.src && !inStore a t x.set.dst && (decide (x.set.bar = 0) || !inStore a t x.set.bar)

/-- No bound partition but p has tile b. -/
def State.tileFree (s : State) (p b : Nat) : Bool :=
  decide (b < 1024) && s.parts.all fun e => decide (e.1 = p) || !e.2.bound || !e.2.tiles.contains b

/-- Insert into an ascending list. -/
def addTile (t : Nat) : List Nat → List Nat
  | [] => [t]
  | u :: r => if t < u then t :: u :: r else if t = u then u :: r else u :: addTile t r

/-- Runs of tile a's store are copied to the same offsets of tile b's, with their poison (19 R430). -/
def State.copyStore (s : State) (a b : Nat) (runs : List (Nat × Nat)) : State :=
  runs.foldl (fun t r =>
    let u := t.poke (storeBase b + r.1) (s.peek (storeBase a + r.1) r.2)
    { u with poison := u.poison ++ movePoison s.poison (storeBase a + r.1) r.2 (storeBase b + r.1) }) s

/-- The context of hart h moves to hart k, its blocked cycles counted up to now (01 R44). -/
def State.moveHart (s : State) (h k : Nat) : State :=
  let c := s.hart h
  (s.setHart k { c with
    blkrd := s.blkNow h 1 c.blkrd, blkwr := s.blkNow h 2 c.blkwr, blkSince := s.cycle (tileOf k), syncAt := s.stlog.length }).setHart h
    { Hart.init with blkSince := s.cycle (tileOf h) }

/-- Everything of partition p that names a hart follows the harts, which have moved by f: channels, packets, streams, the arenas. -/
def State.followAll (s : State) (p : Nat) (f : Nat → Nat) : State :=
  let s1 := s.modPart p fun q => { q with
    harts := q.harts.map f, arenas := q.arenas.map fun e => (f e.1, e.2)
    chans := q.chans.map fun c => (c.1, { c.2 with
      writers := c.2.writers.map fun e => (e.1, e.2.moved f), readers := c.2.readers.map fun e => (e.1, e.2.moved f) })
    parked := q.parked.map fun e => (e.1, s.follow f e.2), late := q.late.map (s.follow f) }
  { s1 with
    tiles := s1.tiles.map fun e => (e.1, { e.2 with streams := e.2.streams.map (s.followStream f) })
    stations := s1.stations.map fun e => (e.1, { e.2 with streams := e.2.streams.map (s.followStream f) }) }

/-- Tile a of the partition may move to tile b: no partition has b or a hart on it, the supervisor's hart is not on a, and nothing
outstanding of the partition has bytes in a's store (14 R352). -/
def State.mayMove (s : State) (p a b : Nat) : Bool :=
  let q := s.part p
  q.tiles.contains a && !q.tiles.contains b && s.tileFree p b && decide (tileOf q.sup ≠ a) && s.storeFree p a
    && (hartsOf b).all fun h => (s.hart h).part.isNone

/-- The contexts, store, accumulators, copy queue and platforms of tile a of partition p move to tile b. -/
def State.moveTile (s : State) (p a b : Nat) : State :=
  let x := s.tile a
  let f := fun h => if tileOf h = a ∧ h < 4096 then 4 * b + h % 4 else h
  let s1 := s.copyStore a b [(0, 2 ^ 21)]
  let s2 := (s1.modTile b fun y => { y with
      acc := x.acc, mq := [], div := x.div, cpb := x.cpb, copyq := x.copyq.map fun (z : Xfer) => { z with hart := f z.hart } }).modTile a
    fun y => { y with acc := [], mq := [], copyq := [] }
  let s3 := ((hartsOf a).foldl (fun s h => s.moveHart h (f h)) s2).modPart p fun q => { q with
    tiles := addTile b (q.tiles.filter fun t => decide (t ≠ a)), parked := q.parked.map fun e => (if e.1 = a then b else e.1, e.2) }
  s3.followAll p f

/-- Bytes of tile stores that platforms read on tile t take (09 R251). -/
def State.platsOn (s : State) (p t : Nat) : Nat := ((s.platsAt p t).map fun e => 8 * e.2.2.depth).foldl (· + ·) 0

/-- The accumulators of tile t that its hart number l owns. -/
def State.ownedAccs (s : State) (t l : Nat) : List Nat := (List.range 4).filter fun m => decide (((s.tile t).accum m).owner = some l)

/-- The process on hart h may move to hart k, another tile's (14 R352; 09 R264, R265). -/
def State.mayTake (s : State) (p h k : Nat) (runs : List (Nat × Nat)) : Bool :=
  let a := tileOf h
  let b := tileOf k
  (s.part p).stops.contains h && decide (k < 4096) && (s.hart k).part.isNone && decide (a ≠ b) && s.tileFree p b && s.storeFree p a
    && (runs.all fun r => decide (r.1 + r.2 ≤ 2 ^ 21))
    && ((s.ownedAccs a (h % 4)).all fun m => ((s.tile b).accum m).owner.isNone)
    && decide (((s.tile a).copyq.filter fun x => decide (x.hart = h)).length + (s.tile b).copyq.length ≤ 16)
    && decide (s.platsOn p b + (((s.platsAt p a).filter fun e => match e.2.2.readerOf e.2.1 with
        | some (.hart r _) => decide (r = h)
        | _ => false).map fun e => 8 * e.2.2.depth).foldl (· + ·) 0 ≤ 0x40000)

/-- The platforms that hart k reads take their tokens to its tile's store. -/
def State.relay (s : State) (p k : Nat) : State :=
  (s.platsAt p (tileOf k)).foldl (fun s e => match e.2.2.readerOf e.2.1 with
    | some (.hart r _) => if r = k then s.layTokens p e.1 e.2.1 0 (e.2.2.plat e.2.1).toks else s
    | _ => s) s

/-- The context of the process on hart h moves to hart k with the runs of its store, the accumulators it owns, its transfers and the
platforms it reads. -/
def State.moveProc (s : State) (p h k : Nat) (runs : List (Nat × Nat)) : State :=
  let a := tileOf h
  let b := tileOf k
  let f := fun x => if x = h then k else x
  let ms := s.ownedAccs a (h % 4)
  let s1 := s.copyStore a b runs
  let s2 := ms.foldl (fun u m => (u.modTile b fun y => y.setAccum m { (s.tile a).accum m with owner := some (k % 4) }).modTile a fun y =>
    y.setAccum m Acc.init) s1
  let s3 := (s2.modTile b fun y => { y with
      copyq := y.copyq ++ ((s.tile a).copyq.filter fun x => decide (x.hart = h)).map fun (z : Xfer) => { z with hart := k } }).modTile a
    fun y => { y with copyq := y.copyq.filter fun x => decide (x.hart ≠ h) }
  let s4 := ((s3.moveHart h k).followAll p f).modPart p fun q => { q with
    tiles := addTile b (if q.harts.any fun x => decide (tileOf x = a) then q.tiles else q.tiles.filter fun t => decide (t ≠ a)) }
  s4.relay p k

/-- A platform's first byte moves within its reader's store (09 R264). -/
def State.movePlat (s : State) (p c i base : Nat) : State :=
  if (s.part p).chans.any (fun e => decide (e.1 = c)) && i < (s.chan p c).count && base % 8 = 0 && base + 8 * (s.chan p c).depth ≤ 2 ^ 21 then
    (s.modChan p c fun x => x.setPlat i { x.plat i with base := base }).layTokens p c i 0 ((s.chan p c).plat i).toks
  else s

/-- One part of a re-binding of a stopped partition. -/
def State.rebind (s : State) (p : Nat) : Rebind → State
  | .tile a b => if s.mayMove p a b then s.moveTile p a b else s
  | .proc h k runs => if s.mayTake p h k runs then s.moveProc p h k runs else s
  | .plat c i base => s.movePlat p c i base
  | .pair n home =>
    if home < 16 && (s.part p).pairs.any fun e => decide (e.1 = n) then
      let old := stEp (s.pairOf p n).home
      s.modPart p fun q => { q with
        pairs := mput q.pairs n { s.pairOf p n with home := home }
        parked := q.parked.map fun e => match e.2.dst, e.2.msg with
          | .ep d, .tokens _ c _ _ => if d = old ∧ c = (s.pairOf p n).req then (e.1, { e.2 with dst := .ep (stEp home) }) else e
          | .ep d, .slots _ c _ _ | .ep d, .grant _ c _ _ =>
            if d = old ∧ c = (s.pairOf p n).rep then (e.1, { e.2 with dst := .ep (stEp home) }) else e
          | _, _ => e }
    else s
  | .divider t d => if (s.part p).tiles.contains t && !s.tileRuns t then s.modTile t fun x => { x with div := d } else s
  | .budget h n => if (s.part p).harts.contains h then s.modHart h fun a => { a with budget := min 1024 n } else s

/-! ### GO and the release (16 R374) -/

/-- The divider that TSCHED holds takes effect, and CYCLE counts on in its cycles (12 R316). -/
def State.applyDiv (s : State) (t : Nat) : State :=
  let c := s.cycle t
  s.modTile t fun x => if x.divNow = x.div then x else { x with divNow := x.div, cycBase := c, mainBase := s.main }

/-- Row v's load, if its record has cause 0, is sent again from group PI (16 R374). -/
def State.reissueCancelled (s : State) (h v : Nat) : State :=
  let a := s.hart h
  let r := a.rv v
  match r.lrec with
  | none => s
  | some l =>
    if l.cause ≠ 0 || r.flight.isSome then s
    else
      let f := { l.stopped r.pi with id := s.nextReq }
      { s.setHart h (a.wv v (VecReg.after { r with lrec := none } f)) with nextReq := s.nextReq + 1 }.sendReads h v f

/-- Insert by packet number. -/
def insertPkt (x : Packet) : List Packet → List Packet
  | [] => [x]
  | y :: r => if x.id < y.id then x :: y :: r else y :: insertPkt x r

/-- GO: race tags are reset; parked packets are injected again by their sources, each source's in the order in which it injected them (10
R281, R292), and with them what stalled at its source or what the edge of the module held (16 R376; 10 R290); and cancelled loads are
sent again. -/
def State.goPart (s : State) (p : Nat) : State :=
  let a := s.part p
  let s1 := a.tiles.foldl (fun s t => s.modTile t Tile.raceReset) s
  let s2 := s1.setPart p { a with parked := [], late := [], stopped := false, going := true, goPend := false }
  let s3 := (((a.parked.map fun e => e.2) ++ a.late).foldl (fun l x => insertPkt x l) []).foldl (fun s x => s.inject { x with hops := 0 }) s2
  a.stops.foldl (fun s h => (List.range 64).foldl (fun s v => s.reissueCancelled h v) s) s3

/-- GO; before it Wilnil re-binds as it will (09 R264; log 39). -/
def execSwctlGo (part : Nat) (s : State) : Out :=
  let a := s.part part
  .next (if a.stopped && a.goPend && !a.busy then
      ((Config.rebinds s.tick).foldl (fun s m => s.rebind part m) s).goPart part
    else s)

/-- No packet of the partition is in the mesh. -/
def State.meshClear (s : State) (p : Nat) : Bool := s.tiles.all fun e => e.2.jn.flits.all fun f => !s.holds p f.pkt

/-- Hart h goes on; what remained of a PAUSE counts from now. -/
def State.releaseHart (s : State) (h : Nat) : State :=
  let now := s.cycle (tileOf h)
  s.modHart h fun a => { a with stopped := false, pause := a.pause.map fun n => now + n }

/-- Once every re-injected packet has been ejected, all harts are released together; credits begin at 0 (12 R311), the signal box
returns to WATCH, and its sweeps count from here. -/
def execHartsReleased (part : Nat) (s : State) : Out :=
  let a := s.part part
  .next (if a.going && s.meshClear part then
      let s1 := a.tiles.foldl (fun s t => (s.applyDiv t).modTile t fun x => { x with seqCR := [], arrCR := [] }) s
      let s2 := a.stops.foldl (fun s h => if (s.hart h).stopped then s.releaseHart h else s) s1
      s2.modPart part fun q => { q with going := false, sb := .watch, sweep := none, sweepAt := s.main + 170 }
    else s)

/-! ### The checkpoint (16 R378, R379) -/

/-- Where slot k and its manifest lie (16 R377, R379). -/
def Partition.ckSlotAt (a : Partition) (k : Nat) : Nat := a.ckBase.toNat / 2 ^ 30 * 2 ^ 30 + k * a.ckSlotG.toNat * 2 ^ 30
def Partition.manifestAt (a : Partition) (k : Nat) : Nat := a.ckSlotAt k + a.ckSlotG.toNat * 2 ^ 30 - 65536

/-- A shard: the physical runs that it is read from, and its digest (log 29). -/
structure Shard where
  runs : List (Nat × Nat)
  digest : BitVec 256
  deriving DecidableEq, Repr

def runsLen (rs : List (Nat × Nat)) : Nat := rs.foldl (fun n r => n + r.2) 0
def Shard.src (x : Shard) : Nat := (x.runs.headD (0, 0)).1
def Shard.len (x : Shard) : Nat := runsLen x.runs

/-- Cut runs, one behind the other, into shards of 1 GiB; the last may be shorter. -/
def shardRuns : Nat → List (Nat × Nat) → List (List (Nat × Nat))
  | 0, _ => []
  | f + 1, rs =>
    if runsLen rs = 0 then []
    else
      let x := cutRuns rs (2 ^ 30)
      x.1 :: shardRuns f x.2

/-- Every page mapped under an ASID, in ascending virtual address (16 R378), by the levels of 18 R395. -/
def State.leavesIn (s : State) (asid : BitVec 16) (table va : Nat) : List (Nat × Nat) → List Leaf
  | [] => []
  | (lo, n) :: r =>
    (List.range (2 ^ n)).flatMap fun i =>
      let e := s.peek64 (table + 8 * i)
      if xeBad e then []
      else if xeLeaf e then
        [{ asid := asid, va := va + i * 2 ^ lo, pa := xePa e, size := 2 ^ lo, rd := e.getLsbD 61, wr := e.getLsbD 60
           pin := e.getLsbD 59, at_ := table + 8 * i }]
      else s.leavesIn asid (xePa e) (va + i * 2 ^ lo) r

def State.leavesOf (s : State) (asid : BitVec 16) : List Leaf :=
  let root := s.peek64 (s.xlBase.toNat + 8 * asid.toNat)
  if xeBad root || xeLeaf root then [] else s.leavesIn asid (xePa root) 0 [(38, 5), (30, 8), (21, 9), (16, 5)]

/-- The physical runs of a virtual range of the supervisor's. -/
def State.svcRuns (s : State) (va n : Nat) : List (Nat × Nat) :=
  match s.translateAll (svcStation va) 0 kRead false va n (n / 65536 + 2) with
  | some (runs, _) => runs
  | none => []

/-- The partition's ASIDs, ascending: that of its network, and those of the gate calls that its harts are in. -/
def State.asidsOf (s : State) (p : Nat) : List Nat :=
  let a := s.part p
  (a.stops.flatMap fun h => (s.hart h).asid.toNat :: (s.hart h).gcalls.map fun g => g.casid.toNat).foldl (fun l x => addTile x l) [a.asid.toNat]

/-- The sources of a checkpoint in their order: switch slots, pages of the partition's ASIDs, spill region. -/
def State.ckSources (s : State) (p : Nat) : List (Nat × Nat) :=
  let a := s.part p
  let slots := a.slots.flatMap fun e => s.svcRuns (a.slotAt e.1) (2 ^ 23)
  let pages := (s.asidsOf p).flatMap fun x => (s.leavesOf (BitVec.ofNat 16 x)).map fun l => (l.pa, l.size)
  let spill := if a.spillSegs = 0 then [] else s.svcRuns a.spillBase (65536 + a.markBytes + 4096 * a.spillSegs)
  slots ++ pages ++ spill

def State.shards (s : State) (p : Nat) : List Shard :=
  let rs := s.ckSources p
  (shardRuns (runsLen rs / 2 ^ 30 + 1) rs).map fun r => { runs := r, digest := sha3 (s.peekRuns r) }

/-- The manifest but for its signature (16 R379). -/
def State.manifestHead (s : State) (p seq : Nat) (sh : List Shard) : List Byte :=
  toBytes 4 0x00014B43 ++ toBytes 4 1 ++ toBytes 8 seq ++ bytes64 (s.part p).swTime ++ toBytes 4 p ++ toBytes 4 sh.length
    ++ toBytes 32 (s.part p).image.toNat
    ++ sh.flatMap fun x => toBytes 8 x.src ++ toBytes 8 x.len ++ toBytes 32 x.digest.toNat

def signManifest (head : List Byte) : List Byte := head ++ sect 2420 (Config.mldsaSign (sha3 head))

/-- A signature verifies: the device's own does. -/
def sigOk (head sig : List Byte) : Bool :=
  decide (sig = sect 2420 (Config.mldsaSign (sha3 head))) || Config.mldsaCheck (sha3 head) sig

/-- The shards a manifest names, each with the offset of its copy from the slot's first byte, its source, length and digest. -/
def manifestShards (m : List Byte) : Nat → Nat → Nat → List (Nat × Nat × Nat × BitVec 256)
  | 0, _, _ => []
  | n + 1, i, off =>
    let len := natAt m (72 + 48 * i) 8
    (off, natAt m (64 + 48 * i) 8, len, BitVec.ofNat 256 (natAt m (80 + 48 * i) 32)) :: manifestShards m n (i + 1) (off + len)

/-- The valid manifest of slot k: its SEQ, its bytes and its shards (16 R379). -/
def State.manifestOf (s : State) (p k : Nat) : Option (Nat × List Byte × List (Nat × Nat × Nat × BitVec 256)) :=
  let a := s.part p
  match s.svcRead (a.manifestAt k) 65536 with
  | none => none
  | some m =>
    let n := natAt m 28 4
    let head := m.take (64 + 48 * n)
    let sh := manifestShards m n 0 0
    if natAt m 0 4 = 0x00014B43 && natAt m 4 4 = 1 && sigOk head (cut m (64 + 48 * n) 2420)
        && sh.all (fun e => decide ((s.svcRead (a.ckSlotAt k + e.1) e.2.2.1).map sha3 = some e.2.2.2))
    then some (natAt m 8 8, signManifest head, sh) else none

/-- The slot of the newest valid manifest, and its SEQ. -/
def State.newest (s : State) (p : Nat) : Option (Nat × Nat) :=
  match s.manifestOf p 0, s.manifestOf p 1 with
  | some (a, _), some (b, _) => if a < b then some (1, b) else some (0, a)
  | some (a, _), none => some (0, a)
  | none, some (b, _) => some (1, b)
  | none, none => none

/-- SAVE; at a checkpoint its step 1 follows: the slot that does not hold the newest valid manifest loses its own (16 R378). -/
def execSwctlSave (part : Nat) (s : State) : Out :=
  let a := s.part part
  .next (if !(a.stopped && a.savePend && s.arraysIdle part) then s
    else
      let s1 := (s.saveAll part).modPart part fun a => { a with savePend := false }
      if !a.ckWriting then s1
      else
        let k := match s1.newest part with | some (0, _) => 1 | _ => 0
        (s1.svcWrite (a.manifestAt k) (toBytes 64 0)).modPart part fun a => { a with ckSlot := decide (k = 1) })

/-- Write the shards to the slot, one behind the other. -/
def State.writeShards (s : State) (at_ : Nat) : List Shard → State
  | [] => s
  | x :: r => (s.svcWrite at_ (s.peekRuns x.runs)).writeShards (at_ + x.len) r

/-- Steps 2 and 3 of 16 R378: the shards, then the signed manifest; COUNT returns to zero. -/
def execCheckpointManifest (part : Nat) (s : State) : Out :=
  let a := s.part part
  .next (if !(a.stopped && a.ckWriting && !a.savePend) then s
    else
      let k := if a.ckSlot then 1 else 0
      let seq := match s.newest part with | some (_, n) => n + 1 | none => 0
      let sh := s.shards part
      let m := signManifest (s.manifestHead part seq sh)
      let s1 := (s.writeShards (a.ckSlotAt k) sh).svcWrite (a.manifestAt k) m
      { s1 with savedParts := { bytes := m, part := s.part part, shards := sh.map fun (x : Shard) => x.runs } :: s1.savedParts }.modPart part fun a =>
        { a with ckWriting := false, ckDue := false, ckLast := s.time.toNat, count := 0 })

/-! ### Restore (16 R380; 19 R432) -/

/-- Load the shards back to their sources. The runs of a shard are kept beside its manifest (log 29); those of a manifest that was not
written here run on from its source address. -/
def State.readShards (s : State) (slot : Nat) : List (Nat × Nat × Nat × BitVec 256) → List (List (Nat × Nat)) → State
  | [], _ => s
  | (off, src, len, _) :: r, kept =>
    match s.svcRead (slot + off) len with
    | some bs => (s.pokeRuns (kept.headD [(src, len)]) bs).readShards slot r kept.tail
    | none => s.readShards slot r kept.tail

/-- The supervisor hart of a partition: in service, under ASID 0, in the resident code. -/
def State.bindSup (s : State) (p h xb : Nat) : State :=
  s.setHart h { Hart.init with
    gframe := (s.hart h).gframe, pc := Config.supervisorEntry.setWidth 64, own := .running, svc := true, part := some p, blkSince := s.cycle (tileOf h)
    xbnd := BitVec.ofNat 21 xb, xbndF := BitVec.ofNat 21 xb, trapvec := 0xE80, trapvecF := 0xE80, syncAt := s.stlog.length }

/-- The harts of a list are scrubbed; GFRAME keeps its value, as USED is written by gate calls and restores alone (18 R410). -/
def State.scrubHarts (s : State) (hs : List Nat) : State :=
  hs.foldl (fun s h => s.setHart h { Hart.init with
    gframe := (s.hart h).gframe, blkSince := s.cycle (tileOf h), syncAt := s.stlog.length }) s

/-- What partition p has about in the machine ends: its packets, the contexts of `hs` and of its tiles, its streams, its counts of channel
packets, and its host windows. -/
def State.scrubNet (s : State) (p : Nat) (hs : List Nat) : State :=
  let a := s.part p
  let theirs := fun (x : StreamSt) => a.harts.contains x.sender
  let s0 := s.withdraw (s.aboutOf p)
  let s1 := { s0 with arrived := s0.arrived.filter fun q => !s.holds p q }.scrubHarts hs
  let s2 := a.tiles.foldl (fun s t => s.modTile t fun x => { x with acc := [], mq := [], copyq := [] }) s1
  { s2 with
    host := s2.host.map fun (e : Nat × HostWin) => (e.1, match e.2.bind with
      | some (q, _) => if q = p then HostWin.init else e.2
      | none => e.2)
    tiles := s2.tiles.map fun (e : Nat × Tile) => (e.1, { e.2 with
      inj := mput e.2.inj p 0, ej := mput e.2.ej p 0, streams := e.2.streams.filter fun x => !theirs x })
    stations := s2.stations.map fun (e : Nat × Station) => (e.1, { e.2 with
      inj := mput e.2.inj p 0, ej := mput e.2.ej p 0, streams := e.2.streams.filter fun x => !theirs x }) }

/-- The host windows of channel c are bound to it. -/
def State.bindWindows (s : State) (p c : Nat) (x : Chan) : State :=
  let one := fun (out : Bool) (s : State) (e : Nat × ChanEnd) =>
    match e.2 with
    | .host w => { s with host := mput s.host w { bind := some (p, c), dir := !out, ovr := false, und := false } }
    | _ => s
  x.readers.foldl (one false) (x.writers.foldl (one true) s)

/-- The shards of the newest valid manifest go back to their sources, then LOAD and GO are performed; with no valid manifest the
restore fails. The partition is bound as it stood at the checkpoint (log 27), whatever it has done since; a supervisor hart that it does
not have is started anew. -/
def execCkreqGo (part : Nat) (s : State) : Out :=
  let a := s.part part
  .next (if !a.ckGoPend then s
    else
      match s.newest part with
      | none => s.setPart part { a with ckGoPend := false, ckBusy := false, ckFail := true }
      | some (k, _) =>
        match s.manifestOf part k with
        | none => s
        | some (_, m, sh) =>
          let kept := s.savedParts.find? fun e => decide (e.bytes = m)
          let s0 := if a.bound then s.scrubNet part a.stops else s
          let s1 := s0.readShards (a.ckSlotAt k) sh ((kept.map fun e => e.shards).getD [])
          let old := match kept with
            | some e => { e.part with ckBase := a.ckBase, ckSlotG := a.ckSlotG }
            | none => { a with parked := [], late := [] }
          let s2 := s1.setPart part { old with
            bound := true, stopped := true, stopping := false, going := false, sb := .switch, sweep := none
            savePend := false, loadPend := false, goPend := false, ckGoPend := false, ckBusy := false, ckFail := false
            ckWriting := false, ckDue := false, loading := false }
          let s3 := if (a.bound && decide (a.sup = old.sup)) || old.sup = 0 then s2 else s2.bindSup part old.sup 0x1000
          let s4 := old.chans.foldl (fun s c => s.bindWindows part c.1 c.2) (s3.recount [] ((old.parked.map fun e => e.2) ++ old.late))
          (s4.loadAll part).goPart part)

/-! ### Power loss (16 R380; 19 R427) -/

/-- A byte that keeps its value without power: the second tier and CXL memory. -/
def keepsPower (a : Nat) : Bool := decide (0x010000000000 ≤ a) && decide (a < bridgeBase)

/-- The state that a loss of the main rails leaves: HBM, the tile stores and every register lose their contents; the second tier,
the flash banks and what management keeps stay. -/
def State.unpowered (s : State) : State :=
  { State.reset with
    mem := s.mem.filter fun c => keepsPower c.1
    poison := s.poison.filter keepsPower
    flashA := s.flashA, flashB := s.flashB, active := s.active, rollback := s.rollback, fwNew := s.fwNew, node := s.node
    tick := s.tick, savedHarts := s.savedHarts, savedTiles := s.savedTiles, savedParts := s.savedParts
    wilnilLog := s.wilnilLog, faultLog := s.faultLog, shutdowns := s.shutdowns }

/-- Power is lost and returns: bring-up begins again. A checkpoint whose manifest was zeroed stays invalid. -/
def execPowerLoss (s : State) : Out := .next s.unpowered

end Sys2Proof.Machine
end

