-- ==== Sys2Proof/Machine/HostPort.lean ====
section
/-! DEFINITION. The host port: channel windows (19 R418 to R420) and BAR2 through the HDMA windows (19 R421). -/

namespace Sys2Proof.Machine

/-! ### Channel windows -/

def State.window (s : State) (n : Nat) : HostWin := mget .init s.host n
def State.modWindow (s : State) (n : Nat) (f : HostWin → HostWin) : State := { s with host := mput s.host n (f (s.window n)) }

/-- Tokens that the request and the reply channel of bring-up hold at most: the default depth of a channel (log 31). -/
def hostDepth : Nat := 256

/-- Windows 0 and 1 are bound at stage 7 of bring-up (19 R420, R431); the others by networks. There are sixteen; a number above 15 stands
for an access to BAR0 that is no aligned 8-byte access to a register, which is ignored like one to an unbound window (19 R419). Port 0
trains at stage 7, and a held device supervisor or a shutdown serves no window (19 R427, R431, R432). -/
def State.winBound (s : State) (n : Nat) : Bool :=
  decide (s.bootstat = 7) && (decide (n < 2) || (decide (n < 16) && (s.window n).bind.isSome))
/-- DIR: the host receives. -/
def State.winDir (s : State) (n : Nat) : Bool := if n = 0 then false else if n = 1 then true else (s.window n).dir

/-- Slots held for the platform that the next token goes to. -/
def State.winSlots (s : State) (n : Nat) : Nat :=
  if n = 0 then hostDepth - s.launchq.length
  else match (s.window n).bind with
    | some (p, c) => let x := s.chan p c; x.slotCount (x.target (endAt x.writers (.host n)))
    | none => 0

/-- The next token that a read would take. -/
def State.winHead (s : State) (n : Nat) : Option Taken :=
  if n = 1 then s.replyq.head?.map fun t =>
    { data := if t.isEnd then [] else [t.data], ended := t.isEnd, counts := [], turn := 0, endedSet := [], bad := t.bad }
  else match (s.window n).bind with
    | some (p, c) => let x := s.chan p c; x.receive (endAt x.readers (.host n)) 1
    | none => none

/-- Tokens standing for the host. -/
def State.winStanding (s : State) (n : Nat) : Nat :=
  if n = 1 then s.replyq.length
  else match (s.window n).bind with
    | some (p, c) => let x := s.chan p c; if x.mode = .merge then x.standing else (x.plat (endAt x.readers (.host n))).toks.length
    | none => 0

/-- HCSTAT as the host reads it (19 R418). -/
def State.hcstat (s : State) (n : Nat) : W64 :=
  let w := s.window n
  let count := if !s.winBound n then 0 else if s.winDir n then s.winStanding n else s.winSlots n
  let endh := s.winDir n && (match s.winHead n with | some t => t.ended | none => false)
  BitVec.ofNat 64 (flagNat (s.winBound n && s.winDir n) 63 + flagNat (s.winBound n) 62 + flagNat (s.winBound n && endh) 61
    + flagNat w.ovr 60 + flagNat w.und 59 + min count 65535)

/-- Packets just sent for a partition that is stopped at a switch wait for its resume. -/
def State.holdFrozen (s : State) (p : Nat) : State := if s.frozen (some p) then s.parkAll p else s

/-- The host sends one token, or an end token, which on a DEAL channel goes to every platform (09 R256); without slots it is dropped
and OVR is set (19 R419). -/
def State.winSend (s : State) (n : Nat) (t : Token) : State :=
  if !s.winBound n || s.winDir n then s
  else if n = 0 then
    if s.winSlots 0 = 0 then s.modWindow 0 fun w => { w with ovr := true } else { s with launchq := s.launchq ++ [t] }
  else match (s.window n).bind with
    | none => s
    | some (p, c) =>
      let x := s.chan p c
      if t.isEnd && x.mode = .deal then
        if x.shortPlat.isSome then s.modWindow n fun w => { w with ovr := true }
        else (((List.range x.count).foldl (fun s i => s.sendStrip (stEp 20) 0 p c i [t]) s).modChan p c fun x =>
          { x with strip := 0 }).holdFrozen p
      else if s.winSlots n = 0 then s.modWindow n fun w => { w with ovr := true }
      else ((s.sendStrip (stEp 20) 0 p c (x.target (endAt x.writers (.host n))) [t]).nextStrip p c).holdFrozen p

/-- Take what `winHead` showed. -/
def State.winTake (s : State) (n : Nat) (k : Taken) : State :=
  if n = 1 then { s with replyq := s.replyq.drop 1 }
  else match (s.window n).bind with
    | some (p, c) => (s.consume (stEp 20) 0 p c k).holdFrozen p
    | none => s

def execHctokWrite (n : Nat) (v : W64) (s : State) : Out := .next (s.winSend n (dataToken v))
def execHcendWrite (n : Nat) (_v : W64) (s : State) : Out := .next (s.winSend n endToken)

/-- All ones: the answer to an access that is ignored (19 R419). -/
def allOnes64 : W64 := BitVec.allOnes 64

/-- HCTOK: the head data token, or 0 with UND set. A poisoned token is not delivered as data (19 R430; log 32). -/
def State.readHctok (s : State) (n : Nat) : State :=
  (if !s.winBound n then { s with answer := [allOnes64] }
    else if !s.winDir n then { s with answer := [0] }
    else
      match s.winHead n with
      | some k =>
        match k.data with
        | v :: _ => if k.bad then { s.modWindow n fun w => { w with und := true } with answer := [0] }
          else { s.winTake n k with answer := [v] }
        | [] => { s.modWindow n fun w => { w with und := true } with answer := [0] }
      | none => { s.modWindow n fun w => { w with und := true } with answer := [0] })

def execHctokRead (n : Nat) (s : State) : Out := .next (s.readHctok n)

/-- HCEND: 1 and the end token consumed if it is the head, else 0. -/
def State.readHcend (s : State) (n : Nat) : State :=
  (if !s.winBound n then { s with answer := [allOnes64] }
    else if !s.winDir n then { s with answer := [0] }
    else
      match s.winHead n with
      | some k => if k.ended then { s.winTake n k with answer := [1] } else { s with answer := [0] }
      | none => { s with answer := [0] })

/-- OVR and UND clear where 1 is written. -/
def State.writeHcstat (s : State) (n : Nat) (v : W64) : State :=
  (if !s.winBound n then s
    else s.modWindow n fun w => { w with ovr := w.ovr && !v.getLsbD 60, und := w.und && !v.getLsbD 59 })

def execHcendRead (n : Nat) (s : State) : Out := .next (s.readHcend n)
def execHcstatWrite (n : Nat) (v : W64) (s : State) : Out := .next (s.writeHcstat n v)

/-- HCSTAT, COUNT in it, as a read of the host answers (19 R418, R419). -/
def State.readHcstat (s : State) (n : Nat) : State := { s with answer := [if s.winBound n then s.hcstat n else allOnes64] }

/-- An access of len bytes at BAR0 offset off: BAR0 is 64 KiB, sixteen windows of 4 KiB with three registers each; one that is no aligned
access of 8 bytes is ignored, and so is one to no register (19 R417 to R419). -/
def State.bar0Access (s : State) (off len : Nat) (data : Option W64) : State :=
  let n := off / 4096
  let ok := decide (len = 8) && decide (off % 8 = 0) && decide (n < 16)
  match data, ok, off % 4096 with
  | some v, true, 0 => s.winSend n (dataToken v)
  | some _, true, 8 => s.winSend n endToken
  | some v, true, 16 => s.writeHcstat n v
  | some _, _, _ => s
  | none, true, 0 => s.readHctok n
  | none, true, 8 => s.readHcend n
  | none, true, 16 => s.readHcstat n
  | none, _, _ => { s with answer := [allOnes64] }

/-! ### BAR2 (19 R421) -/

/-- The lowest enabled window that covers BAR2 offset o; BAR2 is 64 GiB (19 R417). -/
def State.hdmaFor (s : State) (o : Nat) : Option Nat :=
  (List.range 8).find? fun n =>
    let a := s.hdmaRegA n
    let b := s.hdmaRegB n
    a.getLsbD 62 && decide (o < 2 ^ 36) && decide (bitsAt b 0 20 * 65536 ≤ o) && decide (o < (bitsAt b 0 20 + bitsAt b 32 20) * 65536)

/-- One piece of an access, within a granule of 4 KiB: its ASID, virtual address, and run if translation admits it, at the station that the
address names and at the one that serves the byte (14 R326; log 5). The bridge takes no access of the host (19 R424). -/
def State.hdmaPiece (s : State) (o n : Nat) (wr : Bool) : Except (BitVec 16 × Nat) (List (Nat × Nat) × State) :=
  match s.hdmaFor o with
  | none => .error (0, o)
  | some i =>
    let a := s.hdmaRegA i
    let va := bitsAt a 16 27 * 65536 + o - bitsAt (s.hdmaRegB i) 0 20 * 65536
    let asid : BitVec 16 := a.extractLsb' 43 16
    if (if wr then !a.getLsbD 60 else !a.getLsbD 61) then .error (asid, va)
    else
      let k := if wr then kWrite else kRead
      match s.translateRun (svcStation va) asid va n k false with
      | .ok ((a, _) :: _, s1) =>
        if bridgeBase ≤ a then .error (asid, va)
        else match s1.translateRun (servedBy a) asid va n k false with
          | .ok r => .ok r
          | .error _ => .error (asid, va)
      | _ => .error (asid, va)

/-- The runs of an access, piece by piece. -/
def State.hdmaRuns (s : State) (wr : Bool) : Nat → Nat → Nat → Except (BitVec 16 × Nat) (List (Nat × Nat) × State)
  | 0, _, _ => .ok ([], s)
  | f + 1, o, n =>
    if n = 0 then .ok ([], s)
    else
      let k := min n (4096 - o % 4096)
      match s.hdmaPiece o k wr with
      | .error e => .error e
      | .ok (rs, s1) =>
        match s1.hdmaRuns wr f (o + k) (n - k) with
        | .error e => .error e
        | .ok (rt, s2) => .ok (rs ++ rt, s2)

/-- Bytes as the words of an answer. -/
def answerWords (bs : List Byte) : List W64 := (List.range ((bs.length + 7) / 8)).map fun i => wordAt bs (8 * i)

/-- An access that no window admits, that translation refuses, or that meets poison is dropped, reads all ones and is logged. Port 0 and its
BARs are there from stage 7 on (19 R431). -/
def execHostBar2Access (off : Nat) (len : Nat) (data : Option (List Byte)) (s : State) : Out :=
  let n := match data with | some d => d.length | none => len
  let wr := data.isSome
  let drop := fun (s : State) (asid : BitVec 16) (va : Nat) =>
    { s.logXl 20 { asid := asid, va := BitVec.ofNat 64 va, node := s.node, ep := stEp 20, write := wr } with
      answer := answerWords (List.replicate (if wr then 0 else n) 0xFF) }
  .next (match (if s.bootstat = 7 then s.hdmaRuns wr (n / 4096 + 2) off n else .error (0, off)) with
    | .error e => drop s e.1 e.2
    | .ok (runs, s1) =>
      if (s1.poisonRuns (if wr then kWrite else kRead) 0 runs).isSome then drop s1 0 off
      else
        match data with
        | some d => { s1.storeRuns none runs d (fullMask n) with answer := [] }
        | none =>
          let r := s1.loadRuns runs
          { r.2 with answer := answerWords r.1 })

end Sys2Proof.Machine
end

