-- ==== Sys2Proof/Machine/Resident.lean ====
section
/-! DEFINITION. What Wilnil keeps resident and serves: the allocator's code (17, "Listings"), the records and mailboxes it works from
(17 R382), and the supervisor's service of a mailbox request (17 R383). -/

namespace Sys2Proof.Machine

/-! ### The resident code (17 "Listings"; log 30) -/

def plainCtl : Ctl := { mod := 0, ginv := false, gpred := 0, yld := false, la := false, lb := false, prio := 0, rsv := 0 }
def unsCtl : Ctl := { plainCtl with mod := 0x10 }

/-- A PC-relative operand (03 R86). -/
def relImm (src dst : Nat) : Imm := BitVec.ofInt 17 (((dst : Int) - src) / 4)

/-- The allocator from 0xC00 on, its labels wn_alloc, a_fail at 0xD08, wn_alloc_h at 0xD20, h_fail at 0xD8C, h_page at 0xDB0 and h_ret
at 0xE10. -/
def allocatorBody : List Instr :=
  let c := plainCtl
  [ .crd c 20 0x021, .ext unsCtl 20 20 (.i 1280), .sub c 20 20 (.i 256), .bCond c .gtu 10 (.i 1008) (relImm 0xC24 0xD08),
    .ld c 21 ⟨20, 0⟩, .ld c 22 ⟨20, 1⟩, .add c 23 10 (.i 79), .and c 23 23 (.i (BitVec.ofInt 17 (-64))), .add c 24 21 (.x 23),
    .bCond c .gtu 24 (.x 22) (relImm 0xC6C 0xD08), .ld c 25 ⟨21, 0⟩, .ld c 25 ⟨24, BitVec.ofInt 12 (-1)⟩,
    .st c ⟨21, 0⟩ (.x 23) none, .st c ⟨21, 1⟩ (.x 10) none, .sub c 28 23 (.i 16), .shr c 28 28 (.i 3), .setvl c 0 28 .i64,
    .vsplat c 56 (.x 0) .i64, .vst c ⟨21, 1⟩ 56 none, .st c ⟨20, 0⟩ (.x 24) none, .add c 11 21 (.i 16), .gret c,
    .li c 11 0, .gret c ]

/-- The allocator's fault handler, from 0xD20 on. -/
def allocatorHandler : List Instr :=
  let c := plainCtl
  [ .st c ⟨20, 4⟩ (.x 1) none, .st c ⟨20, 5⟩ (.x 2) none, .crd c 1 0x002, .crd c 2 0x003, .and c 1 1 (.i 255),
    .bCond c .eq 1 (.i 5) (relImm 0xD5C 0xDB0), .bCond c .ne 1 (.i 8) (relImm 0xD68 0xD8C), .crd c 1 0x004, .jdrop c (.x 1),
    .addpc c 1 (relImm 0xD8C 0xD08), .cwr c 0x001 (.x 1), .j c (relImm 0xDA4 0xE10),
    .ld c 1 ⟨20, 2⟩, .st c ⟨1, 0⟩ (.x 2) none, .bara c ⟨1, 2⟩ (.i 1), .ld c 2 ⟨20, 3⟩, .bwait c 2 ⟨1, 4⟩, .st c ⟨20, 3⟩ (.x 2) none,
    .ld c 2 ⟨1, 1⟩, .bnz c 2 (relImm 0xE04 0xD8C), .ld c 1 ⟨20, 4⟩, .ld c 2 ⟨20, 5⟩, .tret c ]

/-- n rounded up to a multiple of k. -/
def up (n k : Nat) : Nat := (n + k - 1) / k * k

/-- The words of instructions, one behind the other. -/
def codeBytes (l : List Instr) : List Byte := l.flatMap fun i => wordBytes ((encode i).getD 0)

/-- Wilnil's code at 0xC00 to 0xFFF of every tile of a partition: the allocator, and at 0xE80 the network handler, whose bytes are no part of
the manual. -/
def residentCode : List Byte := sect 0x280 (codeBytes (allocatorBody ++ allocatorHandler)) ++ sect 0x180 Config.networkHandler

/-! ### Mapping a page (17 R383; 18 R395, R396) -/

/-- A table entry: valid and nothing more, or a page that is read, written and pinned. -/
def tableEntry (pa : Nat) : W64 := BitVec.ofNat 64 (2 ^ 63 + pa)
def pageEntry (pa : Nat) : W64 := BitVec.ofNat 64 (2 ^ 63 + 2 ^ 62 + 2 ^ 61 + 2 ^ 60 + 2 ^ 59 + pa)

def xlLevels : List (Nat × Nat) := [(38, 5), (30, 8), (21, 9), (16, 5)]

/-- Two runs, each given by its first byte and length, have a byte in common. -/
def meets (a n b m : Nat) : Bool := decide (a < b + m) && decide (b < a + n)

/-- The physical runs of a table and of all below it. -/
def State.runsUnder (s : State) (table : Nat) : List (Nat × Nat) → List (Nat × Nat)
  | [] => []
  | (lo, n) :: r =>
    (table, 8 * 2 ^ n) :: (List.range (2 ^ n)).flatMap fun i =>
      let e := s.peek64 (table + 8 * i)
      if xeBad e then [] else if xeLeaf e then [(xePa e, 2 ^ lo)] else s.runsUnder (xePa e) r

/-- The physical runs that are in use: the tables with what they map, the Wilnil image, and what Wilnil has taken. -/
def State.usedRuns (s : State) : List (Nat × Nat) :=
  s.taken ++ (s.xlBase.toNat, 8 * 65536) :: (Config.wilnilAt, Config.wilnilImage.length) :: (List.range 65536).flatMap fun a =>
    let e := s.peek64 (s.xlBase.toNat + 8 * a)
    if xeBad e || xeLeaf e then [] else s.runsUnder (xePa e) xlLevels

/-- Wilnil takes a free block of 2^lo bytes of HBM (log 30); none where every one is in use. -/
def State.newBlock (s : State) (lo : Nat) : Option (Nat × State) :=
  let n := 0x006000000000 / 2 ^ lo
  let pick := ((List.range n).map fun k => (Config.freeFrame s.taken.length + k) % n * 2 ^ lo).find? fun pa =>
    s.usedRuns.all fun r => !meets r.1 r.2 pa (2 ^ lo)
  pick.map fun pa => (pa, { s with taken := (pa, 2 ^ lo) :: s.taken })

/-- The same for a page of 64 KiB, zero-filled (17 R383). -/
def State.newFrame (s : State) : Option (Nat × State) := (s.newBlock 16).map fun f => (f.1, f.2.poke f.1 (toBytes 65536 0))

/-- Map the block of 2^stop bytes at va to `pa` below a table, making the tables that are missing or malformed (18 R397). -/
def State.mapIn (s : State) (table va pa stop : Nat) : List (Nat × Nat) → State
  | [] => s
  | (lo, n) :: r =>
    let at_ := table + 8 * (va / 2 ^ lo % 2 ^ n)
    let e := s.peek64 at_
    if lo = stop then s.poke64 at_ (pageEntry pa)
    else if !xeBad e && !xeLeaf e then s.mapIn (xePa e) va pa stop r
    else match s.newFrame with
      | none => s
      | some (f, s1) => (s1.poke64 at_ (tableEntry f)).mapIn f va pa stop r

/-- The same from the root of an ASID. -/
def State.mapUnder (s : State) (asid : BitVec 16) (va pa stop : Nat) : State :=
  let at_ := s.xlBase.toNat + 8 * asid.toNat
  let e := s.peek64 at_
  if !xeBad e && !xeLeaf e then s.mapIn (xePa e) va pa stop xlLevels
  else match s.newFrame with
    | none => s
    | some (f, s1) => (s1.poke64 at_ (tableEntry f)).mapIn f va pa stop xlLevels

/-- The physical page that the walk of va gives, where it may be read and written and is pinned. -/
def State.pinnedPage (s : State) (asid : BitVec 16) (va : Nat) : Option Nat :=
  ((s.walk asid va).filter fun l => l.rd && l.wr && l.pin).map fun l => (l.pa + (va - l.va)) / 65536

/-- The 64 KiB page that holds va is mapped under each of the ASIDs, pinned: a fresh one, zero-filled, but where all have one page already. -/
def State.mapPage (s : State) (asids : List (BitVec 16)) (va : Nat) : State :=
  let have_ := asids.map fun a => s.pinnedPage a va
  if have_.all fun x => x.isSome && decide (x = have_.headD none) then s
  else match s.newFrame with
    | none => s
    | some (f, s1) => asids.foldl (fun s a => s.mapUnder a va f 16) s1

/-- No page mapped under any ASID, and no arena, mailbox or spill region, meets the n bytes at va. -/
def State.vaFree (s : State) (va n : Nat) : Bool :=
  decide (va + n ≤ 2 ^ 43)
    && ((List.range 65536).all fun a => (s.leavesOf (BitVec.ofNat 16 a)).all fun l => !meets l.va l.size va n)
    && s.parts.all fun e => (e.2.spillSegs = 0 || !meets e.2.spillBase (2 ^ 32) va n)
      && e.2.arenas.all fun x => !meets x.2.base (x.2.top - x.2.base) va n && !meets x.2.mbox 256 va n

/-- An address for n bytes whose pages are all free: the first from `start` on, at start's offset in its page. -/
def State.freeVa (s : State) (start n : Nat) : Option Nat :=
  ((List.range (2 ^ 27)).map fun k => (start / 65536 + k) % 2 ^ 27 * 65536 + start % 65536).find? fun va =>
    s.vaFree (va / 65536 * 65536) ((va % 65536 + n + 65535) / 65536 * 65536)

/-! ### The allocator's arenas and mailboxes (17 R382, R383) -/

/-- Bytes that Wilnil reads or writes under the allocator's ASID. -/
def State.allocRead (s : State) (va n : Nat) : Option (List Byte) :=
  (s.translateAll (svcStation va) 2 kRead false va n 2).map fun r => r.2.peekRuns r.1
def State.allocWrite (s : State) (va : Nat) (bs : List Byte) : State :=
  match s.translateAll (svcStation va) 2 kWrite false va bs.length 2 with
  | none => s
  | some (runs, s1) => s1.pokeRuns runs bs

/-- An arena of its own for the n-th process instance of partition p, and a mailbox, both 64-aligned and on pages that nothing else has (09 R250;
17 R382; log 30). -/
def State.pickArena (s : State) (p n : Nat) : Option Arena :=
  let len := Config.arenaBytes p n / 64 * 64
  match s.freeVa (Config.arenaFrom p n / 64 * 64) len with
  | none => none
  | some base =>
    let used := s.modPart p fun a => { a with arenas := (0, { base := base / 65536 * 65536, top := up (base + len) 65536, mbox := 0, seen := false }) :: a.arenas }
    (used.freeVa (Config.mailboxFrom p n % 65280 / 64 * 64 + Config.mailboxFrom p n / 65536 * 65536) 256).map fun m =>
      { base := base, top := base + len, mbox := m, seen := false }

/-- A hart's arena and mailbox as Wilnil sets them up: the mailbox is mapped for the allocator, the arena's first page for the process
too, and both barriers expect one arrival (17 "Set-up", R382; log 30). -/
def State.setArena (s : State) (p h : Nat) (asid : BitVec 16) (x : Arena) : State :=
  let s1 := (s.mapPage [2] x.mbox).mapPage [asid, 2] x.base
  let s2 := (s1.allocWrite (x.mbox + 64) (barrierOf 1 0 0 (toBytes 32 0))).allocWrite (x.mbox + 128) (barrierOf 1 0 0 (toBytes 32 0))
  s2.modPart p fun a => { a with arenas := mput a.arenas h x }

/-- The words of a hart's allocator record: NEXT, END, MBOX; an empty arena where none can be had. -/
def Arena.record (x : Option Arena) : List Byte :=
  (match x with
    | some x => bytes64 (globalPtr x.base) ++ bytes64 (globalPtr x.top) ++ bytes64 (globalPtr x.mbox)
    | none => toBytes 24 0) ++ toBytes 232 0

/-- The harts of partition p whose request barrier has flipped since it was last served. -/
def State.askers (s : State) (p : Nat) : List (Nat × Arena) :=
  (s.part p).arenas.filter fun e =>
    match s.allocRead (e.2.mbox + 64) 32 with
    | some bs => decide (phaseOf bs ≠ e.2.seen)
    | none => false

/-- Serve hart h's request: an address in its process's arena gets its page and result 0, any other address result 1; in both cases
Wilnil arrives at the reply barrier (17 R383). -/
def State.servePage (s : State) (p h : Nat) (x : Arena) : State :=
  let a := wordAt ((s.allocRead x.mbox 8).getD []) 0
  let inside := decide (winOf a = 2) && decide (x.base ≤ vaOf a) && decide (vaOf a < x.top)
  let s1 := if inside then s.mapPage [(s.part p).asid, 2] (vaOf a) else s
  let s2 := s1.allocWrite (x.mbox + 8) (toBytes 8 (if inside then 0 else 1))
  let s3 := match s2.allocRead (x.mbox + 128) 32 with
    | some bs => s2.allocWrite (x.mbox + 128) (barrierArrive 1 bs)
    | none => s2
  s3.modPart p fun q => { q with arenas := mput q.arenas h { x with seen := !x.seen } }

/-- The first request that waits for a supervisor which is not held. -/
def State.pageRequest (s : State) : Option State :=
  (List.range 16).findSome? fun p =>
    if !(s.part p).bound || (s.hart (s.part p).sup).held then none
    else (s.askers p).head?.map fun e => s.servePage p e.1 e.2

/-! ### The spill region (09 R271) -/

/-- Wilnil sets the spill region of a partition: 4 GiB of virtual addresses that no ASID has mapped, pinned under ASID 0 alone (log 30); its
first address, where there is one. -/
def State.setSpill (s : State) (p : Nat) : Option (Nat × State) :=
  let pick := ((List.range (2 ^ 13)).map fun k => (Config.spillPage p + k) % 2 ^ 13 * 2 ^ 30).find? fun va => s.vaFree va (2 ^ 32)
  pick.map fun va => (va, (List.range 4).foldl (fun s k => match s.newBlock 30 with
    | some (pa, s1) => s1.mapUnder 0 (va + k * 2 ^ 30) pa 30
    | none => s) s)

/-- The region is returned: its leaves go, in memory and in every station, and its blocks are free again. -/
def State.dropSpill (s : State) (va : Nat) : State :=
  let ls := (s.leavesOf 0).filter fun l => meets l.va l.size va (2 ^ 32)
  let s1 := ls.foldl (fun s l => s.poke64 l.at_ 0) s
  { s1 with
    taken := s1.taken.filter fun b => !ls.any fun l => decide (l.pa = b.1)
    stations := s1.stations.map fun e => (e.1, { e.2 with
      tlb := e.2.tlb.filter fun l => decide (l.asid ≠ 0) || !meets l.va l.size va (2 ^ 32) }) }

end Sys2Proof.Machine
end

