-- ==== Sys2Proof/Machine/Launch.lean ====
section
/-! DEFINITION. Wilnil's launch service (12 R304 to R307; 09 R245, R251, R259, R263; 03 R105, R106; 18 R409; 17 R381, R382): reading a
launch message and its image, placing, binding and releasing the network, and unbinding one that has ended. The layout of a tile store
is that of chapters 08 and 17 (log 30). -/

namespace Sys2Proof.Machine

/-! ### The image (03 R105, R106) -/

/-- A section-table entry. -/
structure Section where
  kind : Nat
  off : Nat
  size : Nat
  count : Nat
  deriving DecidableEq, Repr

structure Proc where
  code : Nat
  codeLen : Nat
  data : Nat
  dataLen : Nat
  kahn : Bool
  budget : Nat
  place : Option Nat
  farm : Bool
  deriving DecidableEq, Repr

structure ChanDecl where
  fmt : Fmt
  mode : ChanMode
  depth : Nat
  f : Nat
  deriving DecidableEq, Repr

structure BindDecl where
  proc : Nat
  port : Nat
  out : Bool
  chan : Nat
  deriving DecidableEq, Repr

/-- A farm: its process, its number of instances, and the channels they read and write. -/
structure Farm where
  proc : Nat
  f : Nat
  inChan : Nat
  outChan : Nat
  deriving DecidableEq, Repr

structure Image where
  bytes : List Byte
  digest : BitVec 256
  code : Section
  data : Section
  procs : List Proc
  chans : List ChanDecl
  binds : List BindDecl
  farms : List Farm
  streams : List Reserved
  gates : List (List W64)
  /-- code offset, target section kind -/
  relocs : List (Nat × Nat)
  deriving DecidableEq, Repr

def sectionsOf (bs : List Byte) : List Section :=
  (List.range (natAt bs 6 2)).map fun i =>
    { kind := natAt bs (64 + 16 * i) 4, off := natAt bs (68 + 16 * i) 4, size := natAt bs (72 + 16 * i) 4
      count := natAt bs (76 + 16 * i) 4 }

/-- The section of a kind; an absent one is empty. -/
def sectionOf (ss : List Section) (k : Nat) : Section :=
  (ss.find? fun x => decide (x.kind = k)).getD { kind := k, off := 0, size := 0, count := 0 }

/-- The records of a section, each of n bytes. -/
def recordsOf (bs : List Byte) (x : Section) (n : Nat) : List (List Byte) :=
  (List.range x.count).map fun i => cut bs (x.off + n * i) n

/-- The whole image ends where its last section does. -/
def imageLen (bs : List Byte) : Nat :=
  (sectionsOf bs).foldl (fun m x => max m (x.off + x.size)) (64 + 16 * natAt bs 6 2)

def procOf (r : List Byte) : Proc :=
  { code := natAt r 4 4, codeLen := natAt r 8 4, data := natAt r 12 4, dataLen := natAt r 16 4, kahn := bitOf (natAt r 20 4) 0
    budget := natAt r 24 2, place := if natAt r 26 2 = 0xFFFF then none else some (natAt r 26 2), farm := bitOf (natAt r 20 4) 1 }

def chanOf (r : List Byte) : Option ChanDecl :=
  match fmtOfCode (BitVec.ofNat 5 (natAt r 4 1)) with
  | some f => if 32 ≤ natAt r 4 1 || 2 < natAt r 5 1 then none else
      some { fmt := f, mode := match natAt r 5 1 with | 0 => .normal | 1 => .deal | _ => .merge, depth := natAt r 6 2
             f := natAt r 8 2 }
  | none => none

/-- The reserved bits of a gate entry are zero (18 R406). -/
def gateClean (g : List W64) : Bool :=
  decide ((g.getD 0 0).extractLsb' 59 4 = 0) && decide ((g.getD 0 0).extractLsb' 21 11 = 0)
    && decide ((g.getD 1 0).extractLsb' 29 3 = 0) && decide ((g.getD 3 0).extractLsb' 21 43 = 0)

/-- Wilnil's checks of an image: magic, version, digest and reserved fields (03 R105, R106). -/
def readImage (bs : List Byte) : Option Image :=
  let ss := sectionsOf bs
  let digest := BitVec.ofNat 256 (natAt bs 16 32)
  let rec_ := fun k n => recordsOf bs (sectionOf ss k) n
  let procs := rec_ 0x03 32
  let chans := rec_ 0x04 16
  let binds := rec_ 0x05 8
  let farms := rec_ 0x06 12
  let streams := rec_ 0x07 8
  let gates := (rec_ 0x08 64).map fun r => (List.range 8).map fun i => wordAt r (8 * i)
  let ok :=
    decide (natAt bs 0 4 = 0x314E574E) && decide (natAt bs 4 2 = 1) && decide (natAt bs 8 4 < 2) && decide (natAt bs 12 4 = 0)
      && decide (natAt bs 48 16 = 0)
      && decide (sha3 (bs.take 16 ++ toBytes 32 0 ++ bs.drop 48) = digest)
      && ss.all (fun x => decide (0 < x.kind) && decide (x.kind < 0x0C))
      && procs.all (fun r => decide (natAt r 20 4 < 4) && decide (natAt r 28 4 = 0))
      && chans.all (fun r => (chanOf r).isSome && decide (natAt r 10 6 = 0))
      && binds.all (fun r => decide (natAt r 6 2 = 0) && decide (natAt r 3 1 < 2) && decide (natAt r 2 1 < 16)
            && decide (natAt r 4 2 < chans.length))
      && farms.all (fun r => decide (natAt r 10 2 = 0))
      && streams.all (fun r => decide (natAt r 3 1 = 0))
      && gates.all gateClean
      && (rec_ 0x09 8).all (fun r => decide (natAt r 4 2 % 16 = 0) && decide (natAt r 6 2 = 0))
  if !ok then none
  else some {
    bytes := bs, digest := digest, code := sectionOf ss 0x01, data := sectionOf ss 0x02
    procs := procs.map procOf, chans := chans.filterMap chanOf
    binds := binds.map fun r => { proc := natAt r 0 2, port := natAt r 2 1, out := decide (natAt r 3 1 = 1), chan := natAt r 4 2 }
    farms := farms.map fun r => { proc := natAt r 0 4, f := natAt r 4 2, inChan := natAt r 6 2, outChan := natAt r 8 2 }
    streams := streams.map fun r =>
      { proc := natAt r 0 2, slot := natAt r 2 1, dest := if natAt r 4 4 = 0xFFFFFFFF then none else some (natAt r 4 4) }
    gates := gates
    relocs := (rec_ 0x0B 12).map fun r => (natAt r 0 4, natAt r 4 4) }

/-! ### Placement (12 R306) -/

/-- Instances of process i: F of its farm, or one. -/
def Image.instances (m : Image) (i : Nat) : Nat := ((m.farms.find? fun x => decide (x.proc = i)).map fun x => x.f).getD 1

/-- One instance to place: process, instance number. -/
abbrev Inst := Nat × Nat

def Image.insts (m : Image) : List Inst :=
  (List.range m.procs.length).flatMap fun i => (List.range (m.instances i)).map fun j => (i, j)

def Image.proc (m : Image) (i : Nat) : Proc :=
  (m.procs[i]?).getD { code := 0, codeLen := 0, data := 0, dataLen := 0, kahn := false, budget := 0, place := none, farm := false }
def Image.chan (m : Image) (c : Nat) : ChanDecl := (m.chans[c]?).getD { fmt := .raw, mode := .normal, depth := 0, f := 1 }

/-- Tokens of the platforms that an instance reads: every one of a MERGE channel, one of any other. -/
def Image.inTokens (m : Image) (i : Nat) : Nat :=
  ((m.binds.filter fun b => decide (b.proc = i) && !b.out).map fun b =>
    let c := m.chan b.chan
    c.depth * (if c.mode = .merge then c.f else 1)).foldl (· + ·) 0

/-! What stands on a tile is a list of its instances, each with its hart. -/

def Image.codeOn (m : Image) (l : List (Inst × Nat)) : Nat := (l.map fun e => up (m.proc e.1.1).codeLen 4).foldl (· + ·) 0
def Image.dataOn (m : Image) (l : List (Inst × Nat)) : Nat :=
  (l.map fun e => up (m.proc e.1.1).dataLen 64 + up Config.saveBytes 64).foldl (· + ·) 0
def Image.platsOn (m : Image) (l : List (Inst × Nat)) : Nat := (l.map fun e => 8 * m.inTokens e.1.1).foldl (· + ·) 0

/-- Code lies from offset 0 where it fits below the resident code, else from 0x1000; XBND is the next multiple of 4 KiB. -/
def codeBase (n : Nat) : Nat := if n ≤ 0xC00 then 0 else 0x1000
def xbndOf (n : Nat) : Nat := if n ≤ 0xC00 then 0x1000 else up (0x1000 + n) 0x1000
/-- Data lies from XBND; platforms from 0x30000, or behind the data where it reaches further. -/
def platBase (xb d : Nat) : Nat := max 0x30000 (up (xb + d) 64)

/-- A tile holds these instances: its platforms within 256 KiB (09 R251), everything within the store, and with gates the data
below the gate frames. -/
def Image.fits (m : Image) (l : List (Inst × Nat)) : Bool :=
  let xb := xbndOf (m.codeOn l)
  decide (m.platsOn l ≤ 0x40000) && decide (platBase xb (m.dataOn l) + m.platsOn l ≤ 2 ^ 21)
    && (m.gates.isEmpty || decide (xb + m.dataOn l ≤ 0x10000))

/-- A placement: the hart of each instance, newest first. -/
abbrev Placement := List (Inst × Nat)

def onTile (pl : Placement) (t : Nat) : List (Inst × Nat) := (pl.filter fun e => decide (tileOf e.2 = t)).reverse

/-- The lowest hart of a tile that no partition and no instance has. 19 R431 starts the Wilnil device supervisor on hart 0 of tile 0, where
chapter 08 places a process (12 R306; 09 R243), and the manual does not say what becomes of it: DESIGN CHOICE (log 31), it counts as free and
a process bound there takes its context. -/
def State.freeHart (s : State) (pl : Placement) (t : Nat) : Option Nat :=
  (hartsOf t).find? fun h => (s.hart h).part.isNone && pl.all fun e => decide (e.2 ≠ h)

/-- Put an instance on tile t: none without a free hart (reason 5) or without room (reason 6). -/
def State.putOn (s : State) (m : Image) (pl : Placement) (x : Inst) (t : Nat) : Except Nat Placement :=
  match s.freeHart pl t with
  | none => .error 5
  | some h => if m.fits (onTile pl t ++ [(x, h)]) then .ok ((x, h) :: pl) else .error 6

/-- Processes with a named tile. -/
def State.placeNamed (s : State) (m : Image) : List Inst → Placement → Except Nat Placement
  | [], pl => .ok pl
  | x :: r, pl =>
    match (m.proc x.1).place with
    | none => s.placeNamed m r pl
    | some t => match s.putOn m pl x t with
      | .ok p => s.placeNamed m r p
      | .error e => .error e

/-- The first tile of a list that takes an instance. -/
def State.putFirst (s : State) (m : Image) (pl : Placement) (x : Inst) : List Nat → Except Nat Placement
  | [] => .error 5
  | t :: r =>
    match s.putOn m pl x t with
    | .ok p => .ok p
    | .error e => match s.putFirst m pl x r with
      | .ok p => .ok p
      | .error f => .error (max e f)

/-- The other processes, in PROC order, on the tiles of the partition. -/
def State.placeRest (s : State) (m : Image) (ts : List Nat) : List Inst → Placement → Except Nat Placement
  | [], pl => .ok pl
  | x :: r, pl =>
    if (m.proc x.1).place.isSome then s.placeRest m ts r pl
    else match s.putFirst m pl x ts with
      | .ok p => s.placeRest m ts r p
      | .error e => .error e

/-- Take tiles from `free` one by one until every process has its place. -/
def State.placeOn (s : State) (m : Image) (ts : List Nat) (pl : Placement) : List Nat → Except Nat (List Nat × Placement)
  | [] => (s.placeRest m ts m.insts pl).map fun p => (ts, p)
  | t :: r =>
    match s.placeRest m ts m.insts pl with
    | .ok p => .ok (ts, p)
    | .error _ => s.placeOn m (addTile t ts) pl r

/-- Tiles that bound partitions hold. -/
def State.heldTiles (s : State) : List Nat := s.parts.flatMap fun e => if e.2.bound then e.2.tiles else []

def State.place (s : State) (m : Image) : Except Nat (List Nat × Placement) :=
  let named := m.procs.foldl (fun l p => match p.place with | some t => addTile t l | none => l) []
  if named.any (fun t => s.heldTiles.contains t || decide (1024 ≤ t)) then .error 5
  else
    match s.placeNamed m m.insts [] with
    | .error e => .error e
    | .ok pl => s.placeOn m named pl ((List.range 1024).filter fun t => !s.heldTiles.contains t && !named.contains t)

/-! ### Gate entries (18 R409; 17 R381) -/

/-- Where the frames, record, table and window set of hart number l of a tile lie. -/
def gateArea (l : Nat) : Nat := 0x1C000 - 0x4000 * l
def gateTable (l : Nat) : Nat := gateArea l + 0x3100

/-- The one resident service that the manual gives: the allocator, at 0xC00 with handler 0xD20. -/
def namesAllocator (g : List W64) : Bool :=
  decide ((g.getD 0 0).extractLsb' 0 21 = 0xC00) && decide ((g.getD 1 0).extractLsb' 0 21 = 0xD20)

/-- An entry with the fields that Wilnil writes: CASID 2, DLIM 1, the caller's ASID as filter, FRAME 3, the window set. -/
def wilnilEntry (g : List W64) (asid : BitVec 16) (gset : Nat) : List Byte :=
  let vmask : BitVec 8 := (g.getD 0 0).extractLsb' 48 8
  bytes64 (BitVec.ofNat 64 (2 ^ 63 + 1 * 2 ^ 56 + vmask.toNat * 2 ^ 48 + 2 * 2 ^ 32 + 0xC00))
    ++ bytes64 (BitVec.ofNat 64 (asid.toNat * 2 ^ 48 + 0xFFFF * 2 ^ 32 + 3 * 2 ^ 21 + 0xD20))
    ++ bytes64 (g.getD 2 0) ++ bytes64 (BitVec.ofNat 64 gset) ++ toBytes 32 0

/-- A window that admits reads and writes of the lines of [o, o + n) under an ASID (01 R36). -/
def grantWindow (asid : BitVec 16) (o n : Nat) : W64 :=
  if n = 0 then 0
  else BitVec.ofNat 64 (2 ^ 63 + 2 ^ 61 + 2 ^ 60 + asid.toNat * 2 ^ 43 + ((o + n - 1) / 64 * 64) * 2 ^ 22 + o / 64 * 64)

/-- Set up a hart's arena, write its record, table and window set, and set GTBASE and GFRAME. -/
def State.bindGates (s : State) (m : Image) (p n h : Nat) (asid : BitVec 16) : State :=
  if m.gates.isEmpty then s
  else
    let l := h % 4
    let t := tileOf h
    let table := gateTable l
    let gset := table + 64 * m.gates.length
    let record := gateArea l + 0x3000
    let x := s.pickArena p n
    let s0 := match x with | some x => s.setArena p h asid x | none => s
    let s1 := s0.tilePoke t record (Arena.record x)
    let s2 := s1.tilePoke t table (m.gates.flatMap fun g => wilnilEntry g asid gset)
    let s3 := s2.tilePoke t gset (bytes64 (grantWindow 2 record 256) ++ toBytes 56 0)
    (s3.modHart h fun a => { a with gtbase := BitVec.ofNat 21 table, gtnent := BitVec.ofNat 8 m.gates.length }).writeGframe h
      (BitVec.ofNat 64 (0x3000 * 2 ^ 32 + gateArea l))

/-! ### Code, data and registers of a process (09 R263 step 5) -/

/-- Where an instance's code and data lie on its tile. -/
def Image.codeAt (m : Image) (l : List (Inst × Nat)) (x : Inst) : Nat :=
  codeBase (m.codeOn l) + m.codeOn (l.takeWhile fun e => decide (e.1 ≠ x))
def Image.dataAt (m : Image) (l : List (Inst × Nat)) (x : Inst) : Nat :=
  xbndOf (m.codeOn l) + m.dataOn (l.takeWhile fun e => decide (e.1 ≠ x))
def Image.platsAt (m : Image) (l : List (Inst × Nat)) (x : Inst) : Nat :=
  platBase (xbndOf (m.codeOn l)) (m.dataOn l) + m.platsOn (l.takeWhile fun e => decide (e.1 ≠ x))

/-- Add the placed address of a target to bits [39:0] of the word at offset o (03 R106). -/
def relocate (code : List Byte) (o placed : Nat) : List Byte :=
  let w := bytesWord (cut code o 12)
  let v := BitVec.ofNat 40 ((w.extractLsb' 0 40).toNat + placed)
  code.take o ++ wordBytes (w.extractLsb' 40 56 ++ v) ++ code.drop (o + 12)

/-- The code of process i with its relocations applied; a target of a kind other than CODE and DATA is taken as DATA (log 40). -/
def Image.codeOf (m : Image) (i codeAt dataAt : Nat) : List Byte :=
  let p := m.proc i
  m.relocs.foldl (fun bs r =>
    if p.code ≤ r.1 && r.1 < p.code + p.codeLen then relocate bs (r.1 - p.code) (if r.2 = 1 then codeAt else dataAt) else bs)
    (cut m.bytes (m.code.off + p.code) p.codeLen)

/-- The service station loads bytes at offset o of every tile of a rectangle, in multicast packets of at most 256 bytes (10 R285; 12 R307). -/
def State.multicast (s : State) (p x0 x1 y0 y1 o : Nat) : Nat → List Byte → State
  | 0, _ => s
  | f + 1, bs =>
    if bs.isEmpty then s
    else (s.send (stEp 29) (.rect x0 x1 y0 y1) 0 (some p) (.load o (bs.take 256))).multicast p x0 x1 y0 y1 (o + 256) f (bs.drop 256)

def State.loadTileBytes (s : State) (p t o : Nat) (bs : List Byte) : State :=
  s.multicast p (t % 32) (t % 32) (t / 32) (t / 32) o (bs.length + 1) bs

/-- Ascending tiles as runs along a row: first tile, and how many more. -/
def rowRuns : List Nat → List (Nat × Nat)
  | [] => []
  | t :: r =>
    match rowRuns r with
    | (u, n) :: q => if u = t + 1 ∧ u / 32 = t / 32 then (t, n + 1) :: q else (t, 0) :: (u, n) :: q
    | [] => [(t, 0)]

/-- The same bytes for each of a partition's tiles, a rectangle at a time. -/
def State.loadTiles (s : State) (p o : Nat) (ts : List Nat) (bs : List Byte) : State :=
  (rowRuns ts).foldl (fun s r => s.multicast p (r.1 % 32) (r.1 % 32 + r.2) (r.1 / 32) (r.1 / 32) o (bs.length + 1) bs) s

/-- Load one instance and set its hart's registers. -/
def State.bindHart (s : State) (m : Image) (p : Nat) (asid : BitVec 16) (pl : Placement) (args : List W64) (pidx n : Nat)
    (e : Inst × Nat) : State :=
  let x := e.1
  let h := e.2
  let t := tileOf h
  let l := onTile pl t
  let q := m.proc x.1
  let ca := m.codeAt l x
  let da := m.dataAt l x
  let data := cut m.bytes (m.data.off + q.data) q.dataLen
  let argb := if x.1 = pidx then args.flatMap bytes64 else []
  let s1 := (s.loadTileBytes p t ca (m.codeOf x.1 ca da)).loadTileBytes p t da (argb ++ data.drop argb.length)
  let a : Hart := { Hart.init with
    gframe := (s.hart h).gframe, pc := BitVec.ofNat 64 ca, kahn := q.kahn, asid := asid, part := some p
    xbnd := BitVec.ofNat 21 (xbndOf (m.codeOn l)), xbndF := BitVec.ofNat 21 (xbndOf (m.codeOn l))
    trapvec := 0xE80, trapvecF := 0xE80
    budget := if q.budget = 0 then 1024 else q.budget
    stguard := [(0, grantWindow asid da q.dataLen), (1, grantWindow asid (da + up q.dataLen 64) Config.saveBytes)]
    blkSince := s.cycle t }
  (s1.setHart h a).bindGates m p n h asid

/-! ### Channels (09 R251, R256, R257, R259, R263 steps 3 and 4) -/

/-- Ends of one direction of channel c, in BIND order and by instance, each numbered. -/
def Image.ends (m : Image) (pl : Placement) (c : Nat) (out : Bool) : List (Nat × ChanEnd) :=
  let bs := m.binds.filter fun b => decide (b.chan = c) && decide (b.out = out)
  let es := bs.flatMap fun b =>
    if b.proc = 0xFFFF then [ChanEnd.mem b.port]
    else if b.proc = 0xFFFE then [ChanEnd.host b.port]
    else ((pl.filter fun e => decide (e.1.1 = b.proc)).reverse).map fun e => ChanEnd.hart e.2 (BitVec.ofNat 4 b.port)
  es.mapIdx fun i e => (i, e)

/-- Tokens of the input platforms of an instance that come before channel c, by BIND order. -/
def Image.tokensBefore (m : Image) (i c : Nat) : Nat :=
  (((m.binds.filter fun b => decide (b.proc = i) && !b.out).takeWhile fun b => decide (b.chan ≠ c)).map fun b =>
    (m.chan b.chan).depth * (if (m.chan b.chan).mode = .merge then (m.chan b.chan).f else 1)).foldl (· + ·) 0

/-- Channel c as bound: a platform of the declared depth each, S(p) its capacity, and its place in the reader's store. -/
def Image.bindChan (m : Image) (pl : Placement) (c : Nat) : Chan :=
  let d := m.chan c
  let readers := m.ends pl c false
  let n := match d.mode with | .normal => 1 | _ => d.f
  let base := fun i =>
    match (readers.find? fun e => decide (e.1 = (if d.mode = .deal then i else 0))).map fun e => e.2 with
    | some (.hart h _) =>
      match pl.find? fun e => decide (e.2 = h) with
      | some e => m.platsAt (onTile pl (tileOf h)) e.1 + 8 * (m.tokensBefore e.1.1 c + (if d.mode = .merge then d.depth * i else 0))
      | none => 0
    | _ => 0
  { fmt := d.fmt, mode := d.mode, depth := d.depth, f := d.f
    plats := (List.range n).map fun i => (i, { cap := d.depth, base := base i, head := 0, toks := [], segs := [] })
    slots := (List.range n).map fun i => (i, d.depth)
    strip := 0, turn := 0, ended := [], writers := m.ends pl c true, readers := readers }

/-- The port bindings of the ends of a channel (01 R18). -/
def State.bindPorts (s : State) (p c : Nat) (x : Chan) : State :=
  let one := fun (out : Bool) (s : State) (e : Nat × ChanEnd) =>
    match e.2 with
    | .hart h k => s.modHart h fun a =>
        { a with k := mput a.k k.toNat (some { part := p, chan := c, out := out, mode := x.mode, fmt := x.fmt, idx := e.1 }) }
    | _ => s
  (x.readers.foldl (one false) (x.writers.foldl (one true) s)).bindWindows p c x

/-- Station pair n: its channels, its home station, and the ASID of the process that writes the request channel. Wilnil chooses the home
station (09 R259): DESIGN CHOICE (log 31), memory station n mod 16. -/
def Image.pair (m : Image) (n : Nat) (asid : BitVec 16) : StPair :=
  let chanOf := fun out => ((m.binds.find? fun b => decide (b.proc = 0xFFFF) && decide (b.port = n) && decide (b.out = out)).map
    fun b => b.chan).getD 0
  { req := chanOf false, rep := chanOf true, home := n % 16, asid := asid, out := [] }

def Image.pairNums (m : Image) : List Nat :=
  (List.range 16).filter fun n => m.binds.any fun b => decide (b.proc = 0xFFFF) && decide (b.port = n)

/-! ### Replies and the whole of a launch (12 R304, R305; 09 R263) -/

/-- A reply token: OP, the field in [47:32], and LID. -/
def replyWord (op field : Nat) (lid : BitVec 16) : Token :=
  dataToken (BitVec.ofNat 64 (op * 2 ^ 56 + field * 2 ^ 32 + lid.toNat))

def State.reply1 (s : State) (t : Token) : State := { s with replyq := s.replyq ++ [t] }

/-- The default spill region's segments (09 R271). -/
def spillSegments : Nat := 1016784

/-- The supervisor hart: the highest free hart of the partition's tiles, or else the device supervisor's (log 31). -/
def State.chooseSup (s : State) (pl : Placement) (ts : List Nat) : Nat :=
  match ts.findSome? fun t => (hartsOf t).reverse.find? fun h => (s.hart h).part.isNone && pl.all fun e => decide (e.2 ≠ h) with
  | some h => h
  | none => 0

/-- Why a launch is rejected, or where it goes: the image, its partition, tiles and placement. -/
structure Plan where
  image : Image
  part : Nat
  tiles : List Nat
  place : Placement
  deriving DecidableEq, Repr

/-- 12 R304, R305. The manual gives no order among the reasons of R305: DESIGN CHOICE (log 31), 2, 3, 4, 1 for a budget, 6 for a host
channel's depth, 5 for want of a partition, 5 or 6 of the placement, 7; and 1 for the message's own fields before all. -/
def planLaunch (s : State) (bs : Option (List Byte)) (nargs pidx : Nat) : Except Nat Plan :=
  match bs.bind readImage with
  | none => .error 2
  | some m =>
    if m.procs.length ≤ pidx then .error 3
    else if (m.proc pidx).dataLen < 8 * nargs then .error 4
    else if m.procs.any fun p => decide (1024 < p.budget) then .error 1
    else if m.binds.any fun b => decide (b.proc = 0xFFFE) && !b.out && decide (4096 < (m.chan b.chan).depth) then .error 6
    else
      match (List.range 16).find? fun p => !(s.part p).bound with
      | none => .error 5
      | some p =>
        match s.place m with
        | .error e => .error e
        | .ok (ts, pl) => if m.gates.all namesAllocator then .ok { image := m, part := p, tiles := ts, place := pl } else .error 7

/-- The ASID of the next network: from 0x0100 upward, none that a bound network has (18 R386). -/
def State.freshAsid (s : State) : Nat :=
  (((List.range 17).map fun i => 0x100 + (s.nextAsid - 0x100 + i) % 0xFF00).find? fun x =>
    s.parts.all fun e => !e.2.bound || decide (e.2.asid.toNat ≠ x)).getD 0x100

/-- The clock dividers and budgets that the partition is to run with (12 R307, R316 to R319). -/
def State.writeBudgets (s : State) (p : Nat) (ts : List Nat) : State :=
  let s1 := ts.foldl (fun s t => ((s.writeTsched t (Config.tsched t)).writeJinj t (Config.jinj t)).applyDiv t) s
  (List.range 20).foldl (fun s n => s.modStation n fun x => { x with sbudget := mput x.sbudget p (bitsAt (Config.sbudget p n) 0 16) }) s1

/-- Bind a planned launch (09 R263). Code and data go to the tiles by multicast, and no hart runs until `releaseNet`. TTNEXT takes all ones:
no switch is scheduled; the rule gives no value (DESIGN CHOICE, log 31). -/
def State.bindPlan (s : State) (k : Plan) (lid : BitVec 16) (pidx : Nat) (args : List W64) : State :=
  let m := k.image
  let p := k.part
  let n := s.freshAsid
  let asid := BitVec.ofNat 16 n
  let sup := s.chooseSup k.place k.tiles
  let s1 := (s.writeBudgets p k.tiles).loadTiles p 0xC00 k.tiles residentCode
  let es := k.place.reverse
  let s2 := (es.mapIdx fun i e => (i, e)).foldl (fun s e => s.bindHart m p asid k.place args pidx e.1 e.2) s1
  let chans := (List.range m.chans.length).map fun c => (c, m.bindChan k.place c)
  let s3 := chans.foldl (fun s c => s.bindPorts p c.1 c.2) s2
  let s4 := if sup = 0 then s3
    else (s3.bindSup p sup (xbndOf (m.codeOn (onTile k.place (tileOf sup))))).modHart sup fun a => { a with own := .parked }
  let (spill, s5) := match s4.setSpill p with
    | some (va, s5) => (some va, s5)
    | none => (none, s4)
  let a := s5.part p
  let s6 := s5.setPart p { a with
    bound := true, loading := true, lid := lid, image := m.digest, asid := asid, tiles := k.tiles
    harts := (es.map fun e => e.2) ++ (if sup = 0 then [] else [sup]), sup := sup
    ttnext := BitVec.allOnes 64, chans := chans, pairs := m.pairNums.map fun n => (n, m.pair n asid), streams := m.streams
    sb := .watch, sweep := none, seq := 0, grows := 0
    spillBase := spill.getD 0, spillSegs := if spill.isSome then spillSegments else 0, segsUsed := 0, reports := []
    wdCount := 0, wdFired := false, stopped := false, stopping := false, going := false, ckLast := s.time.toNat
    ckDue := false, ckWriting := false, parked := [], late := [], savePend := false, loadPend := false, goPend := false
    sweepAt := s.main + 170, swTime := s.time, ending := none }
  { s6 with nextAsid := n + 1 }

/-- Step 7 of 09 R263, once every packet that loads the network has been ejected: its harts are released, and the host is told (12 R305). -/
def State.releaseNet (s : State) (p : Nat) : State :=
  let a := s.part p
  let s1 := a.harts.foldl (fun s h => s.modHart h fun x =>
    { x with own := .running, blkSince := s.cycle (tileOf h), syncAt := s.stlog.length }) s
  (s1.modPart p fun a => { a with loading := false, sweepAt := s.main + 170 }).reply1 (replyWord 0x81 p a.lid)

/-- The bytes of the image that a launch message names, read under the supervisor's ASID; none where its pointer is no valid window-10 pointer
or not 64-aligned, which the launch then rejects with reason 2: the manual names no reason for it (DESIGN CHOICE, log 31). -/
def State.imageAt (s : State) (p : W64) : Option (List Byte) :=
  if winOf p ≠ 2 || !ptrValid p || decide (p.toNat % 64 ≠ 0) then none
  else
    let va := vaOf p
    (s.svcRead va 64).bind fun hd =>
      (s.svcRead va (64 + 16 * natAt hd 6 2)).bind fun tb => s.svcRead va (imageLen tb)

/-- Serve one launch message of 2 + NARGS tokens. -/
def State.serveLaunch (s : State) (ts : List Token) : State :=
  let word := fun i => ((ts[i]?).map fun t => t.data).getD 0
  let t0 := word 0
  let nargs := bitsAt t0 32 16
  let pidx := bitsAt t0 16 16
  let lid : BitVec 16 := t0.extractLsb' 0 16
  let args := (ts.drop 2).map fun t => t.data
  let bad := decide (bitsAt t0 56 8 ≠ 1) || decide (bitsAt t0 48 8 ≠ 0) || decide (4096 < nargs)
  match (if bad then Except.error 1 else planLaunch s (s.imageAt (word 1)) nargs pidx) with
  | .error r => s.reply1 (replyWord 0x82 r lid)
  | .ok k => s.bindPlan k lid pidx args

/-- Consume a launch message and serve it; of one that has not come whole, consume what stands. End tokens say nothing here. -/
def State.consumeLaunch (s : State) : State :=
  let ts := s.launchIn ++ s.launchq.filter fun t => !t.isEnd
  match ts with
  | [] => { s with launchq := [] }
  | t :: _ =>
    let n := 2 + bitsAt t.data 32 16
    if ts.length < n then { s with launchq := [], launchIn := ts }
    else { s with launchq := ts.drop n, launchIn := [] }.serveLaunch (ts.take n)

/-! ### The end of a network (12 R305; 09 R263, R435; 16 R367) -/

/-- A hart that a fatal context error has ended: the ROM handler holds it, or it has halted inside a handler (16 R367, R368). -/
def Hart.failed (a : Hart) : Bool := a.held || (decide (a.own = .parked) && decide (a.td ≠ 0))
def State.failedHarts (s : State) (p : Nat) : List Nat := (s.part p).stops.filter fun h => (s.hart h).failed

/-- DONE's reason, where Wilnil is to unbind the partition now: every process halted; or, at its switch, what its supervisor was told
of, or a fatal context error. -/
def State.endReason (s : State) (p : Nat) : Option Nat :=
  let a := s.part p
  let failed := !(s.failedHarts p).isEmpty
  if !a.bound || a.loading then none
  else if a.stopped then (if a.ending.isSome then a.ending else if failed then some 3 else none)
  else if !failed && a.stops.all fun h => decide ((s.hart h).own = .parked) then some 0
  else none

/-- Unbind: packets still about are discarded, harts are parked and scrubbed, host windows freed, counts and streams end, the mortar is
returned, and the partition is free again. -/
def State.unbind (s : State) (p r : Nat) : State :=
  let a := s.part p
  let s1 := s.scrubNet p a.harts
  let s3 := if a.spillSegs = 0 then s1 else s1.dropSpill a.spillBase
  (s3.setPart p { Partition.init with
    wdPeriod := a.wdPeriod, swBase := a.swBase, swBar := a.swBar, ckEn := a.ckEn, ckPeriod := a.ckPeriod, ckSlotG := a.ckSlotG
    ckBase := a.ckBase, ckBusy := a.ckBusy, ckFail := a.ckFail, ckGoPend := a.ckGoPend
    count := a.count, thresh := a.thresh }).reply1 (replyWord 0x83 r a.lid)

/-- The trap registers of a hart as Wilnil's fault log has them. -/
def Hart.faultRecord (a : Hart) (h : Nat) : List Byte :=
  RomReport.bytes { hart := h, trappc := a.trappc, trapcause := a.trapcause, trapaddr := a.trapaddr, trapinfo := a.trapinfo
                    cause := a.trapcause.setWidth 8, addr := a.trapaddr, pc := a.pc, fatal := true }

/-- A network that is to end has TTNEXT written at TIME (09 R435 step 2; 16 R367 step 4), and the trap registers of the harts that a
fatal context error has ended are in Wilnil's fault log (16 R367 step 1). -/
def State.endSwitch (s : State) (p : Nat) : Option State :=
  let a := s.part p
  let fs := s.failedHarts p
  if a.bound && !a.loading && (a.ending.isSome || !fs.isEmpty) && !a.stopping && !a.stopped && !a.going && decide (s.time.toNat < a.ttnext.toNat) then
    some ({ s with faultLog := (fs.map fun h => (s.hart h).faultRecord h) ++ s.faultLog }.setPart p { a with ttnext := s.time })
  else none

/-- Wilnil's turn: it unbinds a network that has ended, releases one that is loaded, arranges the last switch of one that is to end, serves a request for a page, or
else serves the next launch message, in the order of their tokens. It waits while the reply channel is full (log 31). -/
def execLaunch (s : State) : Out :=
  .next (if s.bootstat ≠ 7 || 256 ≤ s.replyq.length then s
    else
      match (List.range 16).findSome? fun p => (s.endReason p).map fun r => (p, r) with
      | some (p, r) => s.unbind p r
      | none =>
        match (List.range 16).find? fun p => (s.part p).loading && s.meshClear p with
        | some p => s.releaseNet p
        | none =>
          match (List.range 16).findSome? s.endSwitch with
          | some s1 => s1
          | none =>
            match s.pageRequest with
            | some s1 => s1
            | none => s.consumeLaunch)

end Sys2Proof.Machine
end

