-- ==== Sys2Proof/Machine/Links.lean ====
section
/-! DEFINITION. The Oanen Link (10 R293 to R301): forming, encrypting and sending flits, receiving them, key switches, replay,
retraining, and the exchange of TIME. -/

namespace Sys2Proof.Machine

/-! ### Flits (10 R293, R294) -/

def hdrSeq (h : W64) : BitVec 24 := h.extractLsb' 40 24
def hdrAck (h : W64) : BitVec 24 := h.extractLsb' 16 24
def hdrKs (h : W64) : Bool := h.getLsbD 15
def hdrVc (h : W64) : Nat := (h.extractLsb' 12 3).toNat
def hdrType (h : W64) : Nat := (h.extractLsb' 8 4).toNat
def hdrDl (h : W64) : Bool := h.getLsbD 0

def mkHdr (seq ack : BitVec 24) (ks : Bool) (vc ty : Nat) (dl : Bool) : W64 :=
  BitVec.ofNat 64 (seq.toNat * 2 ^ 40 + ack.toNat * 2 ^ 16 + flagNat ks 15 + vc * 2 ^ 12 + ty * 2 ^ 8 + flagNat dl 0)

/-- Reserved fields are zero, and VC and TYPE are none of the reserved values. -/
def hdrOk (h : W64) : Bool := decide (h.extractLsb' 1 7 = 0) && decide (hdrVc h < 6) && decide (hdrType h < 5)

/-- The link id of a sending module and port. -/
def linkId (node port : Nat) : Nat := node * 16 + port * 2

/-- The IV: bytes 0 to 3 the link id, bytes 4 to 11 the counter. -/
def flitIv (id ctr : Nat) : BitVec 96 := BitVec.ofNat 96 (ctr * 2 ^ 32 + id)

/-- A flit under a key and counter. -/
def sealFlit (key : BitVec 256) (id ctr : Nat) (hdr : W64) (clear : List Byte) : LinkFlit :=
  let r := gcmSeal key (flitIv id ctr) (bytes64 hdr) (sect 232 clear)
  { hdr := hdr, payload := r.1, tag := r.2 }

/-! ### Keys (10 R295, R296, R298) -/

def Link.slot (k : Link) (e : Nat) : Option KeySlot := if e % 2 = 0 then k.slot0 else k.slot1
def Link.setSlot (k : Link) (e : Nat) (x : Option KeySlot) : Link :=
  if e % 2 = 0 then { k with slot0 := x } else { k with slot1 := x }

/-- The key of epoch e, if its slot holds it. -/
def Link.keyOf (k : Link) (e : Nat) : Option KeySlot :=
  match k.slot e with
  | some x => if x.epoch = e then some x else none
  | none => none

/-- The digest of the shared secret followed by the epoch. -/
def linkKey (secret : List Byte) (e : Nat) : BitVec 256 := sha3 (secret ++ toBytes 4 e)

/-- The link goes down: both slots are zeroed; the retry buffer stays (10 R298). -/
def Link.down (k : Link) : Link :=
  { k with up := false, slot0 := none, slot1 := none, rkeys := [], fails := 0, replay := [], nakDue := false, ackIn := none }

/-- A slot is freed once every flit sent under its key is acknowledged, the next epoch's marker among them (10 R295). -/
def Link.freeSlots (k : Link) : Link :=
  let old := k.txEpoch - 1
  if k.txEpoch ≠ 0 && (k.keyOf old).isSome && k.retry.all fun x => decide (old < x.epoch) && !(decide (x.epoch = k.txEpoch) && decide (x.ptype = 3))
  then k.setSlot old none else k

/-- A cumulative acknowledgement empties the retry buffer up to its SEQ (10 R297). Before any other ACK has come, ACK 0 is the field's reset
value and covers nothing (log 33). -/
def Link.acknowledge (k : Link) (a : BitVec 24) : Link :=
  if (k.retry.any fun x => decide (x.seq = a)) && !(decide (a = 0) && decide (k.acked = 0)) then
    { k with acked := a, retry := (k.retry.dropWhile fun (x : Sent) => decide (Sent.seq x ≠ a)).drop 1 }.freeSlots
  else k

/-! ### Sending -/

/-- The port's own link id. -/
def State.outId (s : State) (l : Nat) : Nat := linkId s.node l
/-- The link id of the peer at port l: its node, and the port of the other sign (10 R299). -/
def State.inId (s : State) (l : Nat) : Nat := linkId ((peerOf s.node l).getD 0) (if l % 2 = 0 then l + 1 else l - 1)

/-- Take the next counter of epoch e and seal a flit, which carries the ACK owed; none at the limit (10 R296, R297). -/
def State.emit (s : State) (l e ty : Nat) (seq : BitVec 24) (vc : Nat) (dl : Bool) (clear : List Byte) : Option (LinkFlit × State) :=
  let k := s.link l
  match k.keyOf e with
  | none => none
  | some x =>
    if s.keyLimit.toNat ≤ x.ctr then none
    else
      let f := sealFlit x.key (s.outId l) x.ctr (mkHdr seq k.rxAck (decide (e % 2 = 1)) vc ty dl) clear
      some (f, s.setLink l { k.setSlot e (some { x with ctr := x.ctr + 1 }) with sentWire := k.sentWire ++ [f], ackIn := none })

/-- A flit that enters the retry buffer takes the next SEQ. -/
def State.emitData (s : State) (l e ty vc : Nat) (dl : Bool) (clear : List Byte) : Option State :=
  let q := (s.link l).txSeq
  (s.emit l e ty q vc dl clear).map fun r =>
    r.2.modLink l fun k =>
      { k with txSeq := q + 1, txEpoch := e, retry := k.retry ++ [{ seq := q, flit := r.1, ptype := ty, clear := clear, epoch := e }] }

/-- A flit that is never replayed; at the limit the link goes down (10 R296, R297). -/
def State.emitPlain (s : State) (l ty : Nat) (clear : List Byte) : State :=
  let k := s.link l
  match s.emit l k.txEpoch ty k.txSeq 0 false clear with
  | some r => r.2
  | none => s.setLink l k.down

/-- The class that sends next: that of a packet begun, else of the oldest packet. -/
def Link.nextClass (k : Link) (n l : Nat) : Option Nat :=
  match k.tx.find? fun e => decide (e.2 ≠ 0) with
  | some e => some e.1
  | none => k.outq.head?.map (packetClass n l)

/-- The payload of the next data flit of a class: packets packed in order, of which one may continue in the next flit; the packets whose last
byte it holds; and the bytes of the next packet that it holds. -/
def Link.payload (k : Link) (n l c : Nat) : List Byte × List Packet × Nat :=
  let ps := k.outq.filter fun p => decide (packetClass n l p = c)
  let sent := mget 0 k.tx c
  let now := ((ps.flatMap packetBytes).drop sent).take 232
  let w := wholePackets ps (sent + now.length)
  (now, w.1, w.2)

/-- Send one data flit; a packet whose last byte it holds has left the module. -/
def State.sendData (s : State) (l : Nat) : State :=
  let k := s.link l
  match k.nextClass s.node l with
  | none => s
  | some c =>
    let (now, ps, rest) := k.payload s.node l c
    let s1 := s.setLink l { k with tx := mput k.tx c rest, outq := k.outq.filter fun p => !ps.any fun q => decide (q.id = p.id) }
    match s1.emitData l k.txEpoch 0 (c / 2) (decide (c % 2 = 1)) now with
    | some s2 => ps.foldl State.outOfFlight s2
    | none => s.setLink l k.down

/-- The key marker falls due: the counter has reached LIMIT − 2^16 and the next key is installed (10 R296). -/
def State.markerDue (s : State) (l : Nat) : Bool :=
  let k := s.link l
  match k.keyOf k.txEpoch with
  | some x => decide (s.keyLimit.toNat ≤ x.ctr + 2 ^ 16) && (k.keyOf (k.txEpoch + 1)).isSome
  | none => false

/-- The key marker, with the next key. Data flits leave one place of the retry buffer's 512 for it (log 33). -/
def State.sendMarker (s : State) (l : Nat) : State :=
  let k := s.link l
  match s.emitData l (k.txEpoch + 1) 3 0 false [] with
  | some s1 => s1
  | none => s.setLink l k.down

/-- A data flit may be sent: one waits, and the retry buffer has room. -/
def State.dataReady (s : State) (l : Nat) : Bool :=
  let k := s.link l
  decide (k.retry.length < 511) && (k.nextClass s.node l).isSome

/-- A flit time has passed. -/
def Link.countAck (k : Link) : Link := { k with ackIn := k.ackIn.map fun n => n - 1 }

/-- A new flit: the key marker once it is due; else a NAK; else data; else, where an ACK is owed, a control flit. -/
def State.sendNew (s : State) (l : Nat) : State :=
  if s.markerDue l then s.sendMarker l
  else if (s.link l).nakDue then (s.emitPlain l 2 []).modLink l fun x => { x with nakDue := false }
  else if s.dataReady l then s.sendData l
  else if (s.link l).ackIn.isSome then s.emitPlain l 1 []
  else s

/-- One flit time of a link that is up. A replayed flit goes first, but where an ACK must be sent now: that takes a control flit while a replay
runs. -/
def State.linkSend (s : State) (l : Nat) : State :=
  let k := s.link l
  if !k.up then s
  else match k.replay with
    | f :: r =>
      if k.ackIn = some 0 then (if s.markerDue l then s.sendMarker l else s.emitPlain l 1 [])
      else s.setLink l { k with replay := r, sentWire := k.sentWire ++ [f] }.countAck
    | [] => s.sendNew l

def execLinkFlitSend (l : Nat) (s : State) : Out := .next (s.linkSend l)

/-! ### Receiving -/

/-- The key a flit names: that of the epoch the peer sends under, or the next, by KS. -/
def Link.rkey (k : Link) (ks : Bool) : Option KeySlot :=
  k.rkeys.find? fun x => decide (x.epoch % 2 = if ks then 1 else 0)

/-- The counters a receiver tries: about the one it expects, as a replay repeats old ones (log 33). -/
def tryCtrs (n : Nat) : List Nat := (List.range 2048).map fun i => n - 1024 + i

/-- Authenticate and decrypt: the counter used and the clear payload. -/
def authFlit (x : KeySlot) (id : Nat) (f : LinkFlit) : Option (Nat × List Byte) :=
  (tryCtrs x.ctr).findSome? fun c => (gcmOpen x.key (flitIv id c) (bytes64 f.hdr) f.payload f.tag).map fun p => (c, p)

/-- A hart's number as another module's stations know it, and a request's or a reply's place in this module. -/
def State.enterMsg (p : Packet) (m : Msg) : Msg × Dest :=
  let far := fun h => 4096 * (p.home + 1) + h % 4096
  let st := fun (a : W64) => Dest.ep (stEp (vaOf a / 4096 % 16))
  let hart := fun h => Dest.ep (tileOf (h % 4096))
  match m with
  | .write h i e => (.write (far h) i e, st (if e.gen ≠ 0 then e.dest else e.addr))
  | .skip h n q d g => (.skip (far h) n q d g, st d)
  | .read h i a n asid sync => (.read (far h) i a n asid sync, st a)
  | .atomic h i op a asid rel acq => (.atomic (far h) i op a asid rel acq, st a)
  | .piece h i a bs asid => (.piece (far h) i a bs asid, st a)
  | .arrive h i a n asid => (.arrive (far h) i a n asid, st a)
  | .ack h i x => (.ack (h % 4096) i x, hart h)
  | .nack h i x r => (.nack (h % 4096) i x r, hart h)
  | .readRep h i r => (.readRep (h % 4096) i r, hart h)
  | .atomicRep h i r => (.atomicRep (h % 4096) i r, hart h)
  | .pieceRep h i r => (.pieceRep (h % 4096) i r, hart h)
  | m => (m, p.dst)

/-- A packet enters from link l: it takes a number of this module, and the injection bank at this moment (10 R287); the link station holds
one of a stopped partition (10 R290). The station's entry for the packet's node, its own or another, says whether it is for the local mesh or
leaves by a port (10 R286). -/
def State.enter (s : State) (l : Nat) (dl : Bool) (p : Packet) : State :=
  let r := match p.dst with
    | .node n => if 8 ≤ s.linkRoute l s.inj n then State.enterMsg p p.msg else (p.msg, p.dst)
    | d => (p.msg, d)
  let q := { p with id := s.nextPkt, src := stEp (21 + l), dst := r.2, msg := r.1, hops := 0, dl := if dl then l / 2 + 1 else 0 }
  { s with nextPkt := s.nextPkt + 1 }.inject q

/-- Deliver an accepted data flit: the packets that its bytes complete enter the mesh. -/
def State.deliver (s : State) (l : Nat) (hdr : W64) (clear : List Byte) : State :=
  let c := 2 * hdrVc hdr + (if hdrDl hdr then 1 else 0)
  let all := mget [] (s.link l).rx c ++ clear
  let r := readPackets (all.length / 64 + 1) all
  let s1 := s.modLink l fun k => { k with rx := mput k.rx c r.2 }
  r.1.foldl (fun s p => s.enter l (hdrDl hdr) p) s1

/-- A failed authentication: a NAK is due, and the third in a row takes the link down (10 R297, R298). -/
def State.authFails (s : State) (l : Nat) : State :=
  s.modLink l fun k => if k.fails + 1 = 3 then k.down else { k with fails := k.fails + 1, nakDue := true }

/-- Replay from ACK + 1 on the exact flits sent before (10 R297). -/
def Link.replayAll (k : Link) : Link := { k with replay := k.retry.map fun x => x.flit }

/-- A timestamp flit's payload: the sender's TIME, and the stamp of this module's last one and when the sender took it (log 33). -/
def stampBytes (now : Nat) (peer : Nat × Nat) : List Byte := toBytes 8 now ++ toBytes 8 peer.1 ++ toBytes 8 peer.2

/-- A timestamp flit has come at TIME `now`: with the stamps it carries the exchange has four (10 R301). -/
def Link.stamped (k : Link) (now : Nat) (clear : List Byte) : Link :=
  let back := natAt clear 0 8
  let sent := natAt clear 8 8
  { k with
    peerStamp := (back, now)
    stamps := if sent = 0 then k.stamps else some { sent := sent, there := natAt clear 16 8, back := back, taken := now } }

/-- A flit from the wire. -/
def State.linkReceive (s : State) (l : Nat) (f : LinkFlit) : State :=
  let k := s.link l
  let ty := hdrType f.hdr
  if !k.up then s
  else if !hdrOk f.hdr then s.authFails l
  else
    match k.rkey (hdrKs f.hdr) with
    | none => s.authFails l
    | some x =>
      match authFlit x (s.inId l) f with
      | none => s.authFails l
      | some (c, clear) =>
        let k1 := { k with
          fails := 0, rkeys := k.rkeys.map fun (y : KeySlot) => if y.epoch = x.epoch then { y with ctr := max y.ctr (c + 1) } else y }
        let k2 := k1.acknowledge (hdrAck f.hdr)
        if ty = 2 then s.setLink l k2.replayAll
        else if ty = 4 then s.setLink l (k2.stamped s.time.toNat clear)
        else if (ty = 0 || ty = 3) && decide (hdrSeq f.hdr = k.rxSeq) then
          let k3 := { k2 with rxSeq := k.rxSeq + 1, rxAck := k.rxSeq, ackIn := some (if ty = 3 then 0 else min (k2.ackIn.getD 7) 7) }
          if ty = 3 then s.setLink l { k3 with rxEpoch := x.epoch, rkeys := k3.rkeys.filter fun (y : KeySlot) => decide (x.epoch ≤ y.epoch) }
          else (s.setLink l k3).deliver l f.hdr clear
        else s.setLink l k2

def execLinkFlitReceive (l : Nat) (f : LinkFlit) (s : State) : Out := .next (s.linkReceive l f)

/-- A NAK arrives (10 R297); any other flit is not this event's. -/
def execLinkNakReceive (l : Nat) (f : LinkFlit) (s : State) : Out :=
  .next (if hdrType f.hdr = 2 then s.linkReceive l f else s)

/-! ### Agreement and retraining -/

/-- What the end at node `n` signs of an agreement: the secret, the epoch and the node (19 R429; its form is the model's, log 8). -/
def agreeDigest (secret : List Byte) (e n : Nat) : BitVec 256 := sha3 (secret ++ toBytes 4 e ++ toBytes 4 n)
/-- This end's signature, by the device identity key. -/
def State.agreeSign (s : State) (secret : List Byte) (e : Nat) : List Byte := sect 2420 (Config.mldsaSign (agreeDigest secret e s.node))
/-- The peer's signature verifies under its certified identity key. -/
def State.peerSigned (s : State) (l : Nat) (a : Agreement) (e : Nat) : Bool :=
  (peerOf s.node l).any fun n => Config.peerCheck n (agreeDigest a.secret e n) a.sig

/-- The next epoch's key is agreed once its slot is free, authenticated by both ends' identities, and installed with its counter at 0. -/
def execKeyAgreementComplete (l : Nat) (a : Agreement) (s : State) : Out :=
  let k := s.link l
  let e := k.agreed + 1
  .next (if !k.up || (k.slot e).isSome || !s.peerSigned l a e then s
    else
      let x : KeySlot := { epoch := e, key := linkKey a.secret e, ctr := 0 }
      s.setLink l { k.setSlot e (some x) with agreed := e, rkeys := k.rkeys ++ [x], signed := s.agreeSign a.secret e })

/-- The retry buffer sealed again, with fresh counters, in SEQ order. -/
def resealAll (key : BitVec 256) (id : Nat) (e : Nat) (ack : BitVec 24) : Nat → List Sent → List Sent
  | _, [] => []
  | c, x :: r =>
    let hdr := mkHdr x.seq ack (decide (e % 2 = 1)) (hdrVc x.flit.hdr) x.ptype (hdrDl x.flit.hdr)
    { x with flit := sealFlit key id c hdr x.clear, epoch := e } :: resealAll key id e ack (c + 1) r

/-- A link trains, agrees a new epoch's key, and resends its retry buffer under it (10 R298). An end that is still up goes down with its
peer, which is why the link trains. A port that Wilnil has not enabled, or that has no neighbour, stays down (10 R299, R300); so does one
whose peer's identity does not authenticate the agreement (10 R295). -/
def execLinkRetrain (l : Nat) (a : Agreement) (s : State) : Out :=
  let k := (s.link l).down
  let e := k.agreed + 1
  .next (if !k.torus || (peerOf s.node l).isNone then s
    else if !s.peerSigned l a e then s.setLink l k
    else
      let key := linkKey a.secret e
      let re := resealAll key (s.outId l) e k.rxAck 0 k.retry
      let x : KeySlot := { epoch := e, key := key, ctr := re.length }
      s.setLink l { k.setSlot e (some x) with
        up := true, signed := s.agreeSign a.secret e, agreed := e, txEpoch := e, rxEpoch := e, rkeys := [{ x with ctr := 0 }], retry := re
        replay := re.map fun y => y.flit })

/-! ### TIME across modules (10 R301) -/

/-- The port toward the time root, the module with the lowest node id: 8 at the root itself. -/
def State.rootPort (s : State) : Nat := torusPort s.node 0

/-- How far TIME is behind the peer's by the four stamps, whose way out and way back take equally long but for `fix`, which the delay
calibrated at training gives (log 33). -/
def Stamps.offset (x : Stamps) (fix : Int) : Int :=
  (((x.there : Int) - x.sent) + ((x.back : Int) - x.taken)) / 2 + fix

/-- An exchange of timestamp flits every 65,536 ns: one is sent, after a key marker that is due. The root is locked; any other module takes
its offset from the neighbour on its default route to the root and slews toward it, and is locked within 4 ns. Which module is the root
and which the parent follows from the node ids, not from what the event says of them. -/
def execTimestampExchange (l : Nat) (offset : Int) (_isParent _root : Bool) (s : State) : Out :=
  let k := s.link l
  let now := s.time.toNat
  .next (if !k.up || decide (now < k.stampAt + 65536) then s
    else
      let s0 := if s.markerDue l then s.sendMarker l else s
      let s1 := (s0.emitPlain l 4 (stampBytes now k.peerStamp)).modLink l fun x => { x with stampAt := now }
      if s.rootPort = 8 then { s1 with timeLock := true, slew := 0 }
      else match decide (s.rootPort = l), k.stamps with
        | true, some x => { s1 with timeLock := decide ((x.offset offset).natAbs ≤ 4), slew := x.offset offset }
        | _, _ => s1)

end Sys2Proof.Machine
end

