-- ==== Sys2Proof/Machine/MatrixArray.lean ====
section
/-! DEFINITION. The matrix array (06 R186 to R191, R195; 02 R69 to R75; 12 R314): the choice of a hart, the copy of a row pair, and
the sums that it adds into the accumulator. -/

namespace Sys2Proof.Machine

/-! ### Sums (02 R69 to R75) -/

/-- An exact sum of products, or the special value of 02 R75 with whether it sets NV. -/
inductive USum where
  | nan (nv : Bool)
  | inf (neg : Bool)
  | fin (n : Int) (e : Int)
  deriving DecidableEq, Repr

/-- Add exact n 2^e to an exact sum. -/
def addAt (x : Int × Int) (n e : Int) : Int × Int :=
  if n = 0 then x
  else
    let m := min x.2 e
    (x.1 * 2 ^ (x.2 - m).toNat + n * 2 ^ (e - m).toNat, m)

/-- 02 R75's order of cases over products; `sig` marks formats whose signalling NaN sets NV. -/
def sumProducts (sig : Bool) (ps : List (FVal × FVal)) : USum :=
  if ps.any fun p => p.1.isNan || p.2.isNan then .nan (sig && ps.any fun p => p.1.isSig || p.2.isSig)
  else
    let xs := ps.map fun p => exMul p.1 p.2
    if xs.any fun x => match x with | .nan _ => true | _ => false then .nan true
    else
      let pos := xs.any fun x => match x with | .inf false _ => true | _ => false
      let neg := xs.any fun x => match x with | .inf true _ => true | _ => false
      if pos && neg then .nan true
      else if pos then .inf false
      else if neg then .inf true
      else
        let t := xs.foldl (fun a x => match x with | .fin s n e _ => addAt a (signed s n) e | _ => a) ((0 : Int), (0 : Int))
        .fin t.1 t.2

/-- Times 2^k. -/
def USum.scale (u : USum) (k : Int) : USum := match u with | .fin n e => .fin n (e + k) | u => u
def USum.neg : USum → USum
  | .nan b => .nan b
  | .inf n => .inf !n
  | .fin n e => .fin (-n) e

/-- round32 of a unit, with its flags; an exact zero is +0, as 02 R71 says of T (of S × P: log 40). -/
def USum.round (u : USum) : Nat × BitVec 5 :=
  match u with
  | .nan nv => (0x7FC00000, flagIf fNV nv)
  | .inf neg => (if neg then 0xFF800000 else 0x7F800000, 0)
  | .fin n e => if n = 0 then (0, 0) else roundFin .f32 .rne false (decide (n < 0)) n.natAbs e false

/-- acc := round32(acc + v). A signalling NaN in the accumulator sets NV beside a quiet one in v (log 40). -/
def accAdd (acc v : Nat) : Nat × BitVec 5 := (Ex.plus .rne (fdec .f32 v).ex (fdec .f32 acc)).round .f32 .rne false

/-- Add a unit to a cell. -/
def accUnit (acc : Nat) (u : USum) : Nat × BitVec 5 :=
  let v := u.round
  let r := accAdd acc v.1
  (r.1, v.2 ||| r.2)

/-- One fused step of 02 R73. -/
def accFused (neg : Bool) (x : Nat × BitVec 5) (a b : FVal) : Nat × BitVec 5 :=
  let p := exMul a b
  let r := (Ex.plus .rne (if neg then p.neg else p) (fdec .f32 x.1)).round .f32 .rne false
  (r.1, x.2 ||| r.2)

/-- An integer unit (02 R74). -/
def accInt (acc : Nat) (t : Int) : Nat := codeOf 32 ((acc : Int) + t)

/-! ### Units of block formats (06 R187) -/

/-- Length of a unit along the span. -/
def unitLenOf (t : Fmt) (tag : BitVec 16) : Nat := if isMx t then 32 else tagGroup tag

/-- The units of a span of n indices that end in pair j of length k: first index, and one past the last. -/
def unitsEnding (l n k j : Nat) : List (Nat × Nat) :=
  ((List.range ((n + l - 1) / l)).map fun b => (b * l, min n ((b + 1) * l))).filter fun u => decide ((u.2 - 1) / k = j)

/-- An MX unit: element codes a and b, and the two scale entries (02 R70). -/
def mxUnit (ta tb : Fmt) (ga gb : Nat) (cs : List (Nat × Nat)) : USum :=
  if entryE8 ga = 255 || entryE8 gb = 255 then .nan false
  else
    (sumProducts false (cs.map fun c => (fdec (mxElem ta) c.1, fdec (mxElem tb) c.2))).scale
      ((entryE8 ga : Int) + entryE8 gb - 254)

/-- A q unit (02 R72, R75). -/
def qUnit (t : Fmt) (ga gb : Nat) (cs : List (Nat × Nat)) : USum :=
  let sa := fdec .f16 (entryScale ga)
  let sb := fdec .f16 (entryScale gb)
  let ps := cs.map fun c => ((c.1 : Int) - entryZp t ga) * ((c.2 : Int) - entryZp t gb)
  if sa.isNan || sb.isNan then .nan false
  else
    match exMul sa sb with
    | .nan _ => .nan true
    | .inf neg _ =>
      if ps.any fun p => decide (p = 0) then .nan true
      else if (ps.any fun p => decide (p < 0)) && ps.any fun p => decide (0 < p) then .nan true
      else .inf (neg != ps.any fun p => decide (p < 0))
    | .fin s n e _ => .fin (ps.foldl (· + ·) 0 * signed s n) e

/-! ### One pair of an operation -/

/-- What the array holds of a hart's operation at pair j: formats and tags of the rows, and the copies made so far. -/
structure Panel where
  ta : Fmt
  tb : Fmt
  tagA : BitVec 16
  k : Nat
  rc : Nat
  held : List MPair

def Panel.pair (p : Panel) (j : Nat) : MPair := p.held.getD j { a := 0, b := 0, ga := 0, gb := 0 }
/-- Element s of the span in A row i and in B column n (06 R186). -/
def Panel.aAt (p : Panel) (i s : Nat) : Nat := elemAt (p.pair (s / p.k)).a (fmtWidth p.ta) (i * p.k + s % p.k)
def Panel.bAt (p : Panel) (n s : Nat) : Nat := elemAt (p.pair (s / p.k)).b (fmtWidth p.tb) (n * p.k + s % p.k)

/-- The units of a block format that pair j completes, at cell (i, n). -/
def Panel.blockUnits (p : Panel) (j i n : Nat) : List USum :=
  (unitsEnding (unitLenOf p.ta p.tagA) (p.rc * p.k) p.k j).map fun (lo, hi) =>
    let ga := elemAt (p.pair (lo / p.k)).ga 32 i
    let gb := elemAt (p.pair (lo / p.k)).gb 32 n
    let cs := (List.range (hi - lo)).map fun x => (p.aAt i (lo + x), p.bAt n (lo + x))
    if isMx p.ta then mxUnit p.ta p.tb ga gb cs else qUnit p.ta ga gb cs

/-- Cell (i, n) of MMA after pair j (06 R185). -/
def Panel.mmaCell (p : Panel) (ua ub : Bool) (j i n acc : Nat) : Nat × BitVec 5 :=
  let ss := (List.range p.k).map fun x => j * p.k + x
  if isBlock p.ta then
    (p.blockUnits j i n).foldl (fun x u => let r := accUnit x.1 u; (r.1, x.2 ||| r.2)) (acc, 0)
  else if p.ta = .f32 then
    ss.foldl (fun x s => accFused false x (fdec .f32 (p.aAt i s)) (fdec .f32 (p.bAt n s))) (acc, 0)
  else if pairInt p.ta then
    let w := fmtWidth p.ta
    (accInt acc ((ss.map fun s => intOf w ua (p.aAt i s) * intOf w ub (p.bAt n s)).foldl (· + ·) 0), 0)
  else accUnit acc (sumProducts (isFp p.ta) (ss.map fun s => (fdec p.ta (p.aAt i s), fdec p.tb (p.bAt n s))))

/-- Cell (i, n) of MRANK after row j (06 R190). -/
def Panel.rankCell (p : Panel) (ua ub neg : Bool) (j i n acc : Nat) : Nat × BitVec 5 :=
  let w := fmtWidth p.ta
  let a := elemAt (p.pair j).a w i
  let b := elemAt (p.pair j).b w n
  if p.ta = .f32 then accFused neg (acc, 0) (fdec .f32 a) (fdec .f32 b)
  else if pairInt p.ta then
    let t := intOf w ua a * intOf w ub b
    (accInt acc (if neg then -t else t), 0)
  else
    let u := sumProducts true [(fdec p.ta a, fdec p.tb b)]
    accUnit acc (if neg then u.neg else u)

/-- Apply a cell function over the cells i < tm, n < tn; flags gather in the accumulator (06 R189, R197). -/
def Acc.update (a : Acc) (tm tn : Nat) (f : Nat → Nat → Nat → Nat × BitVec 5) : Acc :=
  ((List.range tm).flatMap fun i => (List.range tn).map fun n => (i, n)).foldl (fun a (i, n) =>
    let r := f i n (a.cell i n)
    { a with cells := mput a.cells (64 * i + n) (BitVec.ofNat 32 r.1), flags := a.flags ||| r.2 }) a

/-- The copy of pair j of an operation, from the hart's registers (06 R189). -/
def Hart.copyPair (a : Hart) (o : MOp) (j : Nat) : MPair :=
  let ra := a.rv (o.a.toNat + j)
  let rb := a.rv (o.b.toNat + j)
  { a := ra.data, b := rb.data, ga := a.rg ra.scl, gb := a.rg rb.scl }

def Hart.panel (a : Hart) (o : MOp) (j : Nat) : Panel :=
  let ra := a.rv (o.a.toNat + j)
  let rb := a.rv (o.b.toNat + j)
  { ta := ra.fmt, tb := rb.fmt, tagA := ra.tag, k := min o.tk (tkMax ra.fmt), rc := o.rc, held := o.held ++ [a.copyPair o j] }

/-- MWR's write of row j into its quad, which clears the poison of its rows (06 R195, R202). -/
def Acc.writeQuad (a : Acc) (q : Nat) (d : VData) : Acc :=
  let a1 := (List.range 256).foldl (fun a e =>
    { a with cells := mput a.cells (64 * (4 * q + e / 64) + e % 64) (BitVec.ofNat 32 (elemAt d 32 e)) }) a
  { a1 with poisoned := (List.range 4).foldl (fun p i => p &&& ~~~BitVec.twoPow 64 (4 * q + i)) a.poisoned }

/-- Steps an operation has: row pairs, rows, or one. -/
def MOp.units (o : MOp) : Nat :=
  match o.kind with
  | .mma _ _ => if o.tm = 0 || o.tn = 0 || o.tk = 0 then 0 else o.rc
  | .mrank _ _ _ => if o.tm = 0 || o.tn = 0 then 0 else o.rc
  | .mzero | .mwr _ => 1

def MOp.over (o : MOp) : Bool := decide (o.units ≤ o.done)

/-- The charge of the step an operation does next (12 R314). -/
def MOp.cost (o : MOp) (t : Fmt) : Nat :=
  match o.kind with
  | .mma _ _ => if t = .f32 then 16 else 8
  | .mrank _ _ _ => if t = .f32 then 4 else 1
  | .mzero => 4
  | .mwr _ => 2 * o.rc

/-- The next step of operation o of hart a on an accumulator: the operation after, and the accumulator after. -/
def Hart.arrayStep (a : Hart) (o : MOp) (acc : Acc) : MOp × Acc :=
  let j := o.done
  match o.kind with
  | .mma ua ub =>
    let p := a.panel o j
    ({ o with done := j + 1, held := p.held }, acc.update o.tm o.tn (p.mmaCell ua ub j))
  | .mrank ua ub neg =>
    let p := a.panel o j
    ({ o with done := j + 1, held := p.held }, acc.update o.tm o.tn (p.rankCell ua ub neg j))
  | .mzero => ({ o with done := 1 }, { acc with cells := [], flags := 0, poisoned := 0 })
  | .mwr q => ({ o with done := 1 }, (List.range o.rc).foldl (fun x j => x.writeQuad (quadAt q j) (a.rv (o.a.toNat + j)).data) acc)

/-- The oldest operation of hart l of a tile, if it has a step to do. -/
def Tile.headOp (t : Tile) (l : Nat) : Option MOp :=
  match t.queue l with
  | o :: _ => if o.over then none else some o
  | [] => none

/-- The array chooses a hart and does one step of its oldest operation (06 R189; 12 R314). -/
def execMatrixUnitStart (tile : Nat) (s : State) : Out :=
  let t := s.tile tile
  .next (match s.sharePick tile t.arrCR fun h => (t.headOp (h % 4)).isSome with
    | none => s
    | some (l, cr) =>
      match t.queue l with
      | [] => s
      | o :: r =>
        let h := 4 * tile + l
        let a := s.hart h
        let x := a.arrayStep o (t.accum o.m.toNat)
        (s.setTile tile ({ (t.setQueue l (x.1 :: r)) with arrCR := cr }.setAccum o.m.toNat x.2)).setHart h
          (a.charge (o.cost (a.rv (o.a.toNat + o.done)).fmt)))

/-- A finished operation leaves its queue; what waits for it runs again (06 R189, R192). -/
def execMatrixOpComplete (tile : Nat) (s : State) : Out :=
  let t := s.tile tile
  .next (match (List.range 4).find? fun l => match t.queue l with | o :: _ => o.over | [] => false with
    | some l => s.setTile tile (t.setQueue l ((t.queue l).drop 1))
    | none => s)

end Sys2Proof.Machine
end

