-- ==== Sys2Proof/Machine/Module.lean ====
section
/-! DEFINITION. The module around the machine: bring-up (19 R431), power and the governor (19 R426, R427), soft errors (19 R430), and
the Monov port's requests (19 R425, R429). -/

namespace Sys2Proof.Machine

/-! ### Bring-up (19 R429, R431; log 16) -/

/-- The flash banks in the order the ROM tries them: one written since the last reset first, else A and then B. -/
def State.bankOrder (s : State) : List Bool := if s.fwNew then [!s.active, s.active] else [false, true]
def State.bank (s : State) (b : Bool) : List Byte := if b then s.flashB else s.flashA

/-- The first bank whose image verifies and is not older than the rollback counter. -/
def State.goodBank (s : State) : Option Bool :=
  s.bankOrder.find? fun b => Config.mldsaVerify (s.bank b) && decide (s.rollback ≤ Config.firmwareSvn (s.bank b))

/-- What reset and the self-test leave: every register at its reset value, every tile store at zero; device memory, the flash banks
and the fused counter keep theirs (log 16). -/
def State.cleared (s : State) : State :=
  { State.reset with
    mem := s.mem.filter fun c => decide (c.1 < 2 ^ 48)
    poison := s.poison.filter fun u => decide (u < 2 ^ 48)
    flashA := s.flashA, flashB := s.flashB, active := s.active, rollback := s.rollback, fwNew := s.fwNew, node := s.node
    tick := s.tick, savedHarts := s.savedHarts, savedTiles := s.savedTiles, savedParts := s.savedParts
    wilnilLog := s.romRing ++ s.wilnilLog, faultLog := s.faultLog, shutdowns := s.shutdowns }

/-- Stage 6: the Wilnil image, XLBASE written and locked, and hart 0 of tile 0 started in service; the link stations hold the routes that it
writes before it enables a port (10 R300). -/
def State.startWilnil (s : State) : State :=
  let s1 := s.poke Config.wilnilAt Config.wilnilImage
  let s2 := (List.range 8).foldl (fun s l => s.modLink l fun k => { k with torus := true }) (s1.poke (storeBase 0 + 0xC00) residentCode)
  let s3 := s2.setHart 0 { Hart.init with
    own := .running, svc := true, pc := Config.wilnilEntry.setWidth 64, xbnd := Config.wilnilBound, xbndF := Config.wilnilBound
    trapvec := Config.wilnilHandler, trapvecF := Config.wilnilHandler, syncAt := s2.stlog.length }
  { s3 with xlBase := BitVec.ofNat 48 (Config.xlbase.toNat * 2 ^ 19), xlLock := true }

/-- Reset begins bring-up: stage 1, in which the ROM verifies the firmware, or stage 0xF where no bank verifies. -/
def execModuleReset (s : State) : Out :=
  .next (match s.goodBank with
    | none => { s.cleared with bootstat := 0xF }
    | some b => { s.cleared with bootstat := 1, active := b, fwNew := false })

/-- Bring-up goes on to its next stage, which BOOTSTAT then shows with its work done: the rails, training, the self-test and default
routes leave what reset has left; at stage 6 the Wilnil supervisor runs; at stage 7 port 0 has trained. A stage that fails ends in 0xF. -/
def State.nextStage (s : State) : State :=
  let k := s.bootstat.toNat + 1
  if k < 2 ∨ 7 < k then s
  else if !Config.bringUpPasses k || (decide (k = 6) && !Config.mldsaVerify Config.wilnilImage) then { s with bootstat := 0xF }
  else { (if k = 6 then s.startWilnil else s) with bootstat := BitVec.ofNat 8 k }

/-! ### Power (19 R426, R427) -/

/-- The main rails are removed: HBM, the tile stores and every register lose their contents, and management has the event to report. BOOTSTAT
reads 0 and nothing runs until a module reset (log 34). -/
def State.shutdown (s : State) (temp : BitVec 8) : State :=
  { s.unpowered with rails := false, temp := temp, shutdowns := s.shutdowns + 1 }

/-- At a 1 ms boundary of TIME: one step of 100 MHz down, to 1.0 GHz, or up, to 3.0 GHz; at TSHUT the rails go. -/
def execGovernorTick (pnow : BitVec 16) (temp : BitVec 8) (s : State) : Out :=
  let n := s.time.toNat / 1000000
  .next (if n ≤ s.govMs || !s.rails then s
    else if fuseTshut ≤ temp.toNat then s.shutdown temp
    else
      let s1 := { s with govMs := n, pnow := pnow, temp := temp }
      if s.plimit.toNat < pnow.toNat || fuseTthr ≤ temp.toNat then { s1 with mhz := max 1000 (s.mhz - 100), thr := true }
      else
        let f := min 3000 (s.mhz + 100)
        { s1 with mhz := f, thr := s.thr && decide (f ≠ 3000) })

/-- TEMP reaches TSHUT within a millisecond. -/
def execThermalShutdown (temp : BitVec 8) (s : State) : Out := .next (if temp.toNat < fuseTshut then s else s.shutdown temp)

/-! ### Soft errors (19 R430; 06 R202; 01 R27) -/

/-- The k-th member that a yard or home station holds is poisoned. -/
def StreamSt.poisonHeld (x : StreamSt) (k : Nat) : StreamSt :=
  { x with held := x.held.mapIdx fun j p => if j = k then { p with msg := (match p.msg with
      | .write h i e => .write h i { e with bad := true }
      | m => m) } else p }

/-- The first k that counts through the members of streams, poisoned there. -/
def poisonYard : List StreamSt → Nat → List StreamSt
  | [], _ => []
  | x :: r, k => if k < x.held.length then x.poisonHeld k :: r else x :: poisonYard r (k - x.held.length)

/-- Tokens whose data lies in a poisoned unit are poisoned with it (19 R430). -/
def State.markTokens (s : State) (u : Nat) : State :=
  let one := fun (p c : Nat) (i : Nat) (q : Platform) => { q with toks := q.toks.mapIdx fun k t =>
    { t with bad := t.bad || (s.placeAt p c i (q.placeOf k)).any fun o => decide (unitOf o = u) } }
  { s with parts := s.parts.map fun e => (e.1, { e.2 with chans := e.2.chans.map fun c => (c.1, { c.2 with
      plats := c.2.plats.map fun q => (q.1, one e.1 c.1 q.1 q.2) }) }) }

/-- The unit at a is poisoned. -/
def State.poisonAt (s : State) (a : Nat) : State :=
  { s with poison := unitOf a :: s.poison.filter fun x => decide (x ≠ unitOf a) }.markTokens (unitOf a)

/-- Mark the unit that holds an uncorrectable error. -/
def State.poisonUnit (s : State) (u : ErrUnit) : State :=
  match u with
  | .mem a => s.poisonAt a
  | .vreg h v => s.modHart h fun a =>
      let r := a.rv v.toNat
      a.wv v.toNat { r with tag := poisonTag r.tag, pi := 64, lrec := none, flight := none }
  | .acc t m row => s.modTile t fun x =>
      x.setAccum m.toNat { x.accum m.toNat with poisoned := (x.accum m.toNat).poisoned ||| BitVec.twoPow 64 row }
  | .token p c i k =>
    match (if k < ((s.chan p c).plat i).toks.length then s.placeAt p c i (((s.chan p c).plat i).placeOf k) else none) with
    | some o => s.poisonAt o
    | none => s.modChan p c fun x =>
        x.setPlat i { x.plat i with toks := (x.plat i).toks.mapIdx fun j t => if j = k then { t with bad := true } else t }
  | .xreg h r => if r = 0 then s else s.modHart h fun a => { a with bad := xUnit r :: a.bad }
  | .preg h q => if q = 0 then s else s.modHart h fun a => { a with bad := pUnit q :: a.bad }
  | .greg h g => s.modHart h fun a => { a with bad := gUnit g.toNat :: a.bad }
  | .journal h i => s.modHart h fun a => a.setEntry i ((a.entry i).map fun e => { e with bad := true })
  | .yard ep k => s.setStreams ep (poisonYard (s.streamsAt ep) k)
  | .scalar _ => s

def execSoftError (u : ErrUnit) (correctable : Bool) (s : State) : Out :=
  .next (if correctable then { s with corrected := s.corrected + 1 }
    else { s.poisonUnit u with uncorrected := s.uncorrected + 1 })

/-! ### Management (19 R425, R429) -/

/-- A sensor's reading (numbers: log 34): 0 power, 1 to 4 the dies' temperatures, 5 and 6 corrected and uncorrected errors, 8 to 15 the
links' states, 16 time lock, 17 refused bridge writes, 18 packets lost under 10 R289, 19 thermal shutdowns; 1 to 4 are the compute dies, 20
the I/O die, 21 to 24 the SRAM dies (00 R1). Of the dies' temperatures the module keeps only
the hottest; each one's is a measurement that the manual leaves to the part (log 4). -/
def State.sensor (s : State) (n : Nat) : W64 :=
  match n with
  | 0 => s.pnow.setWidth 64
  | 1 | 2 | 3 | 4 | 20 | 21 | 22 | 23 | 24 => BitVec.ofNat 64 (Config.freeChoice s.tick n % (s.temp.toNat + 1))
  | 5 => BitVec.ofNat 64 s.corrected
  | 6 => BitVec.ofNat 64 s.uncorrected
  | 16 => if s.timeLock then 1 else 0
  | 17 => BitVec.ofNat 64 s.bridgeRefused
  | 18 => BitVec.ofNat 64 s.hopLost.length
  | 19 => BitVec.ofNat 64 s.shutdowns
  | n => if 8 ≤ n && n < 16 && (s.link (n - 8)).up then 1 else 0

def execPldmMonitorRequest (sensor : Nat) (s : State) : Out := .next { s with answer := [s.sensor sensor] }

/-- The inactive bank is written; the image takes effect at the next reset. -/
def execPldmFirmwareUpdate (image : List Byte) (s : State) : Out :=
  .next (if s.active then { s with flashA := image, fwNew := true } else { s with flashB := image, fwNew := true })

/-- The four measurements of SPDM. -/
def State.measurements (s : State) : List Byte :=
  toBytes 32 Config.romDigest.toNat ++ toBytes 32 (sha3 (s.bank s.active)).toNat
    ++ toBytes 32 (sha3 Config.wilnilImage).toNat ++ toBytes 32 (sha3 (bytes64 fuseReg)).toNat

/-- An answer: the measurements, and the identity key's signature over the nonce and them. -/
def execSpdmRequest (nonce : List Byte) (s : State) : Out :=
  let m := s.measurements
  let bs := m ++ sect 2420 (Config.mldsaSign (sha3 (nonce ++ m)))
  .next { s with answer := (List.range ((m.length + 2420 + 7) / 8)).map fun i => wordAt bs (8 * i) }

end Sys2Proof.Machine
end

