-- ==== Sys2Proof/Machine/Shootdown.lean ====
section
/-! DEFINITION. Shoot-downs, fills and speculative walks at stations (18 R401 to R404), the hold after a fatal context error (18 R399),
and the traps that fetch and decode take (03 R92, R94, R95; 04 R130). -/

namespace Sys2Proof.Machine

/-! ### Shoot-downs -/

/-- The shoot-down in XLINV matches a cached translation (18 R402). -/
def State.shootMatches (s : State) (l : Leaf) : Bool :=
  match s.xlKind.toNat with
  | 0 => l.covers s.xlAsid (s.xlVa.toNat * 65536)
  | 1 => decide (l.asid = s.xlAsid)
  | _ => true

/-- A station removes the matching translations, then adds 1 to its generation (18 R402). -/
def execStationShootdown (station : Nat) (s : State) : Out :=
  .next (if (s.station station).shoot then
      s.modStation station fun x =>
        { x with tlb := x.tlb.filter fun l => !s.shootMatches l, gen := x.gen + 1, shoot := false }
    else s)

/-- A station acknowledges once it has performed every access that it translated before; in this model an access is translated
and performed in one step. BUSY falls when all have (18 R403). -/
def execShootdownAck (station : Nat) (s : State) : Out :=
  let x := s.station station
  .next (if x.shoot || !x.ackDue then s
    else
      let s1 := s.setStation station { x with ackDue := false }
      { s1 with xlBusy := s1.xlBusy && (List.range 20).any fun n => (s1.station n).ackDue })

/-! ### Fills and read-ahead -/

/-- The fill of a walk returns: cached if the generation is still that of the walk's start, else dropped (18 R402). -/
def execTranslationFill (station : Nat) (walk : Nat) (s : State) : Out :=
  let x := s.station station
  .next (match x.walks[walk]? with
    | none => s
    | some w =>
      let rest := x.walks.eraseIdx walk
      match w.leaf with
      | some l => s.setStation station { x with walks := rest, tlb := if w.gen = x.gen then l :: x.tlb else x.tlb }
      | none => s.setStation station { x with walks := rest })

/-- The station has translated an access of the ASID within 2 MiB of the address (18 R404). Any since its reset counts as recent. -/
def Station.near (x : Station) (asid : BitVec 16) (va : Nat) : Bool :=
  x.recent.any fun r => decide (r.1 = asid) && decide (r.2 ≤ va + 2 ^ 21) && decide (va ≤ r.2 + 2 ^ 21)

/-- A memory or second-tier station walks ahead near its demand accesses. A speculative walk sets no A or D bit and reports nothing; one that
misses or is refused is dropped and counted (18 R404). -/
def execSpeculativeWalk (station : Nat) (asid : BitVec 16) (va : BitVec 43) (s : State) : Out :=
  .next (if 20 ≤ station || !(s.station station).near asid va.toNat then s else match s.walk asid va.toNat with
    | some l =>
      if l.rd then s.modStation station fun x => { x with walks := x.walks ++ [{ gen := x.gen, leaf := some l, speculative := true }] }
      else s.modStation station fun x => { x with specdrop := x.specdrop + 1 }
    | none => s.modStation station fun x => { x with specdrop := x.specdrop + 1 })

/-! ### Fatal context errors (18 R399) -/

/-- At its next instruction boundary the hart is held; its report carries cause 0x05 and the address. -/
def execFatalContextHold (hart : Nat) (s : State) : Out :=
  let a := s.hart hart
  .next (match a.fatal with
    | none => s
    | some p =>
      if a.held || a.stopped || a.inMiddle || a.unwind.isSome || (match a.pend with | none => false | some { kind := .bwait _, .. } => false | _ => true) then s
      else
        let s1 := s.dropBwait hart
        (s1.modHart hart fun x => { x with fatal := none }).romHold hart 0x05 p a.pc true)

/-- One attempt of hart h to finish an unwind. A switch that has come meanwhile stops it in the caller's domain (18 R414). -/
def State.unwindTurn (s : State) (h : Nat) : State := (s.unwindStep h).settle h

/-! ### Fetch and decode -/

/-- ILL at the step of decoding that stopped, whatever guard and VL (03 R94, R95; 16 R363); or at step 8, after the RC multiple, DOM and
VL = 0 (16 R360, R362; log 38). -/
def execIllegalWord (why : IllAt) (s : State) : Out :=
  .next (match why.late with
    | none => s.trapHere s.cur (trapIll why)
    | some l =>
      s.issue l.ctl { vs := l.vs, barred := l.scale, mods := l.mods, aV := l.aV, elem := true } fun _ =>
        s.trapHere s.cur (trapIll why))

/-- The fetch at PC: a misaligned target traps ALIGN, a word at or above XBND traps OVL; TRAPPC names the target (03 R92; 04 R130). -/
def execInstructionFetchTrap (s : State) : Out :=
  let pc := (s.hart s.cur).pc
  .next (s.trapHere s.cur (if pc.toNat % 4 ≠ 0 then trapAlign pc 4 else trapOvl pc))

end Sys2Proof.Machine
end

