-- ==== Sys2Proof/Machine/Dispatch.lean ====
section
/-! DEFINITION. One arm for each row of the opcode table: the one call of its meaning. -/

namespace Sys2Proof.Machine

def exec (i : Instr) (s : State) : Host.Outcome State Fault Refusal :=
  match i with
  | .add c d a b => Sys2Proof.Machine.execAdd c d a b s
  | .sub c d a b => Sys2Proof.Machine.execSub c d a b s
  | .mul c d a b => Sys2Proof.Machine.execMul c d a b s
  | .mulh c d a b => Sys2Proof.Machine.execMulh c d a b s
  | .div c d a b => Sys2Proof.Machine.execDiv c d a b s
  | .rem c d a b => Sys2Proof.Machine.execRem c d a b s
  | .and c d a b => Sys2Proof.Machine.execAnd c d a b s
  | .or c d a b => Sys2Proof.Machine.execOr c d a b s
  | .xor c d a b => Sys2Proof.Machine.execXor c d a b s
  | .andn c d a b => Sys2Proof.Machine.execAndn c d a b s
  | .orn c d a b => Sys2Proof.Machine.execOrn c d a b s
  | .shl c d a b => Sys2Proof.Machine.execShl c d a b s
  | .shr c d a b => Sys2Proof.Machine.execShr c d a b s
  | .sha c d a b => Sys2Proof.Machine.execSha c d a b s
  | .rot c d a b => Sys2Proof.Machine.execRot c d a b s
  | .min c d a b => Sys2Proof.Machine.execMin c d a b s
  | .max c d a b => Sys2Proof.Machine.execMax c d a b s
  | .abs c d a => Sys2Proof.Machine.execAbs c d a s
  | .neg c d a => Sys2Proof.Machine.execNeg c d a s
  | .clz c d a => Sys2Proof.Machine.execClz c d a s
  | .ctz c d a => Sys2Proof.Machine.execCtz c d a s
  | .popc c d a => Sys2Proof.Machine.execPopc c d a s
  | .brev c d a => Sys2Proof.Machine.execBrev c d a s
  | .bswap c d a => Sys2Proof.Machine.execBswap c d a s
  | .ext c d a b => Sys2Proof.Machine.execExt c d a b s
  | .ins c d a b => Sys2Proof.Machine.execIns c d a b s
  | .sext c d a b => Sys2Proof.Machine.execSext c d a b s
  | .zext c d a b => Sys2Proof.Machine.execZext c d a b s
  | .setc c k d a b => Sys2Proof.Machine.execSetc c k d a b s
  | .sel c d a b => Sys2Proof.Machine.execSel c d a b s
  | .li c d v => Sys2Proof.Machine.execLi c d v s
  | .lih c d v => Sys2Proof.Machine.execLih c d v s
  | .lea c d a b => Sys2Proof.Machine.execLea c d a b s
  | .addpc c d a => Sys2Proof.Machine.execAddpc c d a s
  | .bCond c k d a b => Sys2Proof.Machine.execBCond c k d a b s
  | .bz c d a => Sys2Proof.Machine.execBz c d a s
  | .bnz c d a => Sys2Proof.Machine.execBnz c d a s
  | .j c d => Sys2Proof.Machine.execJ c d s
  | .jal c d a => Sys2Proof.Machine.execJal c d a s
  | .jr c d a b => Sys2Proof.Machine.execJr c d a b s
  | .loop c d a => Sys2Proof.Machine.execLoop c d a s
  | .setvl c d a b => Sys2Proof.Machine.execSetvl c d a b s
  | .setvli c d a b => Sys2Proof.Machine.execSetvli c d a b s
  | .setrc c d a => Sys2Proof.Machine.execSetrc c d a s
  | .nop c => Sys2Proof.Machine.execNop c s
  | .yield c => Sys2Proof.Machine.execYield c s
  | .pause c d => Sys2Proof.Machine.execPause c d s
  | .trap c d => Sys2Proof.Machine.execTrap c d s
  | .brk c d => Sys2Proof.Machine.execBrk c d s
  | .tret c => Sys2Proof.Machine.execTret c s
  | .crd c d a => Sys2Proof.Machine.execCrd c d a s
  | .cwr c d a => Sys2Proof.Machine.execCwr c d a s
  | .cset c d a => Sys2Proof.Machine.execCset c d a s
  | .cclr c d a => Sys2Proof.Machine.execCclr c d a s
  | .isync c => Sys2Proof.Machine.execIsync c s
  | .gate c d => Sys2Proof.Machine.execGate c d s
  | .gret c => Sys2Proof.Machine.execGret c s
  | .halt c => Sys2Proof.Machine.execHalt c s
  | .step c => Sys2Proof.Machine.execStep c s
  | .timewait c d a => Sys2Proof.Machine.execTimewait c d a s
  | .vadd c d a b => Sys2Proof.Machine.execVadd c d a b s
  | .vsub c d a b => Sys2Proof.Machine.execVsub c d a b s
  | .vmul c d a b => Sys2Proof.Machine.execVmul c d a b s
  | .vmad c d a b => Sys2Proof.Machine.execVmad c d a b s
  | .vmsb c d a b => Sys2Proof.Machine.execVmsb c d a b s
  | .vnmad c d a b => Sys2Proof.Machine.execVnmad c d a b s
  | .vdiv c d a b => Sys2Proof.Machine.execVdiv c d a b s
  | .vsqrt c d a => Sys2Proof.Machine.execVsqrt c d a s
  | .vrcp c d a => Sys2Proof.Machine.execVrcp c d a s
  | .vrsq c d a => Sys2Proof.Machine.execVrsq c d a s
  | .vexp2 c d a => Sys2Proof.Machine.execVexp2 c d a s
  | .vlog2 c d a => Sys2Proof.Machine.execVlog2 c d a s
  | .vmin c d a b => Sys2Proof.Machine.execVmin c d a b s
  | .vmax c d a b => Sys2Proof.Machine.execVmax c d a b s
  | .vabs c d a => Sys2Proof.Machine.execVabs c d a s
  | .vneg c d a => Sys2Proof.Machine.execVneg c d a s
  | .vand c d a b => Sys2Proof.Machine.execVand c d a b s
  | .vor c d a b => Sys2Proof.Machine.execVor c d a b s
  | .vxor c d a b => Sys2Proof.Machine.execVxor c d a b s
  | .vnot c d a => Sys2Proof.Machine.execVnot c d a s
  | .vshl c d a b => Sys2Proof.Machine.execVshl c d a b s
  | .vshr c d a b => Sys2Proof.Machine.execVshr c d a b s
  | .vsha c d a b => Sys2Proof.Machine.execVsha c d a b s
  | .vcmp c k d a b => Sys2Proof.Machine.execVcmp c k d a b s
  | .vsel c d a b => Sys2Proof.Machine.execVsel c d a b s
  | .vclass c d a b => Sys2Proof.Machine.execVclass c d a b s
  | .vcvt c d a b => Sys2Proof.Machine.execVcvt c d a b s
  | .vqnt c d a b => Sys2Proof.Machine.execVqnt c d a b s
  | .vdqnt c d a b => Sys2Proof.Machine.execVdqnt c d a b s
  | .vsmax c d a b => Sys2Proof.Machine.execVsmax c d a b s
  | .vtag c d a b => Sys2Proof.Machine.execVtag c d a b s
  | .vsplat c d a b => Sys2Proof.Machine.execVsplat c d a b s
  | .vmovV c d a => Sys2Proof.Machine.execVmovV c d a s
  | .vmovGFromV c d a => Sys2Proof.Machine.execVmovGFromV c d a s
  | .vmovVFromG c d a => Sys2Proof.Machine.execVmovVFromG c d a s
  | .viota c d a b => Sys2Proof.Machine.execViota c d a b s
  | .vext c d a b => Sys2Proof.Machine.execVext c d a b s
  | .vins c d a b => Sys2Proof.Machine.execVins c d a b s
  | .vred c k d a => Sys2Proof.Machine.execVred c k d a s
  | .vscan c k d a => Sys2Proof.Machine.execVscan c k d a s
  | .vdot c d a b => Sys2Proof.Machine.execVdot c d a b s
  | .vtopk c d a b => Sys2Proof.Machine.execVtopk c d a b s
  | .vsort c d a b => Sys2Proof.Machine.execVsort c d a b s
  | .pand c d a b => Sys2Proof.Machine.execPand c d a b s
  | .por c d a b => Sys2Proof.Machine.execPor c d a b s
  | .pxor c d a b => Sys2Proof.Machine.execPxor c d a b s
  | .pandn c d a b => Sys2Proof.Machine.execPandn c d a b s
  | .pnot c d a => Sys2Proof.Machine.execPnot c d a s
  | .pmov c d a => Sys2Proof.Machine.execPmov c d a s
  | .pcnt c d a => Sys2Proof.Machine.execPcnt c d a s
  | .pfirst c d a => Sys2Proof.Machine.execPfirst c d a s
  | .plast c d a => Sys2Proof.Machine.execPlast c d a s
  | .psetn c d a => Sys2Proof.Machine.execPsetn c d a s
  | .pclr c d => Sys2Proof.Machine.execPclr c d s
  | .pld c d a => Sys2Proof.Machine.execPld c d a s
  | .pst c d a => Sys2Proof.Machine.execPst c d a s
  | .vslide c d a b => Sys2Proof.Machine.execVslide c d a b s
  | .vperm c d a b => Sys2Proof.Machine.execVperm c d a b s
  | .vshfl c d a b => Sys2Proof.Machine.execVshfl c d a b s
  | .vbcast c d a b => Sys2Proof.Machine.execVbcast c d a b s
  | .vcomp c d a => Sys2Proof.Machine.execVcomp c d a s
  | .vexpd c d a => Sys2Proof.Machine.execVexpd c d a s
  | .tshape c d a b => Sys2Proof.Machine.execTshape c d a b s
  | .macq c d => Sys2Proof.Machine.execMacq c d s
  | .mrel c d => Sys2Proof.Machine.execMrel c d s
  | .mzero c d => Sys2Proof.Machine.execMzero c d s
  | .mma c d a b => Sys2Proof.Machine.execMma c d a b s
  | .mrank c d a b => Sys2Proof.Machine.execMrank c d a b s
  | .mwait c d => Sys2Proof.Machine.execMwait c d s
  | .mrd c d a b => Sys2Proof.Machine.execMrd c d a b s
  | .mwr c d a b => Sys2Proof.Machine.execMwr c d a b s
  | .mcvt c d a b => Sys2Proof.Machine.execMcvt c d a b s
  | .mstat c d a => Sys2Proof.Machine.execMstat c d a s
  | .ld c d a => Sys2Proof.Machine.execLd c d a s
  | .st c d a b => Sys2Proof.Machine.execSt c d a b s
  | .lda c d a => Sys2Proof.Machine.execLda c d a s
  | .stl c d a => Sys2Proof.Machine.execStl c d a s
  | .rld c d a => Sys2Proof.Machine.execRld c d a s
  | .rst c d a b => Sys2Proof.Machine.execRst c d a b s
  | .vld c d a b => Sys2Proof.Machine.execVld c d a b s
  | .vst c d a b => Sys2Proof.Machine.execVst c d a b s
  | .vlds c d a b => Sys2Proof.Machine.execVlds c d a b s
  | .vsts c d a b => Sys2Proof.Machine.execVsts c d a b s
  | .vgath c d a b => Sys2Proof.Machine.execVgath c d a b s
  | .vscat c d a b => Sys2Proof.Machine.execVscat c d a b s
  | .rvst c d a b => Sys2Proof.Machine.execRvst c d a b s
  | .vresume c d => Sys2Proof.Machine.execVresume c d s
  | .piwait c d => Sys2Proof.Machine.execPiwait c d s
  | .stopen c d a b => Sys2Proof.Machine.execStopen c d a b s
  | .stclose c d => Sys2Proof.Machine.execStclose c d s
  | .sfence c d => Sys2Proof.Machine.execSfence c d s
  | .fenceRel c k => Sys2Proof.Machine.execFenceRel c k s
  | .fenceAcq c k => Sys2Proof.Machine.execFenceAcq c k s
  | .fenceAr c k => Sys2Proof.Machine.execFenceAr c k s
  | .jrd c d a b => Sys2Proof.Machine.execJrd c d a b s
  | .jrepost c d => Sys2Proof.Machine.execJrepost c d s
  | .jdrop c d => Sys2Proof.Machine.execJdrop c d s
  | .amoadd c d a b => Sys2Proof.Machine.execAmoadd c d a b s
  | .amoand c d a b => Sys2Proof.Machine.execAmoand c d a b s
  | .amoor c d a b => Sys2Proof.Machine.execAmoor c d a b s
  | .amoxor c d a b => Sys2Proof.Machine.execAmoxor c d a b s
  | .amomin c d a b => Sys2Proof.Machine.execAmomin c d a b s
  | .amomax c d a b => Sys2Proof.Machine.execAmomax c d a b s
  | .amoswp c d a b => Sys2Proof.Machine.execAmoswp c d a b s
  | .cas c d a b => Sys2Proof.Machine.execCas c d a b s
  | .cas128 c d a b => Sys2Proof.Machine.execCas128 c d a b s
  | .faddx c d a => Sys2Proof.Machine.execFaddx c d a s
  | .fcell c d a => Sys2Proof.Machine.execFcell c d a s
  | .fclr c d => Sys2Proof.Machine.execFclr c d s
  | .send c d a => Sys2Proof.Machine.execSend c d a s
  | .recv c d a b => Sys2Proof.Machine.execRecv c d a b s
  | .vsend c d a => Sys2Proof.Machine.execVsend c d a s
  | .vrecv c d a b => Sys2Proof.Machine.execVrecv c d a b s
  | .cend c d => Sys2Proof.Machine.execCend c d s
  | .cpgo c d a => Sys2Proof.Machine.execCpgo c d a s
  | .cpstat c d a => Sys2Proof.Machine.execCpstat c d a s
  | .wait c d => Sys2Proof.Machine.execWait c d s
  | .binit c d a => Sys2Proof.Machine.execBinit c d a s
  | .bara c d a => Sys2Proof.Machine.execBara c d a s
  | .bwait c d a => Sys2Proof.Machine.execBwait c d a s
  | .refuseTrap hart => Sys2Proof.Machine.execRefuseTrap hart s
  | .entryRefused p => Sys2Proof.Machine.execEntryRefused p s
  | .journalAck p => Sys2Proof.Machine.execJournalAck p s
  | .postedWriteArrival p => Sys2Proof.Machine.execPostedWriteArrival p s
  | .streamMemberCommit ep sender num => Sys2Proof.Machine.execStreamMemberCommit ep sender num s
  | .streamSkip p => Sys2Proof.Machine.execStreamSkip p s
  | .remoteReadPerformed p => Sys2Proof.Machine.execRemoteReadPerformed p s
  | .loadReply p => Sys2Proof.Machine.execLoadReply p s
  | .loadGroupLands hart v g => Sys2Proof.Machine.execLoadGroupLands hart v g s
  | .atomicPerformed p => Sys2Proof.Machine.execAtomicPerformed p s
  | .atomicReply p => Sys2Proof.Machine.execAtomicReply p s
  | .baraPerformed p => Sys2Proof.Machine.execBaraPerformed p s
  | .faddxPerformed p => Sys2Proof.Machine.execFaddxPerformed p s
  | .tokenArrival p => Sys2Proof.Machine.execTokenArrival p s
  | .slotReturn p => Sys2Proof.Machine.execSlotReturn p s
  | .growthGrant p => Sys2Proof.Machine.execGrowthGrant p s
  | .stationPairRequest part pair => Sys2Proof.Machine.execStationPairRequest part pair s
  | .copyTransferStart tile => Sys2Proof.Machine.execCopyTransferStart tile s
  | .copyPiece tile => Sys2Proof.Machine.execCopyPiece tile s
  | .copyTransferComplete tile => Sys2Proof.Machine.execCopyTransferComplete tile s
  | .matrixUnitStart tile => Sys2Proof.Machine.execMatrixUnitStart tile s
  | .matrixOpComplete tile => Sys2Proof.Machine.execMatrixOpComplete tile s
  | .vectorSequencerPick tile => Sys2Proof.Machine.execVectorSequencerPick tile s
  | .sequencerPeriodEnd tile => Sys2Proof.Machine.execSequencerPeriodEnd tile s
  | .budgetPeriodEnd ep => Sys2Proof.Machine.execBudgetPeriodEnd ep s
  | .pauseExpiry hart => Sys2Proof.Machine.execPauseExpiry hart s
  | .timewaitExpiry hart => Sys2Proof.Machine.execTimewaitExpiry hart s
  | .outputPortGrant tile port => Sys2Proof.Machine.execOutputPortGrant tile port s
  | .signalBoxSweep part => Sys2Proof.Machine.execSignalBoxSweep part s
  | .supervisorReportTrap part => Sys2Proof.Machine.execSupervisorReportTrap part s
  | .watchdogExpiry part => Sys2Proof.Machine.execWatchdogExpiry part s
  | .gangSwitchStop part => Sys2Proof.Machine.execGangSwitchStop part s
  | .switchStopped part => Sys2Proof.Machine.execSwitchStopped part s
  | .swctlSave part => Sys2Proof.Machine.execSwctlSave part s
  | .swctlLoad part => Sys2Proof.Machine.execSwctlLoad part s
  | .swctlGo part => Sys2Proof.Machine.execSwctlGo part s
  | .hartsReleased part => Sys2Proof.Machine.execHartsReleased part s
  | .checkpointDue part => Sys2Proof.Machine.execCheckpointDue part s
  | .checkpointManifest part => Sys2Proof.Machine.execCheckpointManifest part s
  | .ckreqGo part => Sys2Proof.Machine.execCkreqGo part s
  | .translationFill station walk => Sys2Proof.Machine.execTranslationFill station walk s
  | .speculativeWalk station asid va => Sys2Proof.Machine.execSpeculativeWalk station asid va s
  | .fatalContextHold hart => Sys2Proof.Machine.execFatalContextHold hart s
  | .xlinvWrite v => Sys2Proof.Machine.execXlinvWrite v s
  | .stationShootdown station => Sys2Proof.Machine.execStationShootdown station s
  | .shootdownAck station => Sys2Proof.Machine.execShootdownAck station s
  | .specdropRead station => Sys2Proof.Machine.execSpecdropRead station s
  | .rtbankWrite v => Sys2Proof.Machine.execRtbankWrite v s
  | .routingEntryWrite junction n bank e v => Sys2Proof.Machine.execRoutingEntryWrite junction n bank e v s
  | .tschedWrite tile v => Sys2Proof.Machine.execTschedWrite tile v s
  | .jarbWrite tile v => Sys2Proof.Machine.execJarbWrite tile v s
  | .jinjWrite tile v => Sys2Proof.Machine.execJinjWrite tile v s
  | .gframeWrite hart v => Sys2Proof.Machine.execGframeWrite hart v s
  | .xlbaseWrite v => Sys2Proof.Machine.execXlbaseWrite v s
  | .govctlWrite v => Sys2Proof.Machine.execGovctlWrite v s
  | .hdmaWrite n b v => Sys2Proof.Machine.execHdmaWrite n b v s
  | .bridgeRegisterWrite off v => Sys2Proof.Machine.execBridgeRegisterWrite off v s
  | .illegalWord why => Sys2Proof.Machine.execIllegalWord why s
  | .instructionFetchTrap => Sys2Proof.Machine.execInstructionFetchTrap s
  | .launch => Sys2Proof.Machine.execLaunch s
  | .loadCancel part => Sys2Proof.Machine.execLoadCancel part s
  | .linkFlitSend l => Sys2Proof.Machine.execLinkFlitSend l s
  | .moduleReset => Sys2Proof.Machine.execModuleReset s
  | .powerLoss => Sys2Proof.Machine.execPowerLoss s
  | .hctokWrite n v => Sys2Proof.Machine.execHctokWrite n v s
  | .hctokRead n => Sys2Proof.Machine.execHctokRead n s
  | .hcendWrite n v => Sys2Proof.Machine.execHcendWrite n v s
  | .hcendRead n => Sys2Proof.Machine.execHcendRead n s
  | .hcstatWrite n v => Sys2Proof.Machine.execHcstatWrite n v s
  | .hostBar2Access off len data => Sys2Proof.Machine.execHostBar2Access off len data s
  | .linkFlitReceive l f => Sys2Proof.Machine.execLinkFlitReceive l f s
  | .linkNakReceive l f => Sys2Proof.Machine.execLinkNakReceive l f s
  | .linkRetrain l k => Sys2Proof.Machine.execLinkRetrain l k s
  | .keyAgreementComplete l k => Sys2Proof.Machine.execKeyAgreementComplete l k s
  | .timestampExchange l offset isParent root => Sys2Proof.Machine.execTimestampExchange l offset isParent root s
  | .governorTick pnow temp => Sys2Proof.Machine.execGovernorTick pnow temp s
  | .thermalShutdown temp => Sys2Proof.Machine.execThermalShutdown temp s
  | .softError u correctable => Sys2Proof.Machine.execSoftError u correctable s
  | .pldmMonitorRequest sensor => Sys2Proof.Machine.execPldmMonitorRequest sensor s
  | .pldmFirmwareUpdate image => Sys2Proof.Machine.execPldmFirmwareUpdate image s
  | .spdmRequest nonce => Sys2Proof.Machine.execSpdmRequest nonce s

end Sys2Proof.Machine
end

