-- ==== Sys2Proof/Machine/Schedule.lean ====
section
/-! DEFINITION. Whose turn it is, and what that turn does (log 3). -/

namespace Sys2Proof.Machine

/-- What a step does. -/
inductive Act where
  /-- perform one row of the opcode table -/
  | exec (i : Instr)
  /-- one attempt of the current hart to finish the unwind of a gate call (04 R142) -/
  | unwind
  /-- the wait of the current hart is over: it reports STATE 0 and is eligible (12 R309) -/
  | ready
  /-- an instruction of a hart that has poisoned registers: it reads one and traps POISON, or runs and clears those that it writes whole
  (19 R430) -/
  | poisoned
  | scrub (i : Instr)
  /-- nothing is ready -/
  | idle
  deriving DecidableEq, Repr

/-- The row is an event's: no hart fetches it. -/
def isEvent (i : Instr) : Bool :=
  (encode i).isNone && (match i with | .illegalWord _ => false | .instructionFetchTrap => false | _ => true)

/-- The oldest report of a partition that hart h supervises and has yet to take (09 R273). -/
def State.reportOf (s : State) (h : Nat) : Option Nat :=
  match (s.hart h).part with
  | none => none
  | some p => if decide ((s.part p).sup = h) && !(s.part p).reports.isEmpty then some p else none

/-- The hart waits for a reply, and is at no boundary (07 R221: a waiting BWAIT is at one). -/
def Hart.waitsReply (a : Hart) : Bool :=
  match a.pend with | none => false | some { kind := .bwait _, .. } => false | _ => true

/-- The partition of hart h, if its switch is due and stops h: the first thing at every boundary (01 R43, 16 R362, R372). -/
def State.switchFor (s : State) (h : Nat) : Option Nat :=
  match (s.hart h).part with
  | none => none
  | some p => if s.switchDue p && (s.part p).stops.contains h && !(s.hart h).stopped && (s.hart h).unwind.isNone then some p else none

/-- The instruction at the hart's PC. -/
def State.runAct (s : State) : Act :=
  let a := s.hart s.cur
  let i := s.fetchInstr s.cur
  if a.bad.isEmpty then .exec i else if a.bad.any fun u => (a.readUnits i).contains u then .poisoned else .scrub i

/-- What hart `cur` does on its turn. An unwind goes on before all else: every event waits for the caller's domain (18 R414). A switch that
is due comes next, and stops an instruction in its middle too (16 R372). At an
instruction boundary a fatal context error (18 R399) comes before a refused entry (07 R221),
and that before a report to the supervisor, which STATE 4 keeps out (09 R273); else it goes on with the instruction at its PC. -/
def State.hartAct (s : State) : Act :=
  let a := s.hart s.cur
  if a.unwind.isSome && !a.held && !a.stopped then .unwind
  else if (s.switchFor s.cur).isSome then .exec (.gangSwitchStop ((s.switchFor s.cur).getD 0))
  else if a.held || a.stopped || decide (a.own = .parked) || a.waitsReply then .idle
  else if a.inMiddle then s.runAct
  else if a.fatal.isSome then .exec (.fatalContextHold s.cur)
  else if !a.reportable.isEmpty then .exec (.refuseTrap s.cur)
  else if decide (a.state ≠ 4) && (s.reportOf s.cur).isSome then .exec (.supervisorReportTrap ((s.reportOf s.cur).getD 0))
  else if a.pend.isSome then .idle
  else if a.pause.isSome then .exec (.pauseExpiry s.cur)
  else s.runAct

/-- What hart `cur` does on a turn that the sequencer has not given it: an instruction that needs the lanes waits for a pick (12 R311). -/
def State.ownAct (s : State) : Act :=
  let h := s.cur
  match s.hartAct with
  | .exec i =>
    if (laneExec i).isNone || (s.hart h).inMiddle then .exec i
    else match s.laneAt h with
      | none => .exec i
      | some f =>
        if (s.hart h).own ≠ .running then (if s.couldIssue h f then .ready else .exec i)
        else if !s.eligible h then .exec i
        else if s.lanesFree (tileOf h) then .exec (.vectorSequencerPick (tileOf h)) else .idle
  | a => a

/-- A turn: a hart's, one that the sequencer has given it, an event's, or an element read's. -/
def State.takeTurn (s : State) (t : Turn) : Act × State :=
  match t with
  | .hart h =>
    let s1 := { s with cur := h % 4096 }
    (s1.ownAct, s1)
  | .lanes h =>
    let s1 := { s with cur := h % 4096 }
    (s1.hartAct, s1)
  | .event i => (if isEvent i then .exec i else .idle, s)
  | .element h v e => (.idle, s.readEarly (h % 4096) v e)
  | .access host off len data => (.idle, if host then s.bar0Access off len data else s.bridgeAccess off len data)
  | .stage => (.idle, s.nextStage)

/-- What this step does. Where the state names no turn, a module that is out of bring-up's stage 0 takes any turn at all. -/
def State.plan (s : State) : Act × State :=
  match s.sched with
  | t :: r => { s with sched := r }.takeTurn t
  | [] =>
    if s.bootstat = 0 && s.rails then (.exec .moduleReset, s)
    else if Config.turnStage s.tick then s.takeTurn .stage
    else s.takeTurn (match Config.turnEvent s.tick, Config.turnElement s.tick, Config.turnAccess s.tick with
      | some i, _, _ => .event i
      | none, some (h, v, e), _ => .element h v e
      | none, none, some (host, off, len, data) => .access host off len data
      | none, none, none => .hart (Config.turnHart s.tick))

/-- Nanoseconds that TIME advances while d pass: it slews by at most 1 ns in 1,000 (10 R301). -/
def State.slewTime (s : State) (d : Nat) : State :=
  let m : Int := ((s.slewAcc + d) / 1000 : Nat)
  let adj : Int := max (-m) (min m s.slew)
  { s with
    time := s.time + BitVec.ofInt 64 (d + adj)
    slew := s.slew - adj
    slewAcc := (s.slewAcc + d) % 1000 }

/-- Time passes by amounts that no program fixes (19 R427; log 9), and the periods that it ends are over (12 R312, R315). -/
def State.pass (s : State) : State :=
  let d := Config.nanoseconds s.tick
  let s1 := (s.slewTime d).watch d
  { s1 with tick := s.tick + 1, main := s.main + Config.mainCycles s.tick }.endPeriods s

end Sys2Proof.Machine
end

