-- ==== Sys2Proof/Machine/Step.lean ====
section
/-! DEFINITION. One step of the machine, and how the host places one instruction to be run. -/

namespace Sys2Proof.Machine

/-- One step: the turn that `plan` names, then time passes. -/
def step (s : State) : Host.Outcome State Fault Refusal :=
  match s.plan with
  | (.exec i, s1) =>
    match exec i s1 with
    | .next t => .next t.pass
    | .fault r => .fault r
    | .refused r => .refused r
  | (.scrub i, s1) =>
    match exec i s1 with
    | .next t => .next (t.scrubbed s1.cur (s1.hart s1.cur).td.toNat i).pass
    | .fault r => .fault r
    | .refused r => .refused r
  | (.poisoned, s1) => .next (s1.trapHere s1.cur s1.scalarPoison).pass
  | (.unwind, s1) => .next (s1.unwindTurn s1.cur).pass
  | (.ready, s1) => .next (s1.setOwn s1.cur .running 0).pass
  | (.idle, s1) => .next s1.pass

/-- s with an instruction stored at the PC of hart 0 of tile 0, bring-up done, the next turn that hart's, that hart running with an
execute boundary past the word, and its fetch seeing the store as it stands (log 14). -/
def State.withFetchWord (s : State) (_nbits w : Nat) : State :=
  let a := s.hart 0
  let pc := a.pc.toNat
  let bound := BitVec.ofNat 21 (if a.xbndF.toNat < pc + 12 then pc + 12 else a.xbndF.toNat)
  let s1 := s.setHart 0 { a with own := .running, xbnd := bound, xbndF := bound, syncAt := s.stlog.length }
  { s1 with
    cur := 0
    sched := [.lanes 0]
    bootstat := 7
    mem := writeBytes s.mem (storeBase 0 + pc) (wordBytes (BitVec.ofNat 96 w)) }

end Sys2Proof.Machine
end

