-- ==== Sys2Proof/Safety.lean ====
section
/-! DEFINITION. The terms the claims use: memory in its canonical form, when the steps of 03 R95 let an instruction perform, and
what an instruction that retires leaves as it was. -/

namespace Sys2Proof.Machine

/-- Memory in its canonical form: rising addresses, and no byte listed that reads as an unlisted one does. -/
def Memory.wf (m : List Host.Cell) : Bool := mwf (0 : Byte) m

/-- The step answers a next state: the machine has no fault and no refusal of its own. -/
def Continues (o : Host.Outcome State Fault Refusal) : Prop := ∃ t, o = .next t

/-- Steps 4 to 8 of 03 R95 let the instruction of hart `cur` perform: its vector operands start rows (05 R150), no limit of a gate
call bars it (04 R140), no DOM or ND condition of its entry holds, and it is not retired for its guard (03 R88) or for VL = 0
(05 R146). `hd` is what its entry says of it. -/
structure State.Admits (s : State) (c : Ctl) (hd : Head) : Prop where
  rows : ∀ v ∈ hd.vs, v.toNat % (s.hart s.cur).rc = 0
  mults : ∀ n ∈ hd.mults, n % (s.hart s.cur).rc = 0
  gate : (s.hart s.cur).gdepth ≠ 0 →
    hd.barred = false ∧ (hd.unguarded = true ∨ c.gpred.toNat < 8 ∨ 96 ≤ c.gpred.toNat)
      ∧ (∀ p ∈ hd.ps, p.toNat < 8) ∧ ∀ v ∈ hd.vs ++ hd.vone, (s.vmask s.cur).getLsbD (v.toNat / 8) = true
  dom : hd.dom = none
  kahn : hd.nd = true → (s.hart s.cur).kahn = false
  active : if hd.elem then (s.hart s.cur).vl ≠ 0 else hd.unguarded = true ∨ (s.hart s.cur).guard0 c = true

/-- The decode-time WFLAG bits (03 R97) of an instruction. -/
def Head.flags (hd : Head) (c : Ctl) : BitVec 13 := decodeFlags c hd.mods hd.unguarded hd.aV hd.bV hd.last0

/-- t with the harts and partitions of s. -/
def State.withUnits (t s : State) : State := { t with harts := s.harts, parts := s.parts }

/-- The instruction of hart h has retired, from s to t: the hart's registers are those of `a` but for the PC, WFLAG, its STATE with
BLKRD and BLKWR, and the marks of scheduling; a partition's watchdog may restart; everything else is as it was in s. -/
structure Retires (s t : State) (h : Nat) (c : Ctl) (w : BitVec 13) (pc : W64) (a : Hart) : Prop where
  hart : t.hart h = { a with
    pc := pc, wflag := a.wflag ||| w, own := .running, port := 0, stalled := false, yielded := c.yld
    blkrd := (t.hart h).blkrd, blkwr := (t.hart h).blkwr, blkSince := (t.hart h).blkSince }
  blkrd : a.state ≠ 1 → (t.hart h).blkrd = a.blkrd
  blkwr : a.state ≠ 2 → (t.hart h).blkwr = a.blkwr
  others : ∀ j, j ≠ h → t.hart j = s.hart j
  watchdog : ∀ p, t.part p = s.part p ∨ t.part p = { s.part p with wdCount := 0, wdFired := false }
  byte : ∀ x, t.byte x = s.byte x
  rest : t.withUnits s = s

/-- `i` answers a next state in which it has retired with the registers of `a`, the instruction at `pc` to follow. -/
def Transfers (i : Instr) (s : State) (c : Ctl) (w : BitVec 13) (pc : W64) (a : Hart) : Prop :=
  ∃ t, exec i s = .next t ∧ Retires s t s.cur c w pc a

/-- `i` answers a next state in which it has retired with the registers of `a`, the next instruction following in sequence. -/
def Completes (i : Instr) (s : State) (c : Ctl) (w : BitVec 13) (a : Hart) : Prop :=
  Transfers i s c w ((s.hart s.cur).pc + 12) a

/-- Hart h has a handler and can report a trap in its trap registers (16 R357). -/
structure State.CanTrap (s : State) (h : Nat) : Prop where
  handler : (s.hart h).trapvecF ≠ 0
  read : (s.hart h).unread = false
  depth : (s.hart h).td ≠ 7

/-- Hart h has entered its handler, from s to t, with the given TRAPPC and trap (16 R357): everything else of it is as it was but
its STATE with BLKRD and BLKWR and what an instruction in progress had in waiting; everything outside the hart is as it was, but
for a watchdog that may restart. -/
structure Enters (s t : State) (h : Nat) (pc : W64) (tr : Trap) : Prop where
  hart : t.hart h = { s.hart h with
    trappc := pc, trapcause := tr.word, trapaddr := tr.addr, trapinfo := tr.info
    rmrSvc := if (s.hart h).td = 0 then (s.hart h).svc else (s.hart h).rmrSvc
    rmrKahn := if (s.hart h).td = 0 then (s.hart h).kahn else (s.hart h).rmrKahn
    td := (s.hart h).td + 1, svc := true, kahn := false, unread := true, readCause := false, readAddr := false
    pc := (s.hart h).trapvecF.zeroExtend 64
    own := .running, port := 0, stalled := false, waitAcc := none, timeTarget := none
    blkrd := (t.hart h).blkrd, blkwr := (t.hart h).blkwr, blkSince := (t.hart h).blkSince }
  blkrd : (s.hart h).state ≠ 1 → (t.hart h).blkrd = (s.hart h).blkrd
  blkwr : (s.hart h).state ≠ 2 → (t.hart h).blkwr = (s.hart h).blkwr
  others : ∀ j, j ≠ h → t.hart j = s.hart j
  watchdog : ∀ p, t.part p = s.part p ∨ t.part p = { s.part p with wdCount := 0, wdFired := false }
  byte : ∀ x, t.byte x = s.byte x
  rest : t.withUnits s = s

/-- The last-resort handler holds hart h, from s to t (16 R368): STATE is 4, the trap registers, RMR, TD and UNREAD stay, and the bridge
takes a report of them and of the fault at pc; of the device supervisor, bring-up is at stage 0xE (19 R431). -/
structure RomHeld (s t : State) (h : Nat) (cause : BitVec 8) (addr pc : W64) (fatal : Bool) : Prop where
  hart : t.hart h = { s.hart h with
    held := true, own := .running, port := 0, stalled := false, waitAcc := none, timeTarget := none
    blkrd := (t.hart h).blkrd, blkwr := (t.hart h).blkwr, blkSince := (t.hart h).blkSince }
  state : (t.hart h).state = 4
  report : t.romRing = ({ hart := h, trappc := (s.hart h).trappc, trapcause := (s.hart h).trapcause, trapaddr := (s.hart h).trapaddr
                          trapinfo := (s.hart h).trapinfo, cause := cause, addr := addr, pc := pc, fatal := fatal }
                        :: s.romRing).take 256
  boot : t.bootstat = if h = 0 then 0xE else s.bootstat
  blkrd : (s.hart h).state ≠ 1 → (t.hart h).blkrd = (s.hart h).blkrd
  blkwr : (s.hart h).state ≠ 2 → (t.hart h).blkwr = (s.hart h).blkwr
  others : ∀ j, j ≠ h → t.hart j = s.hart j
  watchdog : ∀ p, t.part p = s.part p ∨ t.part p = { s.part p with wdCount := 0, wdFired := false }
  byte : ∀ x, t.byte x = s.byte x
  rest : { t.withUnits s with romRing := s.romRing, bootstat := s.bootstat } = s

/-- Hart h begins to unwind its gate call, from s to t (04 R142): it waits in STATE 3, and TD, the mode and the trap registers stay. -/
structure Unwinds (s t : State) (h : Nat) (cause : BitVec 8) : Prop where
  hart : t.hart h = { s.hart h with
    unwind := some { cause := cause, dropped := false }
    own := .waiting, port := 0, stalled := false, waitAcc := none, timeTarget := none
    blkrd := (t.hart h).blkrd, blkwr := (t.hart h).blkwr, blkSince := (t.hart h).blkSince }
  blkrd : (s.hart h).state ≠ 1 → (t.hart h).blkrd = (s.hart h).blkrd
  blkwr : (s.hart h).state ≠ 2 → (t.hart h).blkwr = (s.hart h).blkwr
  others : ∀ j, j ≠ h → t.hart j = s.hart j
  watchdog : ∀ p, t.part p = s.part p ∨ t.part p = { s.part p with wdCount := 0, wdFired := false }
  byte : ∀ x, t.byte x = s.byte x
  rest : t.withUnits s = s

/-- `i` answers a next state in which its hart has taken a precise trap at it: the cause, TRAPADDR and TRAPINFO given. -/
def TrapsWith (i : Instr) (s : State) (cause : BitVec 8) (addr info : W64) : Prop :=
  ∃ t, exec i s = .next t ∧ Enters s t s.cur (s.hart s.cur).pc (Trap.mk' cause addr info)

/-- Hart h waits in STATE st, and what it names by `port`, without any effect, from s to t (07 R208): its instruction will run again. -/
structure Waits (s t : State) (h : Nat) (st : HState) (port : BitVec 4) : Prop where
  hart : t.hart h = { s.hart h with
    own := st, port := port, stalled := true
    blkrd := (t.hart h).blkrd, blkwr := (t.hart h).blkwr, blkSince := (t.hart h).blkSince }
  blkrd : (s.hart h).state ≠ 1 → (t.hart h).blkrd = (s.hart h).blkrd
  blkwr : (s.hart h).state ≠ 2 → (t.hart h).blkwr = (s.hart h).blkwr
  others : ∀ j, j ≠ h → t.hart j = s.hart j
  watchdog : ∀ p, t.part p = s.part p ∨ t.part p = { s.part p with wdCount := 0, wdFired := false }
  byte : ∀ x, t.byte x = s.byte x
  rest : t.withUnits s = s

/-- `i` answers a next state in which it has retired with the registers of `a`, after the effect outside its hart that leads from s to
u. -/
def CompletesVia (i : Instr) (s u : State) (c : Ctl) (w : BitVec 13) (a : Hart) : Prop :=
  ∃ t, exec i s = .next t ∧ Retires u t s.cur c w ((s.hart s.cur).pc + 12) a

/-- `i` waits in STATE st without effect. -/
def Stalls (i : Instr) (s : State) (st : HState) (port : BitVec 4) : Prop :=
  ∃ t, exec i s = .next t ∧ Waits s t s.cur st port

/-! ### Vector instructions (05 R145 to R151) -/

/-- The registers of an operand of the given rows. -/
def rowsOf (v rc : Nat) : List Nat := (List.range rc).map fun j => v + j

/-- A vector instruction can run to its end at once: no resume point is kept for it (16 R364), no load and no matrix operation holds
a destination row (01 R26, 06 R199), and its source rows hold whole values that are not poisoned (01 R25, R27). -/
structure State.VReady (s : State) (dest : Nat) (dests srcs : List Nat) : Prop where
  fresh : (s.hart s.cur).resumeAt dest = none
  free : ∀ v ∈ dests, s.vBusy s.cur v = false
  held : ∀ v ∈ srcs, ((s.hart s.cur).rv v).pi = 64 ∧ ((s.hart s.cur).rv v).poisoned = false

/-- From registers h to registers a, a vector instruction has written rows d to d + rc − 1: element e of row j, of width w j, has
the value `val j e` gives and its flags go to FFLAGS with `once`, and keeps its value where it gives none (05 R146 to R149); each
row's tag is `tag j`, whole and clean. SPENT takes the charge (12 R308); nothing else of the hart changes. -/
structure VWrites (h a : Hart) (d rc : Nat) (w : Nat → Nat) (tag : Nat → BitVec 16) (once : BitVec 5)
    (val : Nat → Nat → Option (Nat × BitVec 5)) : Prop where
  elems : ∀ j < rc, ∀ e, w j * e + w j ≤ 8192 →
    elemAt (a.rv (d + j)).data (w j) e =
      (match val j e with | some (v, _) => v % 2 ^ w j | none => elemAt (h.rv (d + j)).data (w j) e)
  rows : ∀ j < rc, (a.rv (d + j)).tag = tag j ∧ (a.rv (d + j)).pi = 64 ∧ (a.rv (d + j)).lrec = none
    ∧ (a.rv (d + j)).flight = none
  others : ∀ n, (∀ j < rc, n ≠ d + j) → a.rv n = h.rv n
  flags : ∀ n, a.fflags.getLsbD n = true ↔
    h.fflags.getLsbD n = true ∨ once.getLsbD n = true
      ∨ ∃ j < rc, ∃ e v f, val j e = some (v, f) ∧ f.getLsbD n = true
  rest : { a with v := h.v, fflags := h.fflags, spent := h.spent } = h

/-- `i` completes and its whole effect on the hart is to write a vector register's rows as `VWrites` says. -/
def WritesV (i : Instr) (s : State) (c : Ctl) (w : BitVec 13) (d rc : Nat) (width : Nat → Nat) (tag : Nat → BitVec 16)
    (once : BitVec 5) (val : Nat → Nat → Option (Nat × BitVec 5)) : Prop :=
  ∃ a, Completes i s c w a ∧ VWrites (s.hart s.cur) a d rc width tag once val

/-- A code of width w read unsigned or signed (02 R48), and the code of an exact result (R49). -/
def codeInt (u : Bool) (w x : Nat) : Int := if u then (x : Int) else Int.bmod (x : Int) (2 ^ w)
def intCode (w : Nat) (r : Int) : Nat := (r % (2 ^ w : Int)).toNat

/-- `i` is an element-wise instruction on rows of the format of A, which `ok` accepts and B and, for `third`, D share (05 R148 to
R152): it completes, and the active elements of D are what `f` gives of the elements of A, B and D; the result keeps the format. -/
def Elementwise (i : Instr) (s : State) (c : Ctl) (mods : BitVec 6) (d a : VReg) (b : Option VXI) (third : Bool)
    (ok : Fmt → Bool) (f : Rnd → Fmt → Nat → Nat → Nat → Nat × BitVec 5) : Prop :=
  let h := s.hart s.cur
  let rc := h.rc
  let regs := (b.getD (.i 0)).regs
  let fmt := h.rowFmt a.toNat
  let wd := widestOf (h.rowFmts a.toNat)
  let vl := h.vlAt wd
  let r := if mods &&& 7 ≠ 0 then h.rnd c else .rne
  let hd : Head := { vs := d :: a :: regs, aV := true, bV := !regs.isEmpty, mods := mods, elem := true }
  s.Admits c hd →
  s.VReady d.toNat (rowsOf d.toNat rc)
    ((a :: (regs ++ if third then [d] else [])).flatMap fun v => rowsOf v.toNat rc) →
  (∀ j < rc, ok (fmt j) = true ∧ (∀ v ∈ regs, h.rowFmt v.toNat j = fmt j) ∧ (third = true → h.rowFmt d.toNat j = fmt j)) →
    WritesV i s c (hd.flags c ||| (wfIf 0 (h.vlClamps wd) ||| fmtFlags c mods (h.rowFmts a.toNat))) d.toNat rc
      (fun j => fmtWidth (fmt j)) (fun j => plainTag (fmt j)) (h.onceFlags (h.guard c) vl (h.rowFmts a.toNat) r (b.getD (.i 0)))
      fun j e =>
        if e < vl ∧ (h.guard c).getLsbD e = true then
          some (f r (fmt j) (h.elem (a.toNat + j) (fmtWidth (fmt j)) e)
            (h.opB (fmt j) (fmtWidth (fmt j)) r (b.getD (.i 0)) j e) (h.elem (d.toNat + j) (fmtWidth (fmt j)) e))
        else none

/-- `i` is a bitwise instruction or a shift (05 R157): width and tag come from the first tagged vector operand of the row; it
completes, and the active elements of D are what `f` gives of the width and the elements of A and B. -/
def BitwiseRows (i : Instr) (s : State) (c : Ctl) (d a : VReg) (b : Option VXI) (ok : Nat → Bool) (f : Nat → Nat → Nat → Nat) :
    Prop :=
  let h := s.hart s.cur
  let rc := h.rc
  let regs := (b.getD (.i 0)).regs
  let tag := h.bitTag a b
  let fmt := fun j => tagFmt (tag j)
  let wd := widestOf ((List.range rc).map fmt)
  let vl := h.vlAt wd
  let hd : Head := { vs := d :: a :: regs, aV := true, bV := !regs.isEmpty, elem := true }
  s.Admits c hd → s.VReady d.toNat (rowsOf d.toNat rc) ((a :: regs).flatMap fun v => rowsOf v.toNat rc) →
  (∀ j < rc, ok j = true) →
    WritesV i s c (hd.flags c ||| wfIf 0 (h.vlClamps wd)) d.toNat rc (fun j => fmtWidth (fmt j)) (fun j => cleanTag (tag j))
      (h.onceFlags (h.guard c) vl ((List.range rc).map fmt) .rne (b.getD (.i 0)))
      fun j e =>
        if e < vl ∧ (h.guard c).getLsbD e = true then
          some (f (fmtWidth (fmt j)) (h.elem (a.toNat + j) (fmtWidth (fmt j)) e)
            (h.opB (fmt j) (fmtWidth (fmt j)) .rne (b.getD (.i 0)) j e), 0)
        else none

/-- From registers h to registers a, an instruction has written predicate registers p(d) to p(d + rc − 1): bit e of row j is what
`val` gives, with its flags, and keeps its value where it gives none (05 R150, R158); p0 discards (01 R14). SPENT takes the charge;
nothing else of the hart changes. -/
structure PWrites (h a : Hart) (d : PReg) (rc : Nat) (once : BitVec 5) (val : Nat → Nat → Option (Bool × BitVec 5)) : Prop where
  bits : ∀ j < rc, ∀ e < 2048, d.toNat + j ≠ 0 →
    (a.rp (pRow d j)).getLsbD e = (match val j e with | some (b, _) => b | none => (h.rp (pRow d j)).getLsbD e)
  others : ∀ q, (∀ j < rc, q ≠ pRow d j) → a.rp q = h.rp q
  flags : ∀ n, a.fflags.getLsbD n = true ↔
    h.fflags.getLsbD n = true ∨ once.getLsbD n = true
      ∨ ∃ j < rc, ∃ e b f, val j e = some (b, f) ∧ f.getLsbD n = true
  rest : { a with p := h.p, fflags := h.fflags, spent := h.spent } = h

/-- `i` completes and its whole effect on the hart is to write rows of predicates as `PWrites` says. -/
def WritesP (i : Instr) (s : State) (c : Ctl) (w : BitVec 13) (d : PReg) (rc : Nat) (once : BitVec 5)
    (val : Nat → Nat → Option (Bool × BitVec 5)) : Prop :=
  ∃ a, Completes i s c w a ∧ PWrites (s.hart s.cur) a d rc once val

/-- `i` completes and its whole effect on the hart, SPENT apart, is to write scale registers g(d) to g(d + rc − 1): entry k of row j
takes what `val` gives, and keeps its value where it gives none, but for bits [31:24], which are reserved and read zero (05 R164, R167;
01 R16). -/
def WritesG (i : Instr) (s : State) (c : Ctl) (w : BitVec 13) (d rc : Nat) (val : Nat → Nat → Option Nat) : Prop :=
  let h := s.hart s.cur
  ∃ a, Completes i s c w a
    ∧ (∀ j < rc, ∀ k < 256, elemAt (a.rg (d + j)) 32 k =
        (match val j k with | some v => v | none => elemAt (h.rg (d + j)) 32 k) % 2 ^ 24)
    ∧ (∀ n, (∀ j < rc, n ≠ d + j) → a.rg n = h.rg n)
    ∧ { a with g := h.g, spent := h.spent } = h

/-- Elements below VL whose guard bit is set take what f gives; the others keep theirs. -/
def onActive {α : Type} (g : PData) (vl : Nat) (f : Nat → Nat → α) (j e : Nat) : Option α :=
  if e < vl ∧ g.getLsbD e = true then some (f j e) else none

/-- The active elements of a row, ascending. -/
def actives (g : PData) (vl : Nat) : List Nat := (List.range vl).filter fun e => g.getLsbD e

/-- `i` completes and its whole effect on the hart, SPENT apart, is to give x[d] the value v. -/
def WritesXv (i : Instr) (s : State) (c : Ctl) (w : BitVec 13) (d : XReg) (v : W64) : Prop :=
  ∃ n, Completes i s c w ({ s.hart s.cur with spent := n }.wx d v)

/-- `i` is a predicate instruction of 05 R177 on the registers ps: it completes, and its whole effect on the hart, SPENT apart, is to
give the active bits of p[d] what f gives. -/
def PredicateOp (i : Instr) (s : State) (c : Ctl) (ps : List PReg) (d : PReg) (f : Nat → Bool) : Prop :=
  let h := s.hart s.cur
  let hd : Head := { ps := ps, elem := true }
  s.Admits c hd → ∃ n, ∃ v : PData, Completes i s c (hd.flags c) ({ h with spent := n }.wp d v)
    ∧ ∀ e < 2048, v.getLsbD e = if e < h.vl.toNat ∧ (h.guard c).getLsbD e = true then f e else (h.rp d).getLsbD e

/-- `i` moves elements within the rows of A (05 R170): it completes, and element e of D becomes what `f` gives of the guard, VL, a
reader of A's row and e, and keeps its value where it gives none; the tag is A's. -/
def CrossLane (i : Instr) (s : State) (c : Ctl) (mods : BitVec 6) (d a : VReg)
    (f : PData → Nat → (Nat → Nat) → Nat → Option Nat) : Prop :=
  let h := s.hart s.cur
  let rc := h.rc
  let wd := widestOf (h.rowFmts a.toNat)
  let vl := h.vlAt wd
  let hd : Head := { vs := [d, a], aV := true, mods := mods, elem := true }
  s.Admits c hd → s.VReady d.toNat (rowsOf d.toNat rc) (rowsOf a.toNat rc) → (∀ j < rc, h.rowFmt a.toNat j ≠ .raw) →
    WritesV i s c (hd.flags c ||| wfIf 0 (h.vlClamps wd)) d.toNat rc (fun j => fmtWidth (h.rowFmt a.toNat j))
      (fun j => cleanTag (h.rv (a.toNat + j)).tag) 0
      fun j e => (f (h.guard c) vl (fun n => h.elem (a.toNat + j) (fmtWidth (h.rowFmt a.toNat j)) n) e).map fun v => (v, 0)

/-- The low w bits of a value as an integer, unsigned or signed (04 R108). -/
def asInt (u : Bool) (w : Nat) (v : W64) : Int :=
  if u then ((v.toNat % 2 ^ w : Nat) : Int) else Int.bmod (v.toNat : Int) (2 ^ w)

/-- An exact result brought to w bits: clamped to their range under .sat, else reduced modulo 2^w (02 R48, R49). -/
def fitted (u sat : Bool) (w : Nat) (r : Int) : Int :=
  if sat then (if u then max 0 (min (2 ^ w - 1) r) else max (-(2 ^ (w - 1))) (min (2 ^ (w - 1) - 1) r))
  else if u then r % 2 ^ w else Int.bmod r (2 ^ w)

/-- `i` completes and its whole effect on registers is to give x[d] the value v. -/
def WritesX (i : Instr) (s : State) (c : Ctl) (mods : BitVec 6) (d : XReg) (v : W64) : Prop :=
  Completes i s c (Head.flags { mods := mods } c) ((s.hart s.cur).wx d v)

/-- `i` completes and its whole effect on registers is to give x[d] the value that is r when read unsigned (u) or signed. -/
def WritesInt (i : Instr) (s : State) (c : Ctl) (mods : BitVec 6) (d : XReg) (u : Bool) (r : Int) : Prop :=
  ∃ v, asInt u 64 v = r ∧ WritesX i s c mods d v

/-- `i` completes and its whole effect on registers is to give x[d] the value whose bits are f. -/
def WritesBits (i : Instr) (s : State) (c : Ctl) (mods : BitVec 6) (d : XReg) (f : Nat → Bool) : Prop :=
  ∃ v : W64, (∀ n < 64, v.getLsbD n = f n) ∧ WritesX i s c mods d v

/-- 04 R116: when a condition holds of a and b. -/
def CondTrue (k : Cond) (a b : W64) : Prop :=
  match k with
  | .eq => a = b
  | .ne => a ≠ b
  | .lt => a.toInt < b.toInt
  | .ge => b.toInt ≤ a.toInt
  | .ltu => a.toNat < b.toNat
  | .geu => b.toNat ≤ a.toNat
  | .gt => b.toInt < a.toInt
  | .le => a.toInt ≤ b.toInt
  | .gtu => b.toNat < a.toNat
  | .leu => a.toNat ≤ b.toNat

/-! ### Memory instructions -/

/-- u is s with memory as `mem` says. Beside the bytes, only race tags and clocks (14 R344, R345), the history of stores (03 R93) and
the poison that a write clears (19 R430) may differ. -/
structure MemStep (s u : State) (mem : Nat → Byte) : Prop where
  byte : ∀ x, u.byte x = mem x
  tiles : ∀ t, { u.tile t with clk := [], rclk := [], tags := [] } = { s.tile t with clk := [], rclk := [], tags := [] }
  poison : ∀ p ∈ u.poison, p ∈ s.poison
  rest : { u with tiles := s.tiles, mem := s.mem, poison := s.poison, stlog := s.stlog } = s

/-- Memory with the bytes bs from a on. -/
def withBytes (m : Nat → Byte) (a : Nat) (bs : List Byte) : Nat → Byte :=
  fun x => if a ≤ x ∧ x < a + bs.length then bs.getD (x - a) 0 else m x

/-- The n bytes of a value, the lowest address first. -/
def bytesOf (n v : Nat) : List Byte := (List.range n).map fun k => BitVec.ofNat 8 (v / 2 ^ (8 * k))

/-- Hart h's access of n bytes at the window-00 pointer p is performed: every byte lies in the store, above execute-only code, and
under a store-guard window that permits the access without race checking (01 R36; 18 R390, R392), and none is poisoned. -/
structure State.Granted (s : State) (h : Nat) (p : W64) (n : Nat) (rd wr : Bool) : Prop where
  hart : h < 4096
  inside : p.toNat + n ≤ 2 ^ 21
  guard : ∀ b, p.toNat ≤ b → b < p.toNat + n → s.execOnly (h / 4) ≤ b
    ∧ ∃ g, guardFor (s.hart h).windows (s.hart h).asid b = some g ∧ g.getLsbD 62 = false
      ∧ (rd = true → g.getLsbD 61 = true) ∧ (wr = true → g.getLsbD 60 = true)
  clean : ∀ u ∈ s.poison, u + unitLen u ≤ storeBase (h / 4) + p.toNat ∨ storeBase (h / 4) + p.toNat + n ≤ u

/-- The place in memory of a window-00 pointer of hart h. -/
def placeOf (h : Nat) (p : W64) : Nat := storeBase (h / 4) + p.toNat

/-- The access size of MOD[5:4] (07 R209). -/
def accessSize (m : BitVec 6) : Nat := [8, 4, 2, 1].getD (m.extractLsb' 4 2).toNat 8

/-- r is the value v of n bytes, zero-extended (u) or sign-extended. -/
def Extends (r : W64) (u : Bool) (n v : Nat) : Prop := if u then r.toNat = v else r.toInt = Int.bmod (v : Int) (2 ^ (8 * n))

/-- `i` loads n bytes at p of its own tile store: where the access is granted and nothing earlier of the hart holds it back, it
completes with the registers that `fin` gives of the bytes; no byte of memory changes. -/
def LoadsTile (i : Instr) (s : State) (c : Ctl) (hd : Head) (p : W64) (n align : Nat) (sync : Bool) (fin : List Byte → Hart → Prop) :
    Prop :=
  let h := s.hart s.cur
  s.Admits c hd → s.Granted s.cur p n true false → p.toNat % align = 0 → h.tileOrder p = false → s.loadWaits s.cur p n = false →
  (sync = true → h.syncDrained = true) →
    ∃ u a, MemStep s u s.byte ∧ CompletesVia i s u c (hd.flags c) a ∧ fin (s.peek (placeOf s.cur p) n) a

/-- `i` stores bs at p of its own tile store: where the access is granted, nothing earlier of the hart holds it back, and a release's
scope is drained, it completes with those bytes written and no register changed. -/
def StoresTile (i : Instr) (s : State) (c : Ctl) (hd : Head) (p : W64) (align : Nat) (bs : List Byte) (rel : Option Scope)
    (w : BitVec 13) : Prop :=
  let h := s.hart s.cur
  s.Admits c hd → s.Granted s.cur p bs.length false true → p.toNat % align = 0 → h.tileOrder p = false →
  h.loadsOverlap s.cur (byteKey s.cur p) bs.length = false → (∀ k, rel = some k → h.drained s.cur k = true) →
    ∃ u, MemStep s u (withBytes s.byte (placeOf s.cur p) bs) ∧ CompletesVia i s u c (hd.flags c ||| w) h

/-- `i` is an atomic on n bytes at p of its own tile store: where the access is granted, the release's scope is drained, and nothing
earlier of the hart holds it back, it completes at once: `new` gives the bytes it writes, if it writes, and `fin` its registers. -/
def ModifiesTile (i : Instr) (s : State) (c : Ctl) (hd : Head) (p : W64) (n : Nat) (wr : Bool) (rel : Option Scope)
    (new : List Byte → Option (List Byte)) (fin : List Byte → Hart → Prop) : Prop :=
  let h := s.hart s.cur
  s.Admits c hd → s.Granted s.cur p n true wr → p.toNat % n = 0 → h.tileOrder p = false → s.loadWaits s.cur p n = false →
  h.syncDrained = true → (∀ k, rel = some k → h.drained s.cur k = true) →
    let old := s.peek (placeOf s.cur p) n
    ∃ u a, MemStep s u (match new old with | some bs => withBytes s.byte (placeOf s.cur p) bs | none => s.byte)
      ∧ CompletesVia i s u c (hd.flags c) a ∧ fin old a

/-- .rel with its scope (07 R228). -/
def releaseOf (m : BitVec 6) : Option Scope :=
  if m.getLsbD 2 then some ([Scope.sys, .dev].getD (m.extractLsb' 0 2).toNat .tile) else none

/-- Index i is the lowest free one of hart h's journal (07 R218). -/
def Hart.lowestFree (a : Hart) (i : Nat) : Prop := i < 128 ∧ a.entry i = none ∧ ∀ k < i, (a.entry k).isSome = true

/-- `i` posts entry e at index n, from the state r that its release has led to, and retires with the registers of `a`. -/
def Posts (i : Instr) (s r : State) (c : Ctl) (w : BitVec 13) (n : Nat) (e : JEntry) (a : Hart) : Prop :=
  CompletesVia i s (({ r with nextStamp := s.nextStamp + 1 }).send (s.cur / 4) (entryDest s.cur e) c.prio (s.hart s.cur).part
    (.write s.cur n e)) c w a

/-- `i` sends the request m of a new number, from the state r that its release has led to, and stalls in STATE st for the reply, of which
k says what it does (07 R208, R210). -/
def Requests (i : Instr) (s r : State) (c : Ctl) (w : BitVec 13) (st : HState) (dst : Dest) (k : PendKind) (m : Nat → Msg) : Prop :=
  let h := s.hart s.cur
  let u := ({ r with nextReq := s.nextReq + 1 }).send (s.cur / 4) dst c.prio h.part (m s.nextReq)
  ∃ t, exec i s = .next t
    ∧ t.hart s.cur = { h with
        own := st, port := 0, stalled := true, pend := some { id := s.nextReq, kind := k, wflag := w, yld := c.yld }
        blkrd := (t.hart s.cur).blkrd, blkwr := (t.hart s.cur).blkwr, blkSince := (t.hart s.cur).blkSince }
    ∧ (∀ j, j ≠ s.cur → t.hart j = s.hart j) ∧ (∀ x, t.byte x = s.byte x) ∧ t.withUnits u = u

/-- A receive of a MERGE channel goes from what k says is taken to k' by taking n more data tokens by turns (09 R257): the first token left on
the platform of the turn, which moves on after a strip's last token; an end takes its platform out of the turns, and the end of the last
one left is delivered. -/
inductive TakenByTurns (x : Chan) : Nat → Taken → Taken → Prop
  | done (k : Taken) : TakenByTurns x 0 k k
  | data {n : Nat} {k k' : Taken} {t : Token} : ((x.plat k.turn).toks.drop (mget 0 k.counts k.turn)).head? = some t → t.isEnd = false →
      TakenByTurns x n { k with
        data := k.data ++ [t.data], counts := mput k.counts k.turn (mget 0 k.counts k.turn + 1), bad := k.bad || t.bad
        turn := if t.stripEnd then nextTurn x.f k.turn k.endedSet else k.turn } k' →
      TakenByTurns x (n + 1) k k'
  | skip {n : Nat} {k k' : Taken} {t : Token} : ((x.plat k.turn).toks.drop (mget 0 k.counts k.turn)).head? = some t → t.isEnd = true →
      (∃ j < x.f, j ≠ k.turn ∧ j ∉ k.endedSet) →
      TakenByTurns x (n + 1) { k with
        counts := mput k.counts k.turn (mget 0 k.counts k.turn + 1), bad := k.bad || t.bad, endedSet := k.turn :: k.endedSet
        turn := nextTurn x.f k.turn (k.turn :: k.endedSet) } k' →
      TakenByTurns x (n + 1) k k'
  | last {n : Nat} {k : Taken} {t : Token} : ((x.plat k.turn).toks.drop (mget 0 k.counts k.turn)).head? = some t → t.isEnd = true →
      (∀ j < x.f, j = k.turn ∨ j ∈ k.endedSet) →
      TakenByTurns x (n + 1) k { k with
        counts := mput k.counts k.turn (mget 0 k.counts k.turn + 1), bad := k.bad || t.bad, ended := true, turn := 0, endedSet := [] }

/-! ### Arbitration -/

/-- Among the harts of tile n that `ok` admits, those at level 1 if there are any contend; the credit of each grows by its weight; the
largest wins, the lowest number of several, and pays the sum of the weights (12 R310, R311). -/
def State.PicksByCredit (s : State) (n : Nat) (cr : SMap Int) (ok : Nat → Bool) (l : Nat) (cr' : SMap Int) : Prop :=
  let high := fun j => decide ((s.hart (4 * n + j)).spent < (s.hart (4 * n + j)).budget) || (s.hart (4 * n + j)).svc
  let some1 := (List.range 4).any fun j => ok (4 * n + j) && high j
  let es := (List.range 4).filter fun j => ok (4 * n + j) && (!some1 || high j)
  let credit := fun j => mget 0 cr j + (s.weight (4 * n + j) : Int)
  l ∈ es ∧ (∀ j ∈ es, credit j < credit l ∨ (credit j = credit l ∧ l ≤ j))
    ∧ ∀ j, mget 0 cr' j =
      if j = l then credit l - (es.map fun i => (s.weight (4 * n + i) : Int)).sum else if j ∈ es then credit j else mget 0 cr j

/-- w is the first of l after p, cyclically. -/
def CyclicFirst (l : List Nat) (p w : Nat) : Prop :=
  w ∈ l ∧ ((p < w ∧ ∀ v ∈ l, p < v → w ≤ v) ∨ ((∀ v ∈ l, v ≤ p) ∧ ∀ v ∈ l, w ≤ v))

/-! ### Sums of the matrix array (02 R69 to R75) -/

/-- round32 of n × 2^e; an exact zero is +0 (02 R69, R71). -/
def round32 (n e : Int) : Nat := if n = 0 then 0 else (roundFin .f32 .rne false (decide (n < 0)) n.natAbs e false).1

/-- round32 of the sum of a cell and a unit's value. -/
def plus32 (acc v : Nat) : Nat := ((Ex.plus .rne (fdec .f32 v).ex (fdec .f32 acc)).round .f32 .rne false).1

/-- round32 of a cell and an exact product (02 R73). -/
def fused32 (acc : Nat) (x y : FVal) : Nat := ((Ex.plus .rne (exMul x y) (fdec .f32 acc)).round .f32 .rne false).1

/-- The sign of a value that is no NaN; whether it is infinite; whether it is zero. -/
def FVal.below : FVal → Bool
  | .fin n _ _ | .inf n => n
  | .nan _ => false
def FVal.endless : FVal → Bool
  | .inf _ => true
  | _ => false
def FVal.zero : FVal → Bool
  | .fin _ 0 _ => true
  | _ => false

/-- v is the value of a unit that sums the products x z × y z over zs and scales the sum by 2^k: the special value of 02 R75, or
round32 of the exact sum, written with an exponent that no nonzero product undercuts. -/
def UnitValue (zs : List Nat) (x y : Nat → FVal) (k : Int) (v : Nat) : Prop :=
  let nan := zs.any fun z => (x z).isNan || (y z).isNan
  let endless := fun (s : Bool) => zs.any fun z => ((x z).endless || (y z).endless) && ((x z).below != (y z).below) == s
  let invalid := (zs.any fun z => ((x z).endless && (y z).zero) || ((x z).zero && (y z).endless)) || (endless false && endless true)
  (nan = true ∨ invalid = true → v = 0x7FC00000)
  ∧ (nan = false → invalid = false → endless false = true → v = 0x7F800000)
  ∧ (nan = false → invalid = false → endless true = true → v = 0xFF800000)
  ∧ ∀ (n m : Nat → Nat) (d e : Nat → Int), (∀ z ∈ zs, x z = .fin (x z).below (n z) (d z) ∧ y z = .fin (y z).below (m z) (e z)) →
    ∃ low : Int, (∀ z ∈ zs, n z * m z ≠ 0 → low ≤ d z + e z)
      ∧ v = round32 ((zs.map fun z => (if (x z).below = (y z).below then (1 : Int) else -1)
          * ((n z * m z : Nat) : Int) * 2 ^ (d z + e z - low).toNat).sum) (low + k)

/-- v is the value of a unit of q codes with the scale entries ga and gb, of which ps are the integer products (02 R72, R75). -/
def QUnitValue (ga gb : Nat) (ps : List Int) (v : Nat) : Prop :=
  let x := fdec .f16 (ga % 2 ^ 16)
  let y := fdec .f16 (gb % 2 ^ 16)
  let below := x.below != y.below
  let undefined := (x.endless && y.zero) || (x.zero && y.endless) || ps.any (fun p => decide (p = 0))
    || (ps.any (fun p => decide (p < 0)) && ps.any fun p => decide (0 < p))
  (x.isNan = true ∨ y.isNan = true → v = 0x7FC00000)
  ∧ (x.isNan = false → y.isNan = false → x.endless = true ∨ y.endless = true →
    v = if undefined then 0x7FC00000 else if below != ps.any (fun p => decide (p < 0)) then 0xFF800000 else 0x7F800000)
  ∧ ∀ n m d e, x = .fin x.below n d → y = .fin y.below m e →
    v = round32 (ps.sum * (if below then -1 else 1) * ((n * m : Nat) : Int)) (d + e)

/-! ### Gate frames (18 R411) -/

/-- `at_ o k`, the number in k bytes of a frame from offset o on, holds what 18 R411 says of a call by hart h through entry e of index n:
`w` are the decode-time WFLAG bits of the GATE. Every byte not listed is zero. -/
structure FrameHolds (at_ : Nat → Nat → Nat) (h : Hart) (w : BitVec 13) (n : Nat) (e : GateEntry) : Prop where
  pc : at_ 0 8 = (h.pc + 12).toNat
  asid : at_ 8 8 = h.asid.toNat
  guards : ∀ i < 8, at_ (0x10 + 8 * i) 8 = (h.guardReg i).toNat
  trapvec : at_ 0x50 8 = h.trapvec.toNat
  trap : at_ 0x58 8 = h.trappc.toNat ∧ at_ 0x60 8 = h.trapcause.toNat ∧ at_ 0x68 8 = h.trapaddr.toNat ∧ at_ 0x70 8 = h.trapinfo.toNat
  flags : at_ 0x78 8 = h.fflags.toNat ∧ at_ 0x80 8 = h.fctl.toNat ∧ at_ 0x88 8 = (h.wflag ||| w).toNat
  vcfg : at_ 0x90 8 = h.vl.toNat + 2 ^ 12 * h.rcc.toNat + 2 ^ 16 * h.efmt.toNat
  mode : at_ 0x98 8 = (if h.svc then 1 else 0) + (if h.kahn then 2 else 0) + (if h.unread then 4 else 0) + 8 * h.td.toNat
    + (if h.rmrSvc then 64 else 0) + (if h.rmrKahn then 128 else 0)
  masks : at_ 0xA0 4 = e.passm.toNat ∧ at_ 0xA4 4 = e.retm.toNat ∧ at_ 0xA8 1 = e.vmask.toNat ∧ at_ 0xA9 23 = n
  slots : ∀ i < 4, let sl := h.slot (i + 1)
    if sl.isOpen || sl.closing then
      at_ (0xC0 + 16 * i) 1 = (if sl.isOpen then 1 else 0) + (if sl.closing then 2 else 0) ∧ at_ (0xC1 + 16 * i) 3 = sl.num.toNat
        ∧ at_ (0xC4 + 16 * i) 4 = sl.seq.toNat ∧ at_ (0xC8 + 16 * i) 8 = sl.ptr.toNat
    else at_ (0xC0 + 16 * i) 16 = 0
  xs : ∀ r : XReg, at_ (0x100 + 8 * r.toNat) 8 = if r = 0 ∨ e.passm.getLsbD r.toNat = true then 0 else (h.rx r).toNat
  ps : ∀ i < 7, at_ (0x200 + 256 * i) 256 = (h.rp (BitVec.ofNat 7 (i + 1))).toNat
  tags : ∀ v < 64, at_ (0x900 + 2 * v) 2 = if e.vmask.getLsbD (v / 8) then (h.rv v).tag.toNat else 0
  zeros : at_ 0x980 0x680 = 0
  rows : ∀ v < 64, e.vmask.getLsbD (v / 8) = true →
    at_ (0x1000 + 1024 * ((List.range v).filter fun u => e.vmask.getLsbD (u / 8)).length) 1024 = (h.rv v).data.toNat
  tail : ∀ o, 0x1000 + 1024 * ((List.range 64).filter fun u => e.vmask.getLsbD (u / 8)).length ≤ o → o < e.frame * 4096 → at_ o 1 = 0

/-- Registers a are those of h, a callee of the call g, after the frame bs has given the caller back (04 R141): under `keep` the x
registers of the return mask keep the callee's values. A tag is taken as 00 R5 and 01 R21 say. STATE, BLKRD and BLKWR, the PC, the
marks of scheduling, what an unwind keeps and the record of stopped instructions are for others to say. -/
structure Restored (h a : Hart) (bs : List Byte) (g : GCall) (rest : List GCall) (keep : Bool) : Prop where
  depth : a.gdepth = h.gdepth - 1 ∧ a.gcalls = rest ∧ a.gframe = { h.gframe with used := h.gframe.used - BitVec.ofNat 10 g.units }
  asid : a.asid = BitVec.ofNat 16 (natAt bs 8 8)
  guards : ∀ n < 8, a.guardReg n = wordAt bs (0x10 + 8 * n) &&& 0xF7FFFFFFFFDFFFFF
  trapvec : a.trapvec = BitVec.ofNat 21 (natAt bs 0x50 8) ∧ a.trapvecF = g.tvecF
  trap : a.trappc = wordAt bs 0x58 ∧ a.trapcause = wordAt bs 0x60 &&& 0x3FF ∧ a.trapaddr = wordAt bs 0x68 ∧ a.trapinfo = wordAt bs 0x70
  flags : a.fflags = BitVec.ofNat 5 (natAt bs 0x78 8) ∧ a.fctl = BitVec.ofNat 2 (natAt bs 0x80 8)
    ∧ a.wflag = BitVec.ofNat 13 (natAt bs 0x88 8)
  vcfg : a.vl = (wordAt bs 0x90).extractLsb' 0 12 ∧ a.rcc = (wordAt bs 0x90).extractLsb' 12 2
    ∧ a.efmt = (wordAt bs 0x90).extractLsb' 16 5
  mode : let m := wordAt bs 0x98
    a.svc = m.getLsbD 0 ∧ a.kahn = m.getLsbD 1 ∧ a.unread = m.getLsbD 2 ∧ a.td = m.extractLsb' 3 3 ∧ a.rmrSvc = m.getLsbD 6
      ∧ a.rmrKahn = m.getLsbD 7
  xs : ∀ r : XReg, r ≠ 0 → a.rx r =
    if keep = true ∧ (BitVec.ofNat 32 (natAt bs 0xA4 4)).getLsbD r.toNat = true then h.rx r
    else if (BitVec.ofNat 32 (natAt bs 0xA0 4)).getLsbD r.toNat = true then 0 else wordAt bs (0x100 + 8 * r.toNat)
  ps : ∀ p : PReg, a.rp p =
    if 1 ≤ p.toNat ∧ p.toNat ≤ 7 then BitVec.ofNat 2048 (natAt bs (0x200 + 256 * (p.toNat - 1)) 256) else h.rp p
  rows : let vmask := BitVec.ofNat 8 (natAt bs 0xA8 1)
    ∀ v, a.rv v =
      if v < 64 ∧ vmask.getLsbD (v / 8) = true then
        let tag := BitVec.ofNat 16 (natAt bs (0x900 + 2 * v) 2)
        let data := natAt bs (0x1000 + 1024 * ((List.range v).filter fun u => vmask.getLsbD (u / 8)).length) 1024
        { data := if badTag tag then 0 else BitVec.ofNat 8192 data, tag := if badTag tag then 0 else tag &&& 0xFFF0, pi := 64
          lrec := none, flight := none }
      else h.rv v
  slots : ∀ i < 4, let o := 0xC0 + 16 * i
    (a.slot (i + 1)).isOpen = (wordAt bs o).getLsbD 0 ∧ (a.slot (i + 1)).closing = (wordAt bs o).getLsbD 1
      ∧ (a.slot (i + 1)).num = (wordAt bs o).extractLsb' 8 8 ∧ (a.slot (i + 1)).seq = (wordAt bs o).extractLsb' 32 20
      ∧ (a.slot (i + 1)).ptr = wordAt bs (o + 8)
  others : ∀ k, k < 1 ∨ 4 < k → a.slot k = h.slot k
  rest : { a with
    pc := h.pc, asid := h.asid, gdepth := h.gdepth, gcalls := h.gcalls, gframe := h.gframe, trappc := h.trappc
    trapcause := h.trapcause, trapaddr := h.trapaddr, trapinfo := h.trapinfo, fflags := h.fflags, fctl := h.fctl
    wflag := h.wflag, vl := h.vl, rcc := h.rcc, efmt := h.efmt, trapvec := h.trapvec, trapvecF := h.trapvecF, svc := h.svc
    kahn := h.kahn, unread := h.unread, td := h.td, rmrSvc := h.rmrSvc, rmrKahn := h.rmrKahn, stguard := h.stguard
    x := h.x, p := h.p, v := h.v, slots := h.slots, resume := h.resume, unwind := h.unwind, own := h.own, port := h.port
    stalled := h.stalled, yielded := h.yielded, blkrd := h.blkrd, blkwr := h.blkwr, blkSince := h.blkSince } = h

/-! ### Events -/

/-- t is s but for hart h, whose registers are a. -/
structure OnHart (s t : State) (h : Nat) (a : Hart) : Prop where
  hart : t.hart h = a
  others : ∀ j, j ≠ h → t.hart j = s.hart j
  rest : { t with harts := s.harts } = s

/-- t is s but for tile n, which is a. -/
structure OnTile (s t : State) (n : Nat) (a : Tile) : Prop where
  tile : t.tile n = a
  others : ∀ j, j ≠ n → t.tile j = s.tile j
  rest : { t with tiles := s.tiles } = s

/-- t is s but for partition n, which is a. -/
structure OnPart (s t : State) (n : Nat) (a : Partition) : Prop where
  part : t.part n = a
  others : ∀ j, j ≠ n → t.part j = s.part j
  rest : { t with parts := s.parts } = s

/-- t is s but for station n, which is a. -/
structure OnStation (s t : State) (n : Nat) (a : Station) : Prop where
  station : t.station n = a
  others : ∀ j, j ≠ n → t.station j = s.station j
  rest : { t with stations := s.stations } = s

/-- t is s but for link l, which is a. -/
structure OnLink (s t : State) (l : Nat) (a : Link) : Prop where
  link : t.link l = a
  others : ∀ j, j ≠ l → t.link j = s.link j
  rest : { t with links := s.links } = s

/-- t is s but for channel c of partition n, which is x. -/
structure OnChan (s t : State) (n c : Nat) (x : Chan) : Prop where
  chan : t.chan n c = x
  others : ∀ k, k ≠ c → t.chan n k = s.chan n k
  part : { t.part n with chans := (s.part n).chans } = s.part n
  parts : ∀ j, j ≠ n → t.part j = s.part j
  rest : { t with parts := s.parts } = s

/-- Packet q, and no other, has arrived under number p. -/
def State.Arrived (s : State) (p : Nat) (q : Packet) : Prop := q ∈ s.arrived ∧ q.id = p ∧ ∀ r ∈ s.arrived, r.id = p → r = q

/-- s without the arrived packet of number p. -/
def State.without (s : State) (p : Nat) : State := { s with arrived := s.arrived.filter fun r => decide (r.id ≠ p) }

/-- s with one more channel packet of partition n counted as ejected by endpoint ep (09 R267). -/
def State.counted (s : State) (ep n : Nat) : State :=
  if ep < 1024 then s.modTile ep fun x => { x with ej := mput x.ej n (mget 0 x.ej n + 1) }
  else s.modStation (ep - 1024) fun x => { x with ej := mput x.ej n (mget 0 x.ej n + 1) }

/-- s without the arrived channel packet of number p, counted as ejected by endpoint ep for partition n, which is progress (09 R267,
16 R370). -/
def State.ejecting (s : State) (p n ep : Nat) : State :=
  ((s.without p).counted ep n).modPart n fun a => { a with wdCount := 0, wdFired := false }

/-- The windows that an access of hart h at pointer p is checked under in tile ep: the hart's own for window 00, all 32 of the tile
for any other (18 R390, R391). -/
def State.windowsFor (s : State) (ep h : Nat) (p : W64) : List W64 := if winOf p = 0 then (s.hart h).windows else s.tileWindows ep

/-- Tile ep performs an access of n bytes at offset o under the windows ws: every byte lies in its store, above execute-only code, and
under a window that permits the access without race checking, and none is poisoned. -/
structure State.Permits (s : State) (ep : Nat) (ws : List W64) (asid : BitVec 16) (o n : Nat) (rd wr : Bool) : Prop where
  inside : o + n ≤ 2 ^ 21
  guard : ∀ b, o ≤ b → b < o + n → s.execOnly ep ≤ b
    ∧ ∃ g, guardFor ws asid b = some g ∧ g.getLsbD 62 = false ∧ (rd = true → g.getLsbD 61 = true) ∧ (wr = true → g.getLsbD 60 = true)
  clean : ∀ u ∈ s.poison, u + unitLen u ≤ storeBase ep + o ∨ storeBase ep + o + n ≤ u

/-- Memory with the bytes bs from a on, each under its two bits of mask (07 R215). -/
def withMasked (m : Nat → Byte) (a : Nat) (bs : List Byte) (mask : List (BitVec 2)) : Nat → Byte :=
  fun x => if a ≤ x ∧ x < a + bs.length then mergeByte (mask.getD (x - a) 0) (m x) (bs.getD (x - a) 0) else m x

/-- A barrier object's bytes after a arrive (07 R240): at EXPECT, ARRIVED begins anew and PHASE flips. -/
def afterArrival (a : Nat) (old : List Byte) : List Byte :=
  let expect := leNat (old.take 8)
  let arrived := (leNat ((old.drop 8).take 8) + a) % 2 ^ 64
  let full := decide (expect = 0) || decide (expect ≤ arrived)
  bytesOf 8 expect ++ bytesOf 8 (if full then (if expect = 0 then 0 else arrived - expect) else arrived)
    ++ [if full then old.getD 16 0 ^^^ 1 else old.getD 16 0] ++ old.drop 17

/-- An exact cell's bytes after FADDX of the f32 y (02 R77): a finite value is added to SUM, any other is noted in FL. -/
def afterAdd (y : Nat) (old : List Byte) : List Byte :=
  let v := fdec .f32 y
  let fl : Byte := match v with | .fin _ _ _ => 0 | .inf neg => if neg then 2 else 1 | .nan _ => 4
  let sum : Int := Int.bmod (leNat (old.take 48) : Int) (2 ^ 384) + (match v with
    | .fin neg m e => (if neg then -1 else 1) * ((m * 2 ^ (e + 149).toNat : Nat) : Int) | _ => 0)
  bytesOf 48 (intCode 384 sum) ++ bytesOf 4 (min (leNat ((old.drop 48).take 4) + 1) (2 ^ 32 - 1)) ++ [old.getD 52 0 ||| fl] ++ old.drop 53

/-- An event answers the next state t. -/
def Becomes (i : Instr) (s t : State) : Prop := exec i s = .next t

end Sys2Proof.Machine
end

