-- ==== Sys2Proof/Certificates/Slice0/Obligations.lean ====
section
/-! DEFINITION. The statements for the provers. -/

open Sys2Proof Sys2Proof.Machine

/-- 04 R109, R110, R113: ADD, SUB, MUL, ABS and NEG at width W, MULH, MIN and MAX at 64 bits: exact on the operands as read, then
clamped or wrapped. Nothing else of the hart changes but PC and WFLAG; no memory changes. 04 R111: DIV and REM by zero, of the most
negative number by −1, and otherwise rounded toward zero. -/
def Obligations.IntegerArithmetic : Prop :=
  (∀ (s : State) (c : Ctl) (d a : XReg) (b : XI),
      let x := fun (u : Bool) (w : Nat) => asInt u w ((s.hart s.cur).rx a)
      let y := fun (u : Bool) (w : Nat) => asInt u w ((s.hart s.cur).xi b)
      (s.Admits c { mods := 0x38 } →
        WritesInt (.add c d a b) s c 0x38 d c.u (fitted c.u c.sat c.w (x c.u c.w + y c.u c.w))
          ∧ WritesInt (.sub c d a b) s c 0x38 d c.u (fitted c.u c.sat c.w (x c.u c.w - y c.u c.w))
          ∧ WritesInt (.mul c d a b) s c 0x38 d c.u (fitted c.u c.sat c.w (x c.u c.w * y c.u c.w)))
      ∧ (s.Admits c { mods := 0x28 } →
        WritesInt (.abs c d a) s c 0x28 d false (fitted false c.sat c.w ((x false c.w).natAbs : Int))
          ∧ WritesInt (.neg c d a) s c 0x28 d false (fitted false c.sat c.w (-x false c.w)))
      ∧ (s.Admits c { mods := 0x10 } →
        WritesInt (.mulh c d a b) s c 0x10 d c.u (x c.u 64 * y c.u 64 / 2 ^ 64)
          ∧ WritesInt (.min c d a b) s c 0x10 d c.u (min (x c.u 64) (y c.u 64))
          ∧ WritesInt (.max c d a b) s c 0x10 d c.u (max (x c.u 64) (y c.u 64))))
  ∧
  (∀ (s : State) (c : Ctl) (d a : XReg) (b : XI), s.Admits c { mods := 0x30 } →
      let x := asInt c.u c.w ((s.hart s.cur).rx a)
      let y := asInt c.u c.w ((s.hart s.cur).xi b)
      (y = 0 → WritesInt (.div c d a b) s c 0x30 d c.u (if c.u then 2 ^ c.w - 1 else -1)
          ∧ WritesInt (.rem c d a b) s c 0x30 d c.u x)
      ∧ (c.u = false → x = -(2 ^ (c.w - 1)) → y = -1 →
          WritesInt (.div c d a b) s c 0x30 d c.u x ∧ WritesInt (.rem c d a b) s c 0x30 d c.u 0)
      ∧ (y ≠ 0 → ¬(c.u = false ∧ x = -(2 ^ (c.w - 1)) ∧ y = -1) →
          WritesInt (.div c d a b) s c 0x30 d c.u (Int.tdiv x y)
            ∧ WritesInt (.rem c d a b) s c 0x30 d c.u (x - y * Int.tdiv x y)))

/-- 04 R112: the logical operations act on all 64 bits. 04 R112: shifts by b mod W of the low W bits; the W-bit result is extended from
its top bit. -/
def Obligations.LogicAndShifts : Prop :=
  (∀ (s : State) (c : Ctl) (d a : XReg) (b : XI), s.Admits c {} →
      let x := (s.hart s.cur).rx a
      let y := (s.hart s.cur).xi b
      WritesBits (.and c d a b) s c 0 d (fun n => x.getLsbD n && y.getLsbD n)
        ∧ WritesBits (.or c d a b) s c 0 d (fun n => x.getLsbD n || y.getLsbD n)
        ∧ WritesBits (.xor c d a b) s c 0 d (fun n => x.getLsbD n != y.getLsbD n)
        ∧ WritesBits (.andn c d a b) s c 0 d (fun n => x.getLsbD n && !y.getLsbD n)
        ∧ WritesBits (.orn c d a b) s c 0 d (fun n => x.getLsbD n || !y.getLsbD n))
  ∧
  (∀ (s : State) (c : Ctl) (d a : XReg) (b : XI), s.Admits c { mods := 0x20 } →
      let w := c.w
      let n := ((s.hart s.cur).xi b).toNat % w
      let x : Int := asInt true w ((s.hart s.cur).rx a)
      WritesInt (.shl c d a b) s c 0x20 d false (Int.bmod (x * 2 ^ n) (2 ^ w))
        ∧ WritesInt (.shr c d a b) s c 0x20 d false (Int.bmod (x / 2 ^ n) (2 ^ w))
        ∧ WritesInt (.sha c d a b) s c 0x20 d false (asInt false w ((s.hart s.cur).rx a) / 2 ^ n)
        ∧ WritesInt (.rot c d a b) s c 0x20 d false (Int.bmod (x * 2 ^ n + x / 2 ^ (w - n)) (2 ^ w)))

/-- 04 R113: leading and trailing zeros, one bits, bits and bytes in reverse order. 04 R114, R115: the field of EXT and INS begins at
B[5:0] and has B[11:6] + 1 bits; SEXT and ZEXT keep bits 0 to B[5:0]. 04 R117 to R121: comparison, selection on the destination,
constants and addresses. -/
def Obligations.BitOperations : Prop :=
  (∀ (s : State) (c : Ctl) (d a : XReg),
      let x := (s.hart s.cur).rx a
      let w := c.w
      (s.Admits c { mods := 0x20 } →
        (∃ n ≤ w, (∀ i < n, x.getLsbD (w - 1 - i) = false) ∧ (n < w → x.getLsbD (w - 1 - n) = true)
          ∧ WritesInt (.clz c d a) s c 0x20 d true n)
        ∧ (∃ n ≤ w, (∀ i < n, x.getLsbD i = false) ∧ (n < w → x.getLsbD n = true)
          ∧ WritesInt (.ctz c d a) s c 0x20 d true n)
        ∧ WritesInt (.popc c d a) s c 0x20 d true (((List.range w).filter x.getLsbD).length))
      ∧ (s.Admits c {} →
        WritesBits (.brev c d a) s c 0 d (fun n => x.getLsbD (63 - n))
          ∧ WritesBits (.bswap c d a) s c 0 d (fun n => x.getLsbD (8 * (7 - n / 8) + n % 8))))
  ∧
  (∀ (s : State) (c : Ctl) (d a : XReg) (f : XU 12) (n : XU 6),
      let x := (s.hart s.cur).rx a
      let old := (s.hart s.cur).rx d
      let pos := ((s.hart s.cur).xu f).toNat % 64
      let len := ((s.hart s.cur).xu f).toNat / 64 + 1
      let m := ((s.hart s.cur).xu n).toNat
      (s.Admits c { mods := 0x10 } →
        WritesBits (.ext c d a f) s c 0x10 d fun i =>
          if i < len then x.getLsbD (pos + i) else !c.u && x.getLsbD (pos + len - 1))
      ∧ (s.Admits c {} →
        WritesBits (.ins c d a f) s c 0 d (fun i =>
            if pos ≤ i ∧ i < pos + len then x.getLsbD (i - pos) else old.getLsbD i)
          ∧ WritesBits (.sext c d a n) s c 0 d (fun i => if i ≤ m then x.getLsbD i else x.getLsbD m)
          ∧ WritesBits (.zext c d a n) s c 0 d (fun i => decide (i ≤ m) && x.getLsbD i)))
  ∧
  (∀ (s : State) (c : Ctl) (d a : XReg) (b : XI), s.Admits c {} →
      let h := s.hart s.cur
      (∀ k, (CondTrue k (h.rx a) (h.xi b) → WritesX (.setc c k d a b) s c 0 d 1)
          ∧ (¬CondTrue k (h.rx a) (h.xi b) → WritesX (.setc c k d a b) s c 0 d 0))
        ∧ (h.rx d ≠ 0 → WritesX (.sel c d a b) s c 0 d (h.rx a))
        ∧ (h.rx d = 0 → WritesX (.sel c d a b) s c 0 d (h.xi b))
        ∧ (∀ v : BitVec 40, WritesInt (.li c d v) s c 0 d false v.toInt)
        ∧ (∀ v : BitVec 24, WritesBits (.lih c d v) s c 0 d fun n =>
            if n < 40 then (h.rx d).getLsbD n else v.getLsbD (n - 40))
        ∧ (∀ (m : MemOp) (r : XReg), ∃ v, WritesX (.lea c d m r) s c 0 d v
            ∧ v.toInt = Int.bmod ((h.rx m.base).toInt + m.off.toInt + (h.rx r).toInt) (2 ^ 64))
        ∧ (∀ v : Imm, ∃ r, WritesX (.addpc c d v) s c 0 d r ∧ r.toInt = Int.bmod (h.pc.toInt + 4 * v.toInt) (2 ^ 64)))

/-- 04 R122, R123: a transfer goes to its target when its condition holds, else to the next instruction; JAL and JR link. 04 R123, 16
R360: JR to a target that is not 4-aligned traps ALIGN, with TRAPADDR the target, and writes no link. -/
def Obligations.ControlTransfers : Prop :=
  (∀ (s : State) (c : Ctl), s.Admits c {} →
      let h := s.hart s.cur
      let w := Head.flags {} c
      let next := h.pc + 12
      let target := fun (v : Imm) => h.pc + v.signExtend 64 * 4
      (∀ (k : Cond) (d : XReg) (a : XI) (v : Imm),
          (CondTrue k (h.rx d) (h.xi a) → Transfers (.bCond c k d a v) s c w (target v) h)
            ∧ (¬CondTrue k (h.rx d) (h.xi a) → Transfers (.bCond c k d a v) s c w next h))
        ∧ (∀ (d : XReg) (v : Imm),
          Transfers (.bz c d v) s c w (if h.rx d = 0 then target v else next) h
            ∧ Transfers (.bnz c d v) s c w (if h.rx d = 0 then next else target v) h
            ∧ Transfers (.jal c d v) s c w (target v) (h.wx d next))
        ∧ (∀ v : Imm, Transfers (.j c v) s c w (target v) h)
        ∧ (∀ (d a : XReg) (b : XI), (h.rx a + h.xi b).toNat % 4 = 0 →
          Transfers (.jr c d a b) s c w (h.rx a + h.xi b) (h.wx d next)))
  ∧
  (∀ (s : State) (c : Ctl) (d a : XReg) (b : XI), s.Admits c {} → s.CanTrap s.cur →
      ((s.hart s.cur).rx a + (s.hart s.cur).xi b).toNat % 4 ≠ 0 →
        TrapsWith (.jr c d a b) s 0x02 ((s.hart s.cur).rx a + (s.hart s.cur).xi b) 4)

/-- 04 R124: LOOP counts down by 1, or by VL to no less than 0, and goes to its target while the counter is nonzero. 01 R12, 04 R126:
SETVL and SETVLI grant the smaller of the request and VLMAX; SETRC the largest of 1, 2, 4, 8 within the request. 04 R128: NOP, YIELD and
PAUSE change no register; YIELD marks the hart as offering its slot, PAUSE stops its issue for n cycles of the tile's clock, in STATE 0.
STEP (R136, 01 R42) adds 1 to STEPCNT.COUNT, which stops at its largest value; of a hart bound to no partition that is the model's
own set of registers, under key 16 (log 17). -/
def Obligations.LoopsAndIssueControl : Prop :=
  (∀ (s : State) (c : Ctl) (d : XReg) (v : Imm), s.Admits c { mods := 0x20 } →
      let h := s.hart s.cur
      ∃ n : W64,
        (n.toNat : Int) = (if c.mod.getLsbD 5 then max 0 ((h.rx d).toNat - (h.vl.toNat : Int))
          else ((h.rx d).toNat - (1 : Int)) % 2 ^ 64)
        ∧ Transfers (.loop c d v) s c (Head.flags { mods := 0x20 } c)
            (if n = 0 then h.pc + 12 else h.pc + v.signExtend 64 * 4) (h.wx d n))
  ∧
  (∀ (s : State) (c : Ctl) (d : XReg), s.Admits c {} →
      let h := s.hart s.cur
      let w := Head.flags {} c
      (∀ f : Fmt, f ≠ .raw → 0 < fmtWidth f ∧ ∀ request : Nat,
        ∀ i : Instr, ((∃ a, i = .setvl c d a f ∧ request = (h.rx a).toNat)
            ∨ ∃ n : BitVec 16, i = .setvli c d n f ∧ request = n.toNat) →
          ∃ vl : BitVec 12, vl.toNat = min request (8192 / fmtWidth f)
            ∧ Completes i s c w { h.wx d (vl.setWidth 64) with vl := vl, efmt := fmtCode f })
      ∧ (∀ b : XU 2, ∃ r : BitVec 2,
          let request := max 1 (match b with | .x a => (h.rx a).toNat | .i v => 2 ^ v.toNat)
          2 ^ r.toNat ≤ request ∧ (r = 3 ∨ request < 2 ^ (r.toNat + 1))
            ∧ Completes (.setrc c d b) s c w { h.wx d (BitVec.ofNat 64 (2 ^ r.toNat)) with rcc := r }))
  ∧
  (∀ (s : State) (c : Ctl), s.Admits c {} →
      let h := s.hart s.cur
      let w := Head.flags {} c
      Completes (.nop c) s c w h
        ∧ (∃ t, exec (.yield c) s = .next t ∧ (t.hart s.cur).yielded = true
            ∧ Retires s (t.modHart s.cur fun a => { a with yielded := c.yld }) s.cur c w (h.pc + 12) h)
        ∧ (∀ n : BitVec 16, ∃ t, exec (.pause c n) s = .next t
            ∧ (t.hart s.cur).pause = (if n = 0 then none else some (s.cycle (s.cur / 4) + n.toNat))
            ∧ Retires s (t.modHart s.cur fun a => { a with pause := h.pause }) s.cur c w (h.pc + 12) h)
        ∧ (∃ s1 t, exec (.step c) s = .next t ∧ Retires s1 t s.cur c w (h.pc + 12) h
            ∧ s1 = s.setPart h.partKey { s.part h.partKey with
                count := BitVec.ofNat 32 (min (2 ^ 32 - 1) ((s.part h.partKey).count.toNat + 1)) }))

/-- 04 R129, 16 R360, 03 R92, R95: TRAP and BRK take SYS and BRK with their number at their own address; a word that decoding rejects
takes ILL with the step and field, at step 8 only once the steps before it let the instruction perform (log 38), and a fetch takes ALIGN at a target that is not 4-aligned and OVL where the word does not end below
XBND. 16 R357: where the hart has a handler and can report, a trap enters it: what is saved, what the status becomes, and where the PC
goes, for every cause; that the TRAPVEC in effect is tested and entered, not the one last written, is the model's reading (log 38). 16
R357, R368: with UNREAD = 1, at depth 7, or with TRAPVEC = 0 outside a gate call, the last-resort handler holds
the hart; that its report stands at once is the model's choice (log 23). 04 R142: with TRAPVEC = 0 inside a gate call, the unwind
begins. -/
def Obligations.TakingTraps : Prop :=
  (∀ s : State,
      let pc := (s.hart s.cur).pc
      let taken := fun (cause : BitVec 8) (addr info : W64) => s.takeTrap s.cur pc (Trap.mk' cause addr info)
      (∀ (c : Ctl) (n : Imm), s.Admits c {} →
        exec (.trap c n) s = .next (taken 0x11 0 (n.setWidth 64)) ∧ exec (.brk c n) s = .next (taken 0x10 0 (n.setWidth 64)))
      ∧ (∀ at_ : IllAt,
          (∀ l, at_.late = some l → s.Admits l.ctl { vs := l.vs, barred := l.scale, mods := l.mods, aV := l.aV, elem := true }) →
          exec (.illegalWord at_) s = .next (taken 0x01 0 (at_.field.setWidth 64 * 16 + at_.step.setWidth 64)))
      ∧ (pc.toNat % 4 ≠ 0 → exec .instructionFetchTrap s = .next (taken 0x02 pc 4))
      ∧ (pc.toNat % 4 = 0 → exec .instructionFetchTrap s = .next (taken 0x06 pc 0)))
  ∧
  (∀ (s : State) (h : Nat),
      let a := s.hart h
      let bad := a.pc.toNat % 4 ≠ 0 ∨ a.xbndF.toNat < a.pc.toNat + 12
      (bad → s.fetchInstr h = .instructionFetchTrap)
        ∧ (¬bad → ∀ why, decode (bytesWord (s.fetchBytes h)) = .error why → s.fetchInstr h = .illegalWord why)
        ∧ (¬bad → ∀ i, decode (bytesWord (s.fetchBytes h)) = .ok i → s.fetchInstr h = i))
  ∧
  (∀ (s : State) (h : Nat) (pc : W64) (tr : Trap),
      let a := s.hart h
      (s.CanTrap h → Enters s (s.takeTrap h pc tr) h pc tr)
        ∧ (a.unread = true ∨ a.td = 7 ∨ (a.trapvecF = 0 ∧ a.gdepth = 0) →
            RomHeld s (s.takeTrap h pc tr) h tr.cause tr.addr pc false)
        ∧ (a.unread = false → a.td ≠ 7 → a.trapvecF = 0 → a.gdepth ≠ 0 → Unwinds s (s.takeTrap h pc tr) h tr.cause))

/-- 04 R130, 16 R358, 01 R30: TRET goes to TRAPPC, or past it under .next, drops one level of trap depth, restores the mode of the
interrupted program from the outermost level, clears UNREAD, and puts the written TRAPVEC and XBND in effect; the fetch that follows
sees the stores before it. The journal entries that this handler was told of may be reported again (07 R221), and of what stopped
instructions have still to do, what belongs to outer levels or to the instruction returned to stays: the model's own record of 16 R364
(log 6). Without SVC it traps DOM
of kind 6. -/
def Obligations.TrapReturn : Prop :=
  ∀ (s : State) (c : Ctl),
    let h := s.hart s.cur
    let pc := if c.mod.getLsbD 5 then h.trappc + 12 else h.trappc
    (h.svc = true → s.Admits c { mods := 0x20, unguarded := true } →
      ∃ t, exec (.tret c) s = .next t
        ∧ Retires s t s.cur c (Head.flags { mods := 0x20, unguarded := true } c) pc
            { h with
              td := h.td - (if h.td = 0 then 0 else 1)
              svc := if h.td = 1 then h.rmrSvc else true
              kahn := if h.td = 0 then h.kahn else if h.td = 1 then h.rmrKahn else false
              unread := false, trapvecF := h.trapvec, xbndF := h.xbnd
              journal := (t.hart s.cur).journal, resume := (t.hart s.cur).resume, syncAt := s.stlog.length }
        ∧ (∀ i, (t.hart s.cur).entry i = (h.entry i).map fun e => if e.rep = some h.depth then { e with rep := none } else e)
        ∧ (t.hart s.cur).resume = h.resume.filter fun r =>
            decide (r.depth < h.depth - (if h.td = 0 then 0 else 1))
              || (decide (r.depth = h.depth - (if h.td = 0 then 0 else 1)) && decide (r.pc = pc)))
    ∧ (h.svc = false → exec (.tret c) s = .next (s.takeTrap s.cur h.pc (Trap.mk' 0x0A 0 0x6000)))

/-- 04 R131 to R133: CRD writes the register's value to x[D]; a CRD that has then read both TRAPCAUSE and TRAPADDR clears UNREAD (16
R359); with KAHN, a CRD of a register that depends on timing traps ND, and inside a gate call a CRD of the copy shadow set traps DOM of
kind 4 (04 R140). What each control register gives (01 R29, R32 to R44); every other number reads zero. TTNEXT and STEPCNT
of a hart bound to no partition are the model's own set, under key 16 (log 17). -/
def Obligations.ControlRegisterReads : Prop :=
  (∀ (s : State) (c : Ctl) (d : XReg) (r : CReg),
      let h := s.hart s.cur
      let seen := h.readCause || decide (r = 2)
      let seenAddr := h.readAddr || decide (r = 3)
      let timed : Prop := r = 0x40 ∨ r = 0x41 ∨ r = 0x49 ∨ r = 0x50 ∨ r = 0x51
      let copy : Prop := 0x60 ≤ r.toNat ∧ r.toNat ≤ 0x65
      (s.Admits c {} → (timed → h.kahn = false) → (copy → h.gdepth = 0) →
        ∃ t, exec (.crd c d r) s = .next t
          ∧ Retires s t s.cur c (Head.flags {} c) (h.pc + 12)
              ({ h with readCause := seen, readAddr := seenAddr, unread := h.unread && !(seen && seenAddr) }.wx d
                (s.readCreg s.cur r.toNat)))
      ∧ (h.kahn = true → timed → s.gateBars s.cur c {} = false →
          exec (.crd c d r) s = .next (s.takeTrap s.cur h.pc (Trap.mk' 0x0C 0 0)))
      ∧ (h.gdepth ≠ 0 → copy → exec (.crd c d r) s = .next (s.takeTrap s.cur h.pc (Trap.mk' 0x0A 0 0x4000))))
  ∧
  (∀ (s : State) (h : Nat),
      let a := s.hart h
      let n := fun (r : Nat) => (s.readCreg h r).toNat
      let blocked := fun (st : Nat) => if a.state = st then s.cycle (h / 4) - a.blkSince else 0
      n 0x00 = (if a.svc then 1 else 0) + (if a.kahn then 2 else 0) + 2 ^ 8 * a.state + 2 ^ 12 * a.port.toNat
        ∧ s.readCreg h 0x01 = a.trappc ∧ s.readCreg h 0x02 = a.trapcause ∧ s.readCreg h 0x03 = a.trapaddr
        ∧ s.readCreg h 0x04 = a.trapinfo ∧ n 0x05 = a.trapvec.toNat ∧ n 0x06 = a.xbnd.toNat
        ∧ n 0x10 = a.fflags.toNat ∧ n 0x11 = a.fctl.toNat ∧ n 0x12 = a.wflag.toNat
        ∧ n 0x18 = a.vl.toNat + 2 ^ 12 * a.rcc.toNat + 2 ^ 16 * a.efmt.toNat
        ∧ n 0x19 = a.tm.toNat ∧ n 0x1A = a.tn.toNat ∧ n 0x1B = a.tk.toNat
        ∧ n 0x20 = a.asid.toNat ∧ n 0x21 = a.gtbase.toNat + 2 ^ 21 * a.gtnent.toNat ∧ n 0x22 = a.gdepth.toNat
        ∧ (∀ k < 8, s.readCreg h (0x28 + k) = a.guardReg k)
        ∧ n 0x30 = (match oldest a.ents with | some e => e.1 | none => 0) % 2 ^ 64
        ∧ n 0x31 = (a.ents.length + 2 ^ 8 * countScope h 0 a.ents + 2 ^ 16 * countScope h 1 a.ents
            + 2 ^ 24 * countScope h 2 a.ents) % 2 ^ 64
        ∧ n 0x40 = s.cycle (h / 4) % 2 ^ 64 ∧ s.readCreg h 0x41 = s.time ∧ s.readCreg h 0x48 = (s.part a.partKey).ttnext
        ∧ n 0x49 = (a.budget + 2 ^ 16 * a.spent) % 2 ^ 64
        ∧ n 0x50 = (a.blkrd.toNat + blocked 1) % 2 ^ 64 ∧ n 0x51 = (a.blkwr.toNat + blocked 2) % 2 ^ 64
        ∧ s.readCreg h 0x60 = a.copy.src ∧ s.readCreg h 0x61 = a.copy.dst ∧ s.readCreg h 0x62 = a.copy.len
        ∧ s.readCreg h 0x63 = a.copy.stride ∧ s.readCreg h 0x64 = a.copy.shape ∧ s.readCreg h 0x65 = a.copy.bar
        ∧ n 0x70 = s.keyLimit.toNat + (if s.keyTest then 2 ^ 62 else 0) + (if s.keyLock then 2 ^ 63 else 0)
        ∧ n 0x78 = (s.part a.partKey).count.toNat + 2 ^ 32 * (s.part a.partKey).thresh.toNat
        ∧ (∀ r, r ∉ [0x00, 0x01, 0x02, 0x03, 0x04, 0x05, 0x06, 0x10, 0x11, 0x12, 0x18, 0x19, 0x1A, 0x1B, 0x20, 0x21, 0x22, 0x28, 0x29,
              0x2A, 0x2B, 0x2C, 0x2D, 0x2E, 0x2F, 0x30, 0x31, 0x40, 0x41, 0x48, 0x49, 0x50, 0x51, 0x60, 0x61, 0x62, 0x63, 0x64, 0x65,
              0x70, 0x78] → s.readCreg h r = 0))

/-- 04 R131, R132: CWR, CSET and CCLR write b, old | b and old & ~b; CWR and CCLR of WFLAG clear the bits of b and CSET of it does
nothing; a write of an S register without SVC traps DOM of kind 2 with the register's number, and inside a gate call a write of the copy
shadow set traps DOM of kind 4 (R140). 01 R29 to R44, 04 R132: after a write, a register reads back the bits that are RW, and every
other register, and everything that is no control register, is as before; HSTAT takes SVC and KAHN alone, HBUDGET takes BUDGET up to
1,024, KEYLIMIT takes a write that R41 accepts, whole, and a read-only register and a reserved number take nothing. That TRAPVEC
and XBND keep bits [1:0] as written is the model's choice (log 40), and so is the set of TTNEXT and STEPCNT, under key 16, of a hart bound to no
partition (log 17). -/
def Obligations.ControlRegisterWrites : Prop :=
  (∀ (s : State) (c : Ctl) (r : CReg) (b : XI),
      let h := s.hart s.cur
      let v := h.xi b
      let old := s.readCreg s.cur r.toNat
      let copy : Prop := 0x60 ≤ r.toNat ∧ r.toNat ≤ 0x65
      let done := fun (i : Instr) (u : State) =>
        ∃ t, exec i s = .next t ∧ Retires u t s.cur c (Head.flags {} c) (h.pc + 12) (u.hart s.cur)
      let all := fun (f : Instr → Prop) => f (.cwr c r b) ∧ f (.cset c r b) ∧ f (.cclr c r b)
      (s.Admits c {} → (copy → h.gdepth = 0) → (cregS r.toNat = true → h.svc = true) → r ≠ 0x12 →
        done (.cwr c r b) (s.writeCreg s.cur r.toNat v) ∧ done (.cset c r b) (s.writeCreg s.cur r.toNat (old ||| v))
          ∧ done (.cclr c r b) (s.writeCreg s.cur r.toNat (old &&& ~~~v)))
      ∧ (s.Admits c {} →
        let clear := s.setHart s.cur { h with wflag := h.wflag &&& ~~~(v.setWidth 13) }
        done (.cwr c 0x12 b) clear ∧ done (.cset c 0x12 b) s ∧ done (.cclr c 0x12 b) clear)
      ∧ (cregS r.toNat = true → h.svc = false → s.gateBars s.cur c {} = false →
        all fun i => exec i s = .next (s.takeTrap s.cur h.pc (Trap.mk' 0x0A 0 (0x2000 + r.setWidth 64))))
      ∧ (h.gdepth ≠ 0 → copy → all fun i => exec i s = .next (s.takeTrap s.cur h.pc (Trap.mk' 0x0A 0 0x4000))))
  ∧
  (∀ (s : State) (h : Nat) (v : W64),
      let back := fun r => (s.writeCreg h r v).readCreg h r
      let test := v.getLsbD 62
      let kept := s.keyLock = true ∨ (v.extractLsb' 0 48).toNat < (if test then 2 ^ 16 + 8 else 2 ^ 17)
      back 0x01 = v ∧ back 0x02 = v &&& 0x3FF ∧ back 0x03 = v ∧ back 0x04 = v ∧ back 0x05 = v &&& 0x1FFFFF
        ∧ back 0x06 = v &&& 0x1FFFFF ∧ back 0x10 = v &&& 0x1F ∧ back 0x11 = v &&& 3 ∧ back 0x20 = v &&& 0xFFFF
        ∧ back 0x21 = v &&& 0x1FFFFFC0 ∧ (∀ n < 8, back (0x28 + n) = v &&& 0xF7FFFFFFFFDFFFFF)
        ∧ back 0x48 = v ∧ (back 0x49).toNat = (min 1024 (v.toNat % 2048) + 2 ^ 16 * (s.hart h).spent) % 2 ^ 64
        ∧ back 0x60 = v ∧ back 0x61 = v ∧ back 0x62 = v &&& 0xFFFFFFFF ∧ back 0x63 = v
        ∧ back 0x64 = v &&& 0x1FFFF ∧ back 0x65 = v ∧ back 0x78 = v
        ∧ (kept → s.writeCreg h 0x70 v = s) ∧ (¬kept → back 0x70 = v &&& 0xC000FFFFFFFFFFFF)
        ∧ ((s.writeCreg h 0x00 v).hart h) = { s.hart h with svc := v.getLsbD 0, kahn := v.getLsbD 1 }
        ∧ (∀ r, r ∉ [0x00, 0x01, 0x02, 0x03, 0x04, 0x05, 0x06, 0x10, 0x11, 0x12, 0x20, 0x21, 0x28, 0x29, 0x2A, 0x2B, 0x2C, 0x2D, 0x2E,
              0x2F, 0x48, 0x49, 0x60, 0x61, 0x62, 0x63, 0x64, 0x65, 0x70, 0x78] → s.writeCreg h r v = s))
  ∧
  (∀ (s : State) (h r : Nat) (v : W64),
      let t := s.writeCreg h r v
      let a := s.hart h
      (∀ q, q ≠ r → t.readCreg h q = s.readCreg h q) ∧ (∀ j, j ≠ h → t.hart j = s.hart j)
        ∧ (t.hart h).trapvecF = a.trapvecF ∧ (t.hart h).xbndF = a.xbndF
        ∧ { t.hart h with
            svc := a.svc, kahn := a.kahn, trappc := a.trappc, trapcause := a.trapcause, trapaddr := a.trapaddr, trapinfo := a.trapinfo
            trapvec := a.trapvec, xbnd := a.xbnd, fflags := a.fflags, fctl := a.fctl, asid := a.asid, gtbase := a.gtbase
            gtnent := a.gtnent, stguard := a.stguard, budget := a.budget, copy := a.copy } = a
        ∧ (∀ p, { t.part p with ttnext := (s.part p).ttnext, count := (s.part p).count, thresh := (s.part p).thresh } = s.part p)
        ∧ (∀ x, t.byte x = s.byte x)
        ∧ { t.withUnits s with keyLimit := s.keyLimit, keyTest := s.keyTest, keyLock := s.keyLock } = s)

/-- 04 R134, 01 R30: once the hart's stores to its own tile are performed, ISYNC retires, and fetch sees every write before it, under
TRAPVEC and XBND as written; until then it waits, in STATE 0 (log 13). 04 R135: HALT waits with STATE 3 until the journal is empty,
no load is in flight (one stopped at a fault has ended: log 38), no matrix operation is queued and every token counts 0; then it releases the accumulators the hart owns and parks the hart past itself. Inside a gate call it traps DOM of kind 6. 04
R137: TIMEWAIT takes its target from b, or under .rel from TIME plus b, waits with STATE 3 while TIME is below it, and then writes the
TIME it observed to x[D]; in Kahn mode it traps ND. -/
def Obligations.SyncHaltAndTime : Prop :=
  (∀ (s : State) (c : Ctl), s.Admits c { unguarded := true } →
      let h := s.hart s.cur
      (h.drained s.cur .tile = true →
        Completes (.isync c) s c (Head.flags { unguarded := true } c)
          { h with trapvecF := h.trapvec, xbndF := h.xbnd, syncAt := s.stlog.length })
      ∧ (h.drained s.cur .tile = false → ∃ t, exec (.isync c) s = .next t ∧ Waits s t s.cur .running 0))
  ∧
  (∀ (s : State) (c : Ctl),
      let h := s.hart s.cur
      let ready := h.ents = [] ∧ (∀ r ∈ h.v, r.2.flight = none) ∧ (s.tile (s.cur / 4)).queue (s.cur % 4) = []
        ∧ ∀ r ∈ h.w, r.2.count = 0
      (s.Admits c {} → h.gdepth = 0 → ¬ready →
        ∃ t, exec (.halt c) s = .next t ∧ Waits s t s.cur .waiting 0)
      ∧ (s.Admits c {} → h.gdepth = 0 → ready →
        ∃ t, exec (.halt c) s = .next t
          ∧ t.hart s.cur = { h with
              own := .parked, port := 0, pc := h.pc + 12, wflag := h.wflag ||| Head.flags {} c, stalled := false, yielded := c.yld
              blkrd := (t.hart s.cur).blkrd, blkwr := (t.hart s.cur).blkwr, blkSince := (t.hart s.cur).blkSince }
          ∧ (∀ j, j ≠ s.cur → t.hart j = s.hart j) ∧ (∀ x, t.byte x = s.byte x)
          ∧ ∀ m : MReg, (s.owns s.cur m = true →
                (t.accum (s.cur / 4) m.toNat).cells = [] ∧ (t.accum (s.cur / 4) m.toNat).owner ≠ some (s.cur % 4))
              ∧ (s.owns s.cur m = false → t.accum (s.cur / 4) m.toNat = s.accum (s.cur / 4) m.toNat))
      ∧ (s.Admits c {} → h.gdepth ≠ 0 → s.CanTrap s.cur → TrapsWith (.halt c) s 0x0A 0 0x6000))
  ∧
  (∀ (s : State) (c : Ctl) (d : XReg) (b : XI),
      let h := s.hart s.cur
      let target := h.timeTarget.getD (if c.mod.getLsbD 5 then s.time + h.xi b else h.xi b)
      (s.Admits c { mods := 0x20, nd := true } → target.toNat ≤ s.time.toNat →
        Completes (.timewait c d b) s c (Head.flags { mods := 0x20 } c) { h.wx d s.time with timeTarget := none })
      ∧ (s.Admits c { mods := 0x20, nd := true } → s.time.toNat < target.toNat →
        ∃ t, exec (.timewait c d b) s = .next t ∧ (t.hart s.cur).timeTarget = some target
          ∧ Waits s (t.modHart s.cur fun a => { a with timeTarget := h.timeTarget }) s.cur .waiting 0)
      ∧ (s.Admits c { mods := 0x20 } → h.kahn = true → s.CanTrap s.cur → TrapsWith (.timewait c d b) s 0x0C 0 0))

/-- 04 R138, R139; 18 R405 to R411: a GATE whose checks pass calls: the frame keeps the return PC, x registers outside the pass mask,
p1 to p7 and the masked vector rows are cleared, the entry's guard windows and stream bindings are installed, and the callee runs at the
entry's offset, in its domain, without service, one level deeper; what the call does not name stays. Memory changes only in the frame,
which takes every item of 18 R411 at its place and zero elsewhere; a place past the end of the tile store wraps to its start (log 18). 04
R138: the reasons of GATE's checks, in their order; the first check that fails traps DOM of kind 0 with its reason and n. 04 R139: until
the loads into the masked rows have landed and each of them is whole (PI = 64), GATE waits, in STATE 0 (log 13). 18 R412: a poisoned masked
row traps. A poisoned byte of the entry or of the window set traps POISON, after R138's checks (log 19; 19 R430). -/
def Obligations.GateCalls : Prop :=
  (∀ (s : State) (c : Ctl) (n : BitVec 8), s.Admits c { unguarded := true } →
      let h := s.hart s.cur
      let e := s.gateEntry s.cur n.toNat
      let rows := maskRows e.vmask
      let at_ := (h.gframe.base.toNat / 4096 + h.gframe.used.toNat) * 4096
      let place := fun i => storeBase (s.cur / 4) + (at_ + i) % 2 ^ 21
      let window := fun (i : Nat) => BitVec.ofNat 64 (leNat (s.tilePeek (s.cur / 4) (e.gset + 8 * i) 8))
      let badEntry := s.tilePoison (s.cur / 4) (h.gtbase.toNat + 64 * n.toNat) 64
      let badSet := s.tilePoison (s.cur / 4) e.gset 64
      let poison := fun (o : Nat) => exec (.gate c n) s = .next (s.takeTrap s.cur h.pc (Trap.mk' 0x09 (BitVec.ofNat 64 o) 0))
      (badEntry = none → badSet = none → s.gateReason s.cur n.toNat e = none →
        (∀ v ∈ rows, s.vBusy s.cur v = false ∧ (h.rv v).poisoned = false ∧ (h.rv v).pi = 64) →
        ∃ t, exec (.gate c n) s = .next t
          ∧ (let a := t.hart s.cur
             a.pc = e.entry.setWidth 64 ∧ a.gdepth = h.gdepth + 1 ∧ a.asid = e.casid ∧ a.trapvec = e.handler
              ∧ a.trapvecF = e.handler ∧ a.svc = false ∧ a.kahn = false ∧ a.td = 0 ∧ a.unread = false ∧ a.fflags = 0 ∧ a.fctl = 0
              ∧ a.wflag = 0 ∧ a.vl = 0 ∧ a.rcc = 0 ∧ a.efmt = 0x0F ∧ a.gframe.used = h.gframe.used + BitVec.ofNat 10 e.frame
              ∧ (∀ r : XReg, a.rx r = if e.passm.getLsbD r.toNat then h.rx r else 0)
              ∧ (∀ v, a.rv v = if v < 64 ∧ e.vmask.getLsbD (v / 8) = true then .init else h.rv v)
              ∧ (∀ p : PReg, a.rp p = if 1 ≤ p.toNat ∧ p.toNat ≤ 7 then 0 else h.rp p)
              ∧ (∀ i < 8, a.guardReg i = window i &&& 0xF7FFFFFFFFDFFFFF)
              ∧ (∀ i < 4, let b := e.sb.getD i 0
                  (b = 0 → a.slot (i + 1) = .init)
                    ∧ (b ≠ 0 → (a.slot (i + 1)).isOpen = true ∧ (a.slot (i + 1)).closing = false ∧ (a.slot (i + 1)).seq = 0
                        ∧ (a.slot (i + 1)).num = b.setWidth 8 ∧ (a.slot (i + 1)).ptr = b &&& ~~~0xFF))
              ∧ (∀ k, k < 1 ∨ 4 < k → a.slot k = h.slot k)
              ∧ { a with
                  pc := h.pc, gdepth := h.gdepth, asid := h.asid, trapvec := h.trapvec, trapvecF := h.trapvecF, svc := h.svc
                  kahn := h.kahn, td := h.td, unread := h.unread, fflags := h.fflags, fctl := h.fctl, wflag := h.wflag, vl := h.vl
                  rcc := h.rcc, efmt := h.efmt, gframe := h.gframe, x := h.x, v := h.v, p := h.p, stguard := h.stguard
                  slots := h.slots, gcalls := h.gcalls, own := h.own, port := h.port, stalled := h.stalled, yielded := h.yielded
                  blkrd := h.blkrd, blkwr := h.blkwr, blkSince := h.blkSince } = h)
          ∧ (∀ j, j ≠ s.cur → t.hart j = s.hart j)
          ∧ (∃ g, (t.hart s.cur).gcalls = g :: h.gcalls ∧ g.units = e.frame ∧ g.stamp = s.nextStamp ∧ g.casid = e.casid
              ∧ g.tvecF = h.trapvecF)
          ∧ FrameHolds (fun o k => leNat ((List.range k).map fun i => t.byte (place (o + i)))) h (Head.flags { unguarded := true } c)
              n.toNat e
          ∧ (∀ x, (∀ i < e.frame * 4096, x ≠ place i) → t.byte x = s.byte x)
          ∧ { t.withUnits s with mem := s.mem, poison := s.poison, stlog := s.stlog, nextStamp := s.nextStamp } = s)
      ∧ (badEntry = none ∨ h.gtnent.toNat ≤ n.toNat → ∀ r, s.gateReason s.cur n.toNat e = some r →
          exec (.gate c n) s = .next (s.takeTrap s.cur h.pc (Trap.mk' 0x0A 0 (BitVec.ofNat 64 (r * 256 + n.toNat)))))
      ∧ (∀ o, badEntry = some o → n.toNat < h.gtnent.toNat → poison o)
      ∧ (∀ o, badEntry = none → badSet = some o → s.gateReason s.cur n.toNat e = none → poison o)
      ∧ (badEntry = none → badSet = none → s.gateReason s.cur n.toNat e = none →
          ((∃ v ∈ rows, s.vBusy s.cur v = true) → Stalls (.gate c n) s .running 0)
            ∧ ((∀ v ∈ rows, s.vBusy s.cur v = false) → ∀ tr, h.firstTrap rows = some tr →
                exec (.gate c n) s = .next (s.takeTrap s.cur h.pc tr))
            ∧ ((∀ v ∈ rows, s.vBusy s.cur v = false ∧ (h.rv v).poisoned = false) → (∃ v ∈ rows, (h.rv v).pi ≠ 64) →
                Stalls (.gate c n) s .running 0)))
  ∧
  (∀ (s : State) (h n : Nat) (e : GateEntry),
      let a := s.hart h
      let r := s.gateReason h n e
      let fits := a.gframe.used.toNat + e.frame ≤ a.gframe.size.toNat / 4096
      let two := n < a.gtnent.toNat ∧ s.entryValid e = true
      let three := two ∧ a.asid &&& e.fmask = e.fbase &&& e.fmask
      let four := three ∧ a.gdepth.toNat < 4 ∧ a.gdepth.toNat < e.dlim
      (r = some 1 ↔ a.gtnent.toNat ≤ n)
        ∧ (r = some 2 ↔ n < a.gtnent.toNat ∧ s.entryValid e = false)
        ∧ (r = some 3 ↔ two ∧ a.asid &&& e.fmask ≠ e.fbase &&& e.fmask)
        ∧ (r = some 4 ↔ three ∧ ¬(a.gdepth.toNat < 4 ∧ a.gdepth.toNat < e.dlim))
        ∧ (r = some 5 ↔ four ∧ ¬fits)
        ∧ (r = none ↔ four ∧ fits))

/-- 04 R141, 18 R411: GRET waits, in STATE 3, until the callee's stores are acknowledged and every row of the masked groups is whole (PI =
64) with no load or matrix operation upon it; then the caller's domain, mode, registers, stream slots and predicates return from the frame,
x registers of the return mask keep the callee's values, those of the pass mask are cleared, and the caller goes on after its GATE; no
memory changes. The TRAPVEC in effect and what is the callee's the model knows by its own record of the call (log 7); offsets past the end
of the store wrap (log 18). A poisoned byte of the frame traps POISON (log 19; 19 R430), and a misaligned return PC in it traps ALIGN at the
GRET (log 38; 03 R92). Outside a call GRET traps DOM of kind 6. 04 R142, 18 R414, R415: the unwind of a call drops the callee's refused entries and waits for the others and for loads into masked rows; then the
caller's state returns as at GRET with an empty return mask, and the caller takes GFAULT at its GATE, with the gate's index, the callee's
cause, and whether an entry was dropped. A poisoned frame then has the hart held by the last-resort handler (log 19). -/
def Obligations.GateReturns : Prop :=
  (∀ (s : State) (c : Ctl),
    let h := s.hart s.cur
    (∀ g rest, s.Admits c { unguarded := true } → h.gdepth ≠ 0 → h.gcalls = g :: rest →
      let bs := s.frameOf s.cur g
      let bad := s.tilePoison (s.cur / 4) (s.frameAt s.cur - storeBase (s.cur / 4)) (g.units * 4096)
      let landed := ∀ v ∈ maskRows (s.vmask s.cur), s.vBusy s.cur v = false ∧ (h.rv v).pi = 64
      (h.calleeEntries g ≠ [] → Stalls (.gret c) s .waiting 0)
      ∧ (h.calleeEntries g = [] → ¬landed → Stalls (.gret c) s .waiting 0)
      ∧ (h.calleeEntries g = [] → landed → ∀ o, bad = some o →
          exec (.gret c) s = .next (s.takeTrap s.cur h.pc (Trap.mk' 0x09 (BitVec.ofNat 64 o) 0)))
      ∧ (h.calleeEntries g = [] → landed → bad = none → (wordAt bs 0).toNat % 4 ≠ 0 →
          exec (.gret c) s = .next (s.takeTrap s.cur h.pc (Trap.mk' 0x02 (wordAt bs 0) 4)))
      ∧ (h.calleeEntries g = [] → landed → bad = none → (wordAt bs 0).toNat % 4 = 0 →
        ∃ t, exec (.gret c) s = .next t
          ∧ (t.hart s.cur).pc = wordAt bs 0 ∧ (t.hart s.cur).unwind = h.unwind ∧ Restored h (t.hart s.cur) bs g rest true
          ∧ (∀ j, j ≠ s.cur → t.hart j = s.hart j) ∧ (∀ x, t.byte x = s.byte x) ∧ t.withUnits s = s))
    ∧ (h.gdepth = 0 → exec (.gret c) s = .next (s.takeTrap s.cur h.pc (Trap.mk' 0x0A 0 0x6000))))
  ∧
  (∀ (s : State) (n : Nat) (u : Unwind) (g : GCall) (rest : List GCall),
    let h := s.hart n
    let es := h.calleeEntries g
    let t := s.unwindStep n
    let busy := ∃ v ∈ maskRows (s.vmask n), s.vBusy n v = true
    let bs := s.frameOf n g
    let bad := s.tilePoison (n / 4) (s.frameAt n - storeBase (n / 4)) (g.units * 4096)
    let gate := wordAt bs 0 - 12
    h.unwind = some u → h.gcalls = g :: rest →
      ((∃ e ∈ es, e.2.refused = false) → (∀ e ∈ es, h.entry e.1 = some e.2) →
        (t.hart n).unwind = some { u with dropped := u.dropped || es.any fun e => e.2.refused }
          ∧ (∀ i, (t.hart n).entry i = if (∃ e ∈ es, e.1 = i ∧ e.2.refused = true) then none else h.entry i)
          ∧ { t.hart n with unwind := h.unwind, journal := h.journal } = h ∧ (∀ j, j ≠ n → t.hart j = s.hart j)
          ∧ (∀ x, t.byte x = s.byte x))
      ∧ (es = [] → busy → OnHart s t n h)
      ∧ (es = [] → ¬busy → ∀ o, bad = some o →
          t = (s.setHart n { h with unwind := none }).romHold n 0x09 (BitVec.ofNat 64 o) h.pc false)
      ∧ (es = [] → ¬busy → bad = none →
        ∃ a, Restored h a bs g rest false ∧ a.unwind = none ∧ a.pc = gate
          ∧ t = (s.setHart n a).takeTrap n gate (Trap.mk' 0x0B 0
              (BitVec.ofNat 64 (natAt bs 0xA9 1 + 2 ^ 8 * u.cause.toNat + if u.dropped then 2 ^ 16 else 0)))))

/-- 05 R152 to R156, 02 R48, R49, R53 to R57: vector arithmetic, element by element. An Int element is the exact result clamped or
wrapped; a floating-point element is the exact result rounded once, with its flags; that of VEXP2 and VLOG2 is taken to 384
fraction bits (log 11). 05 R154, R155: VMIN and VMAX take one of their
operands; of Int elements the smaller or larger value. VABS and VNEG work on the sign bit of a floating-point code, and on the exact
integer, clamped under .sat. -/
def Obligations.VectorArithmetic : Prop :=
  (∀ (s : State) (c : Ctl) (d a : VReg) (b : VXI),
      let intFp := fun (t : Fmt) => isInt t || isFp t
      let both := fun (fi : Int → Int → Int → Int) (ff : Rnd → FVal → FVal → FVal → Ex) (r : Rnd) (t : Fmt) (x y z : Nat) =>
        if isInt t then
          let v := fun n => codeInt c.u (fmtWidth t) n
          (intCode (fmtWidth t) (fitted c.u c.sat (fmtWidth t) (fi (v x) (v y) (v z))), (0 : BitVec 5))
        else (ff r (fdec t x) (fdec t y) (fdec t z)).round t r c.sat
      let one := fun (ff : FVal → Ex) (r : Rnd) (t : Fmt) (x _ _ : Nat) => (ff (fdec t x)).round t r false
      Elementwise (.vadd c d a b) s c 0x1F d a (some b) false intFp (both (fun x y _ => x + y) fun r x y _ => x.ex.plus r y)
        ∧ Elementwise (.vsub c d a b) s c 0x1F d a (some b) false intFp (both (fun x y _ => x - y) fun r x y _ => x.ex.plus r y.neg)
        ∧ Elementwise (.vmul c d a b) s c 0x1F d a (some b) false intFp (both (fun x y _ => x * y) fun _ x y _ => exMul x y)
        ∧ Elementwise (.vmad c d a b) s c 0x1F d a (some b) true intFp
            (both (fun x y z => x * y + z) fun r x y z => (exMul x y).plus r z)
        ∧ Elementwise (.vmsb c d a b) s c 0x1F d a (some b) true intFp
            (both (fun x y z => x * y - z) fun r x y z => (exMul x y).plus r z.neg)
        ∧ Elementwise (.vnmad c d a b) s c 0x1F d a (some b) true intFp
            (both (fun x y z => z - x * y) fun r x y z => (exMul x y).neg.plus r z)
        ∧ Elementwise (.vdiv c d a b) s c 0x07 d a (some b) false isFp
            (fun r t x y _ => (exDiv (fdec t x) (fdec t y)).round t r false)
        ∧ Elementwise (.vsqrt c d a) s c 0x07 d a none false isFp (one exSqrt)
        ∧ Elementwise (.vrcp c d a) s c 0x07 d a none false isFp (one fun x => exDiv (.fin false 1 0) x)
        ∧ Elementwise (.vrsq c d a) s c 0x07 d a none false isFp (one exRsqrt)
        ∧ Elementwise (.vexp2 c d a) s c 0x07 d a none false isFp (one exExp2)
        ∧ Elementwise (.vlog2 c d a) s c 0x07 d a none false isFp (one exLog2))
  ∧
  (∀ (s : State) (c : Ctl) (d a : VReg) (b : VXI),
      let intFp := fun (t : Fmt) => isInt t || isFp t
      let pick := fun (hi : Bool) (_ : Rnd) (t : Fmt) (x y _ : Nat) =>
        if isInt t then
          (if decide (codeInt c.u (fmtWidth t) x ≤ codeInt c.u (fmtWidth t) y) = !hi then x else y, (0 : BitVec 5))
        else minMaxF t hi x y
      let sign := fun (neg : Bool) (_ : Rnd) (t : Fmt) (x _ _ : Nat) =>
        let w := fmtWidth t
        if isInt t then
          let v := codeInt false w x
          (intCode w (fitted false c.sat w (if neg then -v else (v.natAbs : Int))), (0 : BitVec 5))
        else (if neg then x ^^^ 2 ^ (w - 1) else x % 2 ^ (w - 1), 0)
      Elementwise (.vmin c d a b) s c 0x10 d a (some b) false intFp (pick false)
        ∧ Elementwise (.vmax c d a b) s c 0x10 d a (some b) false intFp (pick true)
        ∧ Elementwise (.vabs c d a) s c 0x08 d a none false intFp (sign false)
        ∧ Elementwise (.vneg c d a) s c 0x08 d a none false intFp (sign true))

/-- 05 R157: the bitwise instructions take any tagged row; the shifts take Int rows and reduce the amount modulo the width. -/
def Obligations.VectorBitwise : Prop :=
  ∀ (s : State) (c : Ctl) (d a : VReg) (b : VXI),
    let h := s.hart s.cur
    let tagged := fun (o : Option VXI) (j : Nat) => decide (tagFmt (h.bitTag a o j) ≠ .raw)
    let int := fun (j : Nat) => isInt (h.rowFmt a.toNat j)
    BitwiseRows (.vand c d a b) s c d a (some b) (tagged (some b)) (fun _ x y => x &&& y)
      ∧ BitwiseRows (.vor c d a b) s c d a (some b) (tagged (some b)) (fun _ x y => x ||| y)
      ∧ BitwiseRows (.vxor c d a b) s c d a (some b) (tagged (some b)) (fun _ x y => x ^^^ y)
      ∧ BitwiseRows (.vnot c d a) s c d a none (tagged none) (fun w x _ => x ^^^ (2 ^ w - 1))
      ∧ BitwiseRows (.vshl c d a b) s c d a (some b) int (fun w x n => (x <<< (n % w)) % 2 ^ w)
      ∧ BitwiseRows (.vshr c d a b) s c d a (some b) int (fun w x n => x >>> (n % w))
      ∧ BitwiseRows (.vsha c d a b) s c d a (some b) int
          (fun w x n => intCode w (codeInt false w x / 2 ^ (n % w)))

/-- 05 R158, R160: VCMP and VCLASS set the active bits of row j's predicate to what the condition, or the class mask, says of the row's
elements. 05 R159: VSEL gives every element below VL that of A where the guard bit is set, and that of B elsewhere. -/
def Obligations.VectorCompareAndSelect : Prop :=
  (∀ (s : State) (c : Ctl) (d : PReg) (a : VReg) (b : VXI),
      let h := s.hart s.cur
      let rc := h.rc
      let fmt := h.rowFmt a.toNat
      let wd := widestOf (h.rowFmts a.toNat)
      let vl := h.vlAt wd
      let va := fun j e => h.elem (a.toNat + j) (fmtWidth (fmt j)) e
      let vb := fun j e => h.opB (fmt j) (fmtWidth (fmt j)) .rne b j e
      let int := fun (k : Cond) (w x y : Nat) =>
        let i := codeInt false w x
        let n := codeInt false w y
        match k with
        | .eq => decide (x = y) | .ne => decide (x ≠ y)
        | .lt => decide (i < n) | .ge => decide (n ≤ i) | .gt => decide (n < i) | .le => decide (i ≤ n)
        | .ltu => decide (x < y) | .geu => decide (y ≤ x) | .gtu => decide (y < x) | .leu => decide (x ≤ y)
      let hd := fun (regs : List VReg) =>
        ({ vs := a :: regs, mults := [d.toNat], ps := [d], aV := true, bV := !regs.isEmpty, elem := true } : Head)
      (∀ k : VCond, s.Admits c (hd b.regs) → s.VReady 64 [] ((a :: b.regs).flatMap fun v => rowsOf v.toNat rc) →
        (∀ j < rc, (isInt (fmt j) || isFp (fmt j)) = true ∧ ∀ v ∈ b.regs, h.rowFmt v.toNat j = fmt j) →
        WritesP (.vcmp c k d a b) s c ((hd b.regs).flags c ||| wfIf 0 (h.vlClamps wd)) d rc
          (h.onceFlags (h.guard c) vl (h.rowFmts a.toNat) .rne b)
          (onActive (h.guard c) vl fun j e =>
            if isInt (fmt j) then
              ((match k with | .base k => int k (fmtWidth (fmt j)) (va j e) (vb j e) | .uo => false), 0)
            else cmpF (fmt j) k (va j e) (vb j e)))
      ∧ (∀ m : BitVec 10, s.Admits c (hd []) → s.VReady 64 [] (rowsOf a.toNat rc) → (∀ j < rc, isFloat (fmt j) = true) →
        WritesP (.vclass c d a m) s c ((hd []).flags c ||| wfIf 0 (h.vlClamps wd)) d rc 0
          (onActive (h.guard c) vl fun j e => (m.getLsbD (classOf (fmt j) (va j e)), 0))))
  ∧
  (∀ (s : State) (c : Ctl) (d a : VReg) (b : VXI),
      let h := s.hart s.cur
      let rc := h.rc
      let fmt := h.rowFmt a.toNat
      let w := fun j => if fmt j = .raw then 8 else fmtWidth (fmt j)
      let wd := widestOf (h.rowFmts a.toNat)
      let tag := fun (v : VReg) j => (h.rv (v.toNat + j)).tag
      let hd : Head := { vs := d :: a :: b.regs, aV := true, bV := !b.regs.isEmpty, elem := true }
      s.Admits c hd → s.VReady d.toNat (rowsOf d.toNat rc) ((a :: b.regs).flatMap fun v => rowsOf v.toNat rc) →
      (∀ j < rc, (b.regs = [] → fmt j ≠ .raw) ∧ ∀ v ∈ b.regs, (tag v j).extractLsb' 5 11 = (tag a j).extractLsb' 5 11) →
        WritesV (.vsel c d a b) s c (hd.flags c ||| wfIf 0 (h.vlClamps wd)) d.toNat rc w (fun j => cleanTag (tag a j)) 0
          fun j e =>
            if e < h.vlAt wd then
              some (if (h.guard c).getLsbD e then h.elem (a.toNat + j) (w j) e else h.opB (fmt j) (w j) .rne b j e, 0)
            else none)

/-- 05 R165, R167: VMOV copies active elements, or whole registers to and from the scale registers; VTAG copies whole registers under a
tag whose SCL names the next scale register in each row. 05 R166, R168: VSPLAT gives each active element the scalar, and VIOTA a count
that starts there. 05 R169: VEXT moves element i to x[D], and VINS the low bits of x[A] into element i of each row; neither does
anything where i is not below VL or not active. -/
def Obligations.VectorMoves : Prop :=
  (∀ (s : State) (c : Ctl) (d a : VReg) (g : GReg) (t : TagOp),
      let h := s.hart s.cur
      let rc := h.rc
      let fmt := h.rowFmt a.toNat
      let w := fun j => if fmt j = .raw then 8 else fmtWidth (fmt j)
      let wd := widestOf (h.rowFmts a.toNat)
      let hv : Head := { vs := [d, a], aV := true, elem := true }
      let fromG : Head := { vs := [d], mults := [g.toNat], barred := true, elem := true }
      let toG : Head := { vs := [a], mults := [g.toNat], barred := true, aV := true, elem := true }
      let block := fun j => if isBlock t.fmt then t.scl + BitVec.ofNat 4 j else 0
      (s.Admits c hv → s.VReady d.toNat (rowsOf d.toNat rc) (rowsOf a.toNat rc) →
        WritesV (.vmovV c d a) s c (hv.flags c ||| wfIf 0 (h.vlClamps wd)) d.toNat rc w
            (fun j => cleanTag (h.rv (a.toNat + j)).tag) 0
            (onActive (h.guard c) (h.vlAt wd) fun j e => (h.elem (a.toNat + j) (w j) e, 0))
          ∧ WritesV (.vtag c d a t) s c (hv.flags c ||| wfIf 10 (isMx t.fmt && decide (t.grp ≠ 0))) d.toNat rc (fun _ => 128)
            (fun j => tagBits { fmt := t.fmt, grp := if isMx t.fmt then 0 else t.grp, scl := block j }) 0
            fun j e => if e < 64 then some (elemAt (h.rv (a.toNat + j)).data 128 e, 0) else none)
      ∧ (s.Admits c fromG → s.VReady d.toNat (rowsOf d.toNat rc) [] →
        WritesV (.vmovVFromG c d g) s c (fromG.flags c) d.toNat rc (fun _ => 128) (fun _ => plainTag .i32) 0
          fun j e => if e < 64 then some (elemAt (h.rg (g.toNat + j)) 128 e, 0) else none)
      ∧ (s.Admits c toG → s.VReady 64 [] (rowsOf a.toNat rc) → (∀ j < rc, s.gReserved s.cur (g.toNat + j) = false) →
        WritesG (.vmovGFromV c g a) s c (toG.flags c) g.toNat rc
          fun j k => some (elemAt (h.rv (a.toNat + j)).data 32 k)))
  ∧
  (∀ (s : State) (c : Ctl) (d : VReg) (a : XI) (t : Fmt),
      let h := s.hart s.cur
      let vl := h.vlAt (fmtWidth t)
      let hd := fun (m : BitVec 6) => ({ vs := [d], mods := m, elem := true } : Head)
      let ready := s.VReady d.toNat (rowsOf d.toNat h.rc) []
      let value : Nat × BitVec 5 :=
        match a with
        | .x r => ((h.rx r).toNat % 2 ^ fmtWidth t, 0)
        | .i v => if isFloat t then roundFin t (h.rnd c) false (decide (v.toInt < 0)) v.toInt.natAbs 0 false
            else (intCode (fmtWidth t) v.toInt, 0)
      (s.Admits c (hd 7) → ready →
        WritesV (.vsplat c d a t) s c ((hd 7).flags c ||| (wfIf 0 (h.vlClamps (fmtWidth t)) ||| wfIf 8 (c.rounds && !isFloat t))) d.toNat h.rc
          (fun _ => fmtWidth t) (fun _ => plainTag t) 0 (onActive (h.guard c) vl fun _ _ => value))
      ∧ (iotaOk t = true → s.Admits c (hd 0) → ready →
        WritesV (.viota c d a t) s c ((hd 0).flags c ||| wfIf 0 (h.vlClamps (fmtWidth t))) d.toNat h.rc
          (fun _ => fmtWidth t) (fun _ => plainTag t) 0
          (onActive (h.guard c) vl fun _ e => (((h.xi a).toNat + e) % 2 ^ fmtWidth t, 0))))
  ∧
  (∀ (s : State) (c : Ctl) (x : XReg) (v : VReg) (b : XI),
      let h := s.hart s.cur
      let i := (h.xi b).toNat
      let fmt := h.rowFmt v.toNat
      let w0 := fmtWidth (fmt 0)
      let wd := widestOf (h.rowFmts v.toNat)
      let he : Head := { vone := [v], aV := true, mods := 0x10, elem := true }
      let hi : Head := { vs := [v], elem := true }
      let we := he.flags c ||| wfIf 0 (h.vlClamps w0) ||| wfIf 1 (decide (h.rc ≠ 1)) ||| wfIf 9 (c.u && isFloat (fmt 0))
      let code := h.elem v.toNat w0 i
      let sext := (isInt (fmt 0) || decide (fmt 0 = .i4)) && !c.u
      (s.Admits c he → h.resumeAt 64 = none → fmt 0 ≠ .raw →
        (i < h.vlAt w0 ∧ (h.guard c).getLsbD i = true → (h.rv v.toNat).pi = 64 → (h.rv v.toNat).poisoned = false →
          ∃ r : W64, (if sext then r.toInt = codeInt false w0 code else r.toNat = code) ∧ WritesXv (.vext c x v b) s c we x r)
        ∧ (¬(i < h.vlAt w0 ∧ (h.guard c).getLsbD i = true) →
          ∃ n, Completes (.vext c x v b) s c we { h with spent := n }))
      ∧ (s.Admits c hi → h.resumeAt 64 = none → (∀ j < h.rc, fmt j ≠ .raw) →
        let wi := hi.flags c ||| wfIf 0 (h.vlClamps wd)
        (i < h.vlAt wd ∧ (h.guard c).getLsbD i = true →
          (∀ j < h.rc, (h.rv (v.toNat + j)).pi = 64 ∧ (h.rv (v.toNat + j)).poisoned = false
            ∧ s.vReserved s.cur (v.toNat + j) = false) →
          ∃ a, Completes (.vins c v x b) s c wi a ∧ { a with v := h.v, spent := h.spent } = h
            ∧ (∀ n, (∀ j < h.rc, n ≠ v.toNat + j) → a.rv n = h.rv n)
            ∧ ∀ j < h.rc, { a.rv (v.toNat + j) with data := (h.rv (v.toNat + j)).data } = h.rv (v.toNat + j)
              ∧ ∀ e, fmtWidth (fmt j) * e + fmtWidth (fmt j) ≤ 8192 →
                a.elem (v.toNat + j) (fmtWidth (fmt j)) e =
                  if e = i then (h.rx x).toNat % 2 ^ fmtWidth (fmt j) else h.elem (v.toNat + j) (fmtWidth (fmt j)) e)
        ∧ (¬(i < h.vlAt wd ∧ (h.guard c).getLsbD i = true) →
          ∃ n, Completes (.vins c v x b) s c wi { h with spent := n })))

/-- 05 R161 to R163; 02 R58 to R61, R64 to R68: conversion between formats, quantization into a block format under the scales of g, and
dequantization under the scales that the source row's own tag names. 05 R164, 02 R65: VSMAX gives each block of 32 elements that has an
active one the scale of its active elements, and writes no other entry. That a conversion in place reads a row before it writes any of it,
and the sign of a zero that VDQNT gives under a negative scale, are the model's readings (log 38). -/
def Obligations.VectorConversion : Prop :=
  (∀ (s : State) (c : Ctl) (d a : VReg),
      let h := s.hart s.cur
      let rc := h.rc
      let r := h.rnd c
      let fmt := h.rowFmt a.toNat
      let fmts := h.rowFmts a.toNat
      let hd := fun (m : BitVec 6) (n : List Nat) => ({ vs := [d, a], mults := n, aV := true, mods := m, elem := true } : Head)
      let wide := fun (t : Fmt) => max (widestOf fmts) (if t = .raw then 8 else fmtWidth t)
      let va := fun j e => h.elem (a.toNat + j) (fmtWidth (fmt j)) e
      let ready := s.VReady d.toNat (rowsOf d.toNat rc) (rowsOf a.toNat rc)
      let writes := fun (i : Instr) (w : BitVec 13) (t : Fmt) (tag : Nat → BitVec 16) (f : Nat → Nat → Nat × BitVec 5) =>
        WritesV i s c (w ||| wfIf 0 (h.vlClamps (wide t))) d.toNat rc (fun _ => fmtWidth t) tag 0
          (onActive (h.guard c) (h.vlAt (wide t)) f)
      (∀ t : Fmt, s.Admits c (hd 0x3F []) → ready → (∀ j < rc, cvtOk (fmt j) = true) →
        writes (.vcvt c d a t) ((hd 0x3F []).flags c ||| (wfIf 8 (c.rounds && !isFloat t && fmts.any fun x => !isFloat x)
            ||| wfIf 9 ((c.u && fmts.any isFloat) || (c.x5 && isFloat t)))) t (fun _ => plainTag t)
          fun j e =>
            let x := codeInt c.u (fmtWidth (fmt j)) (va j e)
            if isFloat (fmt j) then
              if isFloat t then cvtVal (fdec (fmt j) (va j e)) t r c.sat
              else cvtToInt (fdec (fmt j) (va j e)) (fmtWidth t) c.x5 r
            else if isFloat t then roundFin t r c.sat (decide (x < 0)) x.natAbs 0 false
            else (intCode (fmtWidth t) (fitted c.x5 c.sat (fmtWidth t) x), 0))
      ∧ (∀ t : TagOp, isBlock t.fmt = true → s.Admits c (hd 7 [t.scl.toNat]) → ready → (∀ j < rc, isFp (fmt j) = true) →
        let grp := if isMx t.fmt then 0 else t.grp
        let scale := fun j e => elemAt (h.rg (t.scl.toNat + j)) 32 (e / (32 * 2 ^ grp.toNat))
        writes (.vqnt c d a t) ((hd 7 [t.scl.toNat]).flags c ||| wfIf 10 (isMx t.fmt && decide (t.grp ≠ 0))) t.fmt
          (fun j => tagBits { fmt := t.fmt, grp := grp, scl := t.scl + BitVec.ofNat 4 j })
          fun j e => if isMx t.fmt then quantMx t.fmt (fmt j) r (scale j e) (va j e)
            else quantQ t.fmt (fmt j) r (scale j e) (va j e))
      ∧ (∀ t : Fmt, s.Admits c (hd 7 []) → ready → (∀ j < rc, isBlock (fmt j) = true) →
        writes (.vdqnt c d a t) ((hd 7 []).flags c) t (fun _ => plainTag t) fun j e =>
          let row := h.rv (a.toNat + j)
          (blockEx (fmt j) (elemAt (h.rg row.scl) 32 (e / (32 * 2 ^ (row.tag.extractLsb' 9 2).toNat))) (va j e)).round t r false))
  ∧
  (∀ (s : State) (c : Ctl) (g : GReg) (a : VReg) (t : TagOp),
      let h := s.hart s.cur
      let rc := h.rc
      let fmt := h.rowFmt a.toNat
      let wd := widestOf (h.rowFmts a.toNat)
      let hd : Head := { vs := [a], mults := [g.toNat], barred := true, aV := true, elem := true }
      let block := fun k => (actives (h.guard c) (h.vlAt wd)).filter fun e => decide (e / 32 = k)
      s.Admits c hd → s.VReady 64 [] (rowsOf a.toNat rc) → (∀ j < rc, isFp (fmt j) = true) →
      (∀ j < rc, s.gReserved s.cur (g.toNat + j) = false) →
        WritesG (.vsmax c g a t) s c (hd.flags c ||| (wfIf 0 (h.vlClamps wd) ||| wfIf 10 (isMx t.fmt && decide (t.grp ≠ 0)))) g.toNat rc
          fun j k => if block k = [] then none
            else some (mxScale t.fmt (fmt j) ((block k).map fun e => h.elem (a.toNat + j) (fmtWidth (fmt j)) e)))

/-- 05 R170, R171: elements moved within a row. VCOMP packs the active elements of A to the front, VEXPD spreads them to the active
places; VSHFL works in groups of 2^L and zeroes, or under .fk keeps, an element without an active source. 05 R170: VPERM takes element
B[e] of A, or 0 where that is not below VL. -/
def Obligations.CrossLaneMoves : Prop :=
  (∀ (s : State) (c : Ctl) (d a : VReg) (b : XI),
      let h := s.hart s.cur
      let k := h.xi b
      let m : Int := (k.toNat % 2048 : Nat)
      let n : Int := 2 ^ min 11 (k.toNat / 4096 % 16)
      CrossLane (.vslide c d a b) s c 0 d a (fun g vl va e =>
          if e < vl ∧ g.getLsbD e = true then
            some (if 0 ≤ (e : Int) + k.toInt ∧ (e : Int) + k.toInt < vl then va ((e : Int) + k.toInt).toNat else 0)
          else none)
        ∧ CrossLane (.vbcast c d a b) s c 0 d a (fun g vl va e =>
          if e < vl ∧ g.getLsbD e = true then some (if k.toNat < vl then va k.toNat else 0) else none)
        ∧ CrossLane (.vcomp c d a) s c 0 d a (fun g vl va e => (actives g vl)[e]?.map va)
        ∧ CrossLane (.vexpd c d a) s c 0 d a (fun g vl va e =>
          if e < vl ∧ g.getLsbD e = true then some (va (actives g e).length) else none)
        ∧ CrossLane (.vshfl c d a b) s c 0x38 d a (fun g vl va e =>
          let src : Int :=
            match (c.mod.extractLsb' 4 2).toNat with
            | 0 => (e ^^^ m.toNat : Nat)
            | 1 => (e : Int) - m
            | 2 => (e : Int) + m
            | _ => (e : Int) - (e : Int) % n + m
          if e < vl then
            if g.getLsbD e = true ∧ 0 ≤ src ∧ src / n = (e : Int) / n ∧ src < vl ∧ g.getLsbD src.toNat = true then some (va src.toNat)
            else if c.sat then none else some 0
          else none))
  ∧
  (∀ (s : State) (c : Ctl) (d a b : VReg),
      let h := s.hart s.cur
      let rc := h.rc
      let fa := h.rowFmt a.toNat
      let fb := h.rowFmt b.toNat
      let wd := max (widestOf (h.rowFmts a.toNat)) (widestOf (h.rowFmts b.toNat))
      let hd : Head := { vs := [d, a, b], aV := true, bV := true, elem := true }
      s.Admits c hd → s.VReady d.toNat (rowsOf d.toNat rc) (rowsOf a.toNat rc ++ rowsOf b.toNat rc) →
      (∀ j < rc, fa j ≠ .raw ∧ iotaOk (fb j) = true) →
        WritesV (.vperm c d a b) s c (hd.flags c ||| wfIf 0 (h.vlClamps wd)) d.toNat rc (fun j => fmtWidth (fa j))
          (fun j => cleanTag (h.rv (a.toNat + j)).tag) 0
          (onActive (h.guard c) (h.vlAt wd) fun j e =>
            let i := h.elem (b.toNat + j) (fmtWidth (fb j)) e
            (if i < h.vlAt wd then h.elem (a.toNat + j) (fmtWidth (fa j)) i else 0, 0)))

/-- 05 R172 to R174: VRED writes element 0 of each row with the pairwise tree over the active elements, or the empty result; VSCAN gives
each active element the combination of those up to it, in ascending order. An Int .sum is exact. 05 R175: VDOT adds to each active
32-bit element the products of its P source pairs: exactly for integers, and summed exactly and rounded once for floating point. 05
R176, 02 R79, R80: VTOPK and VSORT write the local positions of the active elements in rank order, at most k of them for VTOPK, and
0xFFFFFFFF to the elements that are left below VL. Equal keys rank by global index, then by position. -/
def Obligations.ReductionsAndRanking : Prop :=
  (∀ (s : State) (c : Ctl) (k : RedOp) (d a : VReg),
      let h := s.hart s.cur
      let rc := h.rc
      let fmts := h.rowFmts a.toNat
      let wd := widestOf fmts
      let vl := h.vlAt wd
      let act := actives (h.guard c)
      let logic := decide (k = .and ∨ k = .or ∨ k = .xor)
      let mods : BitVec 6 := if k = .sum then 0x1F else if logic then 0x07 else 0x17
      let hd : Head := { vs := [d, a], aV := true, mods := mods, elem := true }
      let w := hd.flags c ||| (wfIf 0 (h.vlClamps wd) ||| (wfIf 6 (decide (k = .sum) && c.sat && fmts.any isFloat)
        ||| wfIf 8 (c.rounds && fmts.any fun t => !isFloat t) ||| wfIf 9 (!logic && c.u && fmts.any isFloat)))
      let total := fun (t : Fmt) (va : Nat → Nat) (es : List Nat) =>
        (intCode (fmtWidth t) (fitted c.u c.sat (fmtWidth t) ((es.map fun e => codeInt c.u (fmtWidth t) (va e)).sum)), (0 : BitVec 5))
      let comb := fun (t : Fmt) => redCombine c (h.rnd c) k t
      let tree := fun (t : Fmt) (va : Nat → Nat) =>
        match redTree (comb t) (fun e => if e < vl ∧ (h.guard c).getLsbD e = true then some (va e) else none) (log2Up vl) 0 with
        | (some v, f) => (v, f)
        | (none, f) => (redEmpty c k t, f)
      let upTo := fun (t : Fmt) (va : Nat → Nat) (e : Nat) =>
        (act (e + 1)).foldl (fun (m : Option Nat × BitVec 5) i =>
          match m.1 with
          | none => (some (va i), m.2)
          | some y => (some (comb t y (va i)).1, m.2 ||| (comb t y (va i)).2)) (none, 0)
      let va := fun j n => h.elem (a.toNat + j) (fmtWidth (h.rowFmt a.toNat j)) n
      let writes := fun (i : Instr) (val : Fmt → (Nat → Nat) → Nat → Option (Nat × BitVec 5)) =>
        WritesV i s c w d.toNat rc (fun j => fmtWidth (h.rowFmt a.toNat j)) (fun j => cleanTag (h.rv (a.toNat + j)).tag) 0
          fun j e => val (h.rowFmt a.toNat j) (va j) e
      s.Admits c hd → s.VReady d.toNat (rowsOf d.toNat rc) (rowsOf a.toNat rc) →
      (∀ j < rc, (if logic then iotaOk (h.rowFmt a.toNat j) else isInt (h.rowFmt a.toNat j) || isFp (h.rowFmt a.toNat j)) = true) →
        writes (.vred c k d a) (fun t va e =>
            if e = 0 then some (if isInt t ∧ k = .sum then total t va (act vl) else tree t va) else none)
          ∧ writes (.vscan c k d a) (fun t va e =>
            if e < vl ∧ (h.guard c).getLsbD e = true then
              if isInt t ∧ k = .sum then some (total t va (act (e + 1)))
              else (upTo t va e).1.map fun v => (v, (upTo t va e).2)
            else none))
  ∧
  (∀ (s : State) (c : Ctl) (d a b : VReg),
      let h := s.hart s.cur
      let rc := h.rc
      let fa := h.rowFmt a.toNat
      let fb := h.rowFmt b.toNat
      let r := h.rnd c
      let result := fun t => if isFloat t then Fmt.f32 else Fmt.i32
      let hd : Head := { vs := [d, a, b], aV := true, bV := true, mods := 0x1F, elem := true }
      s.Admits c hd → s.VReady d.toNat (rowsOf d.toNat rc) (rowsOf a.toNat rc ++ rowsOf b.toNat rc ++ rowsOf d.toNat rc) →
      (∀ j < rc, (fa j, fb j) ∈ [(Fmt.i4, Fmt.i4), (.i8, .i8), (.i16, .i16), (.f16, .f16), (.bf16, .bf16), (.e4m3, .e4m3),
          (.e4m3, .e5m2), (.e5m2, .e4m3), (.e5m2, .e5m2)] ∧ h.rowFmt d.toNat j = result (fa j)) →
        WritesV (.vdot c d a b) s c (hd.flags c ||| (wfIf 0 (h.vlClamps 32) ||| (wfIf 8 (c.rounds && (h.rowFmts a.toNat).any fun t => !isFloat t)
            ||| wfIf 9 (c.u && (h.rowFmts a.toNat).any isFloat)))) d.toNat rc (fun _ => 32) (fun j => plainTag (result (fa j))) 0
          (onActive (h.guard c) (h.vlAt 32) fun j e =>
            let w := fmtWidth (fa j)
            let pairs := (List.range (32 / w)).map fun i =>
              (h.elem (a.toNat + j) w (e * (32 / w) + i), h.elem (b.toNat + j) (fmtWidth (fb j)) (e * (32 / w) + i))
            let old := h.elem (d.toNat + j) 32 e
            if isFloat (fa j) then
              (sumEx r ((pairs.map fun p => exMul (fdec (fa j) p.1) (fdec (fb j) p.2)) ++ [(fdec .f32 old).ex])).round .f32 r c.sat
            else
              (intCode 32 (fitted c.u c.sat 32 (codeInt c.u 32 old
                + (pairs.map fun p => codeInt c.u w p.1 * codeInt c.u w p.2).sum)), 0)))
  ∧
  (∀ (s : State) (c : Ctl) (d a : VReg),
      let h := s.hart s.cur
      let rc := h.rc
      let fmt := h.rowFmt a.toNat
      let fmts := h.rowFmts a.toNat
      let wd := max 32 (widestOf fmts)
      let vl := h.vlAt wd
      let idx := c.mod.getLsbD 3
      let hd : Head := { vs := [d, a], aV := true, mods := 0x38, elem := true }
      let key := fun j e =>
        let row := h.rv (a.toNat + j)
        rankKey c.u (fmt j) (elemAt (h.rg row.scl) 32 (e / (32 * 2 ^ (row.tag.extractLsb' 9 2).toNat)))
          (h.elem (a.toNat + j) (fmtWidth (fmt j)) e)
      let ranks := fun (i : Instr) (k : Nat) (base : Nat) =>
        let glob := fun j e => if idx then h.elem (d.toNat + j) 32 e else (base + e) % 2 ^ 32
        let before := fun j x y =>
          if key j x = key j y then glob j x < glob j y ∨ (glob j x = glob j y ∧ x < y)
          else if c.mod.getLsbD 5 then key j x < key j y else key j y < key j x
        ∃ order : Nat → List Nat,
          (∀ j < rc, (order j).Perm (actives (h.guard c) vl) ∧ (order j).Pairwise (before j))
          ∧ WritesV i s c (hd.flags c ||| (wfIf 0 (h.vlClamps wd) ||| wfIf 9 (c.u && fmts.any fun t => isFloat t || isBlock t)))
            d.toNat rc (fun _ => 32) (fun _ => plainTag .i32) 0
            fun j e => if e < vl then some (if e < k then (order j).getD e 0xFFFFFFFF else 0xFFFFFFFF, 0) else none
      s.Admits c hd →
      s.VReady d.toNat (rowsOf d.toNat rc) (rowsOf a.toNat rc ++ if idx then rowsOf d.toNat rc else []) →
      (∀ j < rc, fmt j ≠ .raw ∧ (idx = true → h.rowFmt d.toNat j = .i32)) →
        (∀ n : BitVec 12, ranks (.vtopk c d a (.i n)) n.toNat 0)
        ∧ (∀ x : XReg, ranks (.vtopk c d a (.x x)) ((h.rx x).toNat % 4096) ((h.rx x).toNat / 2 ^ 32)
          ∧ ranks (.vsort c d a x) vl ((h.rx x).toNat / 2 ^ 32)))

/-- 05 R177: the predicate instructions write the active bits of p[D] alone, once, whatever RC; PCNT, PFIRST and PLAST count, or find,
the active bits that are set. -/
def Obligations.PredicateResults : Prop :=
  ∀ (s : State) (c : Ctl) (d a b : PReg) (x : XReg) (n : XI),
    let h := s.hart s.cur
    let pa := fun e => (h.rp a).getLsbD e
    let pb := fun e => (h.rp b).getLsbD e
    let hd : Head := { ps := [a], elem := true }
    let w := hd.flags c ||| wfIf 1 (decide (h.rc ≠ 1))
    let set := (List.range h.vl.toNat).filter fun e => (h.guard c).getLsbD e && pa e
    PredicateOp (.pand c d a b) s c [d, a, b] d (fun e => pa e && pb e)
      ∧ PredicateOp (.por c d a b) s c [d, a, b] d (fun e => pa e || pb e)
      ∧ PredicateOp (.pxor c d a b) s c [d, a, b] d (fun e => pa e != pb e)
      ∧ PredicateOp (.pandn c d a b) s c [d, a, b] d (fun e => pa e && !pb e)
      ∧ PredicateOp (.pnot c d a) s c [d, a] d (fun e => !pa e)
      ∧ PredicateOp (.pmov c d a) s c [d, a] d pa
      ∧ PredicateOp (.psetn c d n) s c [d] d (fun e => decide (e < (h.xi n).toNat))
      ∧ PredicateOp (.pclr c d) s c [d] d (fun _ => false)
      ∧ (s.Admits c hd →
        WritesXv (.pcnt c x a) s c w x (BitVec.ofNat 64 set.length)
          ∧ WritesXv (.pfirst c x a) s c w x (match set.head? with | some e => BitVec.ofNat 64 e | none => BitVec.allOnes 64)
          ∧ WritesXv (.plast c x a) s c w x (match set.getLast? with | some e => BitVec.ofNat 64 e | none => BitVec.allOnes 64))

/-- 06 R184: TSHAPE cuts M, N and K to 64, 64 and the format's maximum, and gives what it granted. 06 R182, R183: MACQ takes a free
accumulator and waits, STATE 3, for one that another hart owns. MREL waits for the operations queued on md, zeroes it, and hands it to
the first waiting hart in cyclic order. 06 R180: an instruction other than MACQ that names an accumulator the hart does not own traps
DOM of kind 1 with its index. -/
def Obligations.AccumulatorOwnership : Prop :=
  (∀ (s : State) (c : Ctl) (d a : XReg) (f : Fmt), s.Admits c {} → tshapeOk f = true →
      let h := s.hart s.cur
      let v := (h.rx a).toNat
      let tm := min (v % 2 ^ 16) 64
      let tn := min (v / 2 ^ 16 % 2 ^ 16) 64
      let tk := min (v / 2 ^ 32 % 2 ^ 16) (128 / fmtWidth f)
      Completes (.tshape c d a f) s c (Head.flags {} c)
        { h.wx d (BitVec.ofNat 64 (tm + tn * 2 ^ 16 + tk * 2 ^ 32)) with
          tm := BitVec.ofNat 7 tm, tn := BitVec.ofNat 7 tn, tk := BitVec.ofNat 6 tk })
  ∧
  (∀ (s : State) (c : Ctl) (m : MReg), s.Admits c { barred := true } →
      let h := s.hart s.cur
      let l := s.cur % 4
      let acc := s.accum (s.cur / 4) m.toNat
      let w := Head.flags { barred := true } c
      let waiter := fun i => decide ((s.hart (4 * (s.cur / 4) + (l + i) % 4)).waitAcc = some m)
      (acc.owner = none ∨ acc.owner = some l →
        CompletesVia (.macq c m) s (s.modAccum s.cur m fun a => { a with owner := some l }) c w { h with waitAcc := none })
      ∧ (∀ o, acc.owner = some o → o ≠ l →
        ∃ t, exec (.macq c m) s = .next t ∧ (t.hart s.cur).waitAcc = some m
          ∧ Waits s (t.modHart s.cur fun a => { a with waitAcc := h.waitAcc }) s.cur .waiting 0)
      ∧ (acc.owner = some l → s.queuedOn s.cur m = true → Stalls (.mrel c m) s .waiting 0)
      ∧ (acc.owner = some l → s.queuedOn s.cur m = false →
        CompletesVia (.mrel c m) s (s.modAccum s.cur m fun _ =>
          { Acc.init with owner := if waiter 1 then some ((l + 1) % 4) else if waiter 2 then some ((l + 2) % 4)
                                   else if waiter 3 then some ((l + 3) % 4) else none }) c w h))
  ∧
  (∀ (s : State) (c : Ctl) (m : MReg) (a b : VReg) (x : XReg) (q : XU 4) (k : XI), s.CanTrap s.cur →
      (s.accum (s.cur / 4) m.toNat).owner ≠ some (s.cur % 4) →
      let dom := fun i => TrapsWith i s 0x0A 0 (BitVec.ofNat 64 (0x1000 + m.toNat))
      (s.Admits c { barred := true } →
        dom (.mrel c m) ∧ dom (.mzero c m) ∧ dom (.mwait c m) ∧ dom (.mstat c x m))
      ∧ (s.Admits c { barred := true, vs := [a] } → dom (.mwr c m a q) ∧ dom (.mrd c a m q) ∧ dom (.mcvt c a m k))
      ∧ (s.Admits c { barred := true, vs := [a, b] } → dom (.mma c m a b) ∧ dom (.mrank c m a b)))

/-- 06 R188 to R191, R195: MZERO, MMA, MRANK and MWR of an accumulator the hart owns queue an operation that holds the shape read at
issue, and retire; a fifth stalls with STATE 0. MZERO sets the accumulator's tag as it issues. 06 R192, R197, R198: MWAIT and MSTAT wait
with STATE 3 for the hart's operations on md, and cover it; MSTAT gives the status flags and the tag, and clears the flags under .clr. -/
def Obligations.MatrixQueueing : Prop :=
  (∀ (s : State) (c : Ctl) (m : MReg) (a b : VReg) (q : XU 4), s.owns s.cur m = true →
      let h := s.hart s.cur
      let rc := h.rc
      let l := s.cur % 4
      let queue := (s.tile (s.cur / 4)).queue l
      let acc := s.accum (s.cur / 4) m.toNat
      let op := fun (k : MKind) (x y : VReg) =>
        ({ m := m, kind := k, a := x, b := y, rc := rc, tm := h.tm.toNat, tn := h.tn.toNat, tk := h.tk.toNat, done := 0, held := [] } : MOp)
      let queues := fun (i : Instr) (w : BitVec 13) (o : MOp) (f : Acc → Acc) =>
        (4 ≤ queue.length → Stalls i s .running 0)
          ∧ (queue.length < 4 → CompletesVia i s
            ((s.modTile (s.cur / 4) fun t => t.setQueue l (queue ++ [o])).modAccum s.cur m fun x => { f x with covered := false }) c w h)
      let whole := fun v => ∀ j < rc, (h.rv (v + j)).pi = 64 ∧ (h.rv (v + j)).poisoned = false
      let hd := fun (vs : List VReg) (bV : Bool) (mods : BitVec 6) =>
        ({ barred := true, mods := mods, vs := vs, aV := !vs.isEmpty, bV := bV } : Head)
      let tag := fun (v : VReg) j => (h.rv (v.toNat + j)).tag
      let same := fun (v : VReg) => ∀ j < rc, tagFmt (tag v j) = tagFmt (tag v 0) ∧ tagGroup (tag v j) = tagGroup (tag v 0)
      let pairs := fun (pair : BitVec 16 → BitVec 16 → Bool) => same a ∧ same b ∧ pair (tag a 0) (tag a 0) = true
        ∧ pair (tag a 0) (tag b 0) = true ∧ acc.isInt = decide (tagFmt (tag a 0) = .i4 ∨ tagFmt (tag a 0) = .i8)
      let signs := wfIf 9 ((c.x5 || c.u) && !decide (tagFmt (tag a 0) = .i4 ∨ tagFmt (tag a 0) = .i8))
      (s.Admits c (hd [] false 0x20) →
        queues (.mzero c m) ((hd [] false 0x20).flags c) (op .mzero 0 0) fun x => { x with isInt := c.x5 })
      ∧ (s.Admits c (hd [a] false 0) → whole a.toNat → (∀ j < rc, tagFmt (tag a j) = if acc.isInt then .i32 else .f32) →
        queues (.mwr c m a q) ((hd [a] false 0).flags c) (op (.mwr (h.xu q).toNat) a 0) id)
      ∧ (s.Admits c (hd [a, b] true 0x30) → whole a.toNat → whole b.toNat → pairs mmaPair →
        queues (.mma c m a b) ((hd [a, b] true 0x30).flags c ||| signs) (op (.mma c.x5 c.u) a b) id)
      ∧ (s.Admits c (hd [a, b] true 0x38) → whole a.toNat → whole b.toNat → pairs mrankPair →
        queues (.mrank c m a b) ((hd [a, b] true 0x38).flags c ||| signs) (op (.mrank c.x5 c.u c.sat) a b) id))
  ∧
  (∀ (s : State) (c : Ctl) (m : MReg) (d : XReg), s.owns s.cur m = true →
      let h := s.hart s.cur
      let acc := s.accum (s.cur / 4) m.toNat
      let hd := fun (mods : BitVec 6) => ({ barred := true, mods := mods } : Head)
      (s.Admits c (hd 0) → s.queuedOn s.cur m = true → Stalls (.mwait c m) s .waiting 0)
      ∧ (s.Admits c (hd 0) → s.queuedOn s.cur m = false →
        CompletesVia (.mwait c m) s (s.modAccum s.cur m fun x => { x with covered := true }) c ((hd 0).flags c) h)
      ∧ (s.Admits c (hd 0x20) → s.queuedOn s.cur m = true → Stalls (.mstat c d m) s .waiting 0)
      ∧ (s.Admits c (hd 0x20) → s.queuedOn s.cur m = false →
        CompletesVia (.mstat c d m) s (s.modAccum s.cur m fun x =>
            { x with covered := true, flags := if c.mod.getLsbD 5 then 0 else x.flags }) c ((hd 0x20).flags c)
          (h.wx d (BitVec.ofNat 64 (acc.flags.toNat + if acc.isInt then 256 else 0)))))

/-- 06 R193, R194, R196, R202: MRD and MCVT read covered cells: quad (b + j) mod 16 for row j, bit for bit, or times 2^S and converted,
with the flags going to the accumulator. A row of a poisoned quad is poisoned. Uncovered, they write the same registers. -/
def Obligations.MatrixReads : Prop :=
  ∀ (s : State) (c : Ctl) (m : MReg) (d : VReg) (q : XU 4) (b : XI), s.owns s.cur m = true →
    let h := s.hart s.cur
    let rc := h.rc
    let acc := s.accum (s.cur / 4) m.toNat
    let hd := fun (mods : BitVec 6) => ({ barred := true, mods := mods, vs := [d] } : Head)
    let bad := fun n (t : BitVec 16) => if (List.range 4).any fun i => acc.poisoned.getLsbD (4 * n + i) then t ||| 16 else t
    let cell := fun n e => (mget 0 acc.cells (64 * (4 * n + e / 64) + e % 64)).toNat
    let qd := fun j => ((h.xu q).toNat + j) % 16
    let k := h.xi b
    let qc := fun j => (k.toNat % 16 + j) % 16
    let fmt := [Fmt.f32, .f16, .bf16, .e4m3, .e5m2, .i32, .i16, .i8].getD (c.mod.extractLsb' 3 3).toNat .f32
    let value := fun (v : Nat) =>
      let x : Int := Int.bmod v (2 ^ 32)
      (if acc.isInt then FVal.fin (decide (x < 0)) x.natAbs 0 else fdec .f32 v).scale (Int.bmod ((k.toNat / 256 % 256 : Nat) : Int) 256)
    let conv := fun (v : Nat) =>
      if isFloat fmt then cvtVal (value v) fmt (h.rnd c) (k.getLsbD 7) else cvtToInt (value v) (fmtWidth fmt) false (h.rnd c)
    (∀ j < rc, s.vBusy s.cur (d.toNat + j) = false) →
    (s.Admits c (hd 0) →
      (acc.covered = true → WritesV (.mrd c d m q) s c ((hd 0).flags c) d.toNat rc (fun _ => 32)
        (fun j => bad (qd j) (plainTag (if acc.isInt then .i32 else .f32))) 0
        fun j e => if e < 256 then some (cell (qd j) e, 0) else none)
      ∧ (acc.covered = false → ∃ val, WritesV (.mrd c d m q) s c ((hd 0).flags c) d.toNat rc (fun _ => 32)
        (fun j => bad (qd j) (plainTag (if acc.isInt then .i32 else .f32))) 0 val))
    ∧ (s.Admits c (hd 0x3F) →
      ∃ a f, CompletesVia (.mcvt c d m b) s (s.modAccum s.cur m fun x => { x with flags := x.flags ||| f }) c ((hd 0x3F).flags c) a
        ∧ ∃ val, VWrites h a d.toNat rc (fun _ => fmtWidth fmt) (fun j => bad (qc j) (plainTag fmt)) 0 val
          ∧ (∀ j e, (val j e).isSome = true → e < 256)
          ∧ (acc.covered = true →
            (∀ j, ∀ e < 256, val j e = some ((conv (cell (qc j) e)).1, 0))
              ∧ ∀ n, f.getLsbD n = true ↔ ∃ j < rc, ∃ e < 256, (conv (cell (qc j) e)).2.getLsbD n = true))

/-- 07 R209, R210, 05 R178: a granted load of the hart's own tile store gives the bytes there, extended as .u says; LDA waits first for
the hart's earlier synchronising writes. 07 R211, 05 R178: a granted store to the hart's own tile store writes the low bytes of its
source and nothing else; STL first waits as FENCE.REL of its scope; a stream handle is a fallback there. -/
def Obligations.TileLoadsAndStores : Prop :=
  (∀ (s : State) (c : Ctl) (d : XReg) (q : PReg) (m : MemOp),
      let h := s.hart s.cur
      let n := accessSize c.mod
      let p := h.ea m n
      let gives := fun (bs : List Byte) a => ∃ r, a = h.wx d r ∧ Extends r (c.mod.getLsbD 3) n (leNat bs)
      LoadsTile (.ld c d m) s c { mods := 0x38 } p n n false gives
        ∧ LoadsTile (.lda c d m) s c { mods := 0x3B, nd := true } p n n true gives
        ∧ LoadsTile (.rld c d m) s c { mods := 0x38, nd := true } p n n false gives
        ∧ LoadsTile (.pld c q m) s c { ps := [q] } (h.ea m 16) 256 16 false fun bs a => ∃ v : PData, a = h.wp q v
          ∧ ∀ e < 2048, v.getLsbD e = (bs.getD (e / 8) 0).getLsbD (e % 8))
  ∧
  (∀ (s : State) (c : Ctl) (m : MemOp) (a : XI) (q : PReg) (b : Option Stream),
      let h := s.hart s.cur
      let n := accessSize c.mod
      let p := h.ea m n
      let bs := bytesOf n (h.xi a).toNat
      let named := wfIf 11 (match b with | some t => decide (t.slot ≠ 0) | none => false)
      StoresTile (.st c m a b) s c (streamHead b 0x30) p n bs none named
        ∧ StoresTile (.rst c m a b) s c (streamHead b 0x30) p n bs none named
        ∧ StoresTile (.stl c m a) s c { mods := 0x33 } p n bs (some ([Scope.sys, .dev].getD (c.mod.extractLsb' 0 2).toNat .tile)) 0
        ∧ StoresTile (.pst c m q) s c { ps := [q] } (h.ea m 16) 16 (bytesOf 256 (h.rp q).toNat) none 0)

/-- 07 R211, R218, R219, R225: a store through another window takes the lowest free journal entry, whose words say what it is, joins its
stream where the slot is open and its destination matches, sends the write, and retires; one of window 10 goes to the home station of
its address bits [15:12] (log 5). It waits, in STATE 3, while no entry is free, its stream has 64 members unacknowledged, or an access of the
hart overlaps it (for the last, log 13). 07 R218, R219, R230, R240: FADDX, FCLR and BARA post an entry of KIND 1, 2 or 3, through any window,
and retire; a release, and BARA always, waits first for its scope, and each waits as a store does. -/
def Obligations.PostedStores : Prop :=
  (∀ (s : State) (c : Ctl) (m : MemOp) (a : XI) (b : Option Stream) (i : Nat), s.Admits c (streamHead b 0x30) →
      let h := s.hart s.cur
      let n := accessSize c.mod
      let p := h.ea m n
      let named := match b with | some t => t.slot.toNat | none => 0
      let k := if named ≠ 0 ∧ (h.slot named).isOpen ∧ (h.slot named).closing = false ∧ destMatches p (h.slot named).ptr = true then named else 0
      let sl := h.slot k
      let last := decide (k ≠ 0) && match b with | some t => t.last | none => false
      let e : JEntry := {
        addr := p, seq := if k = 0 then 0 else sl.seq, slot := BitVec.ofNat 4 k, last := last, refused := false, mark := false
        reason := 0, kind := 0, svc := h.svc, len := n, pc := h.pc &&& 0x1FFFFF, asid := h.asid
        data := bytesOf n (h.xi a).toNat, mask := List.replicate n 3
        strm := if k = 0 then 0 else sl.num, dest := if k = 0 then 0 else sl.ptr, gen := if k = 0 then 0 else sl.gen
        stamp := s.nextStamp, rep := none, rel := false, prio := c.prio, ws := if winOf p = 1 then h.windows else [] }
      let after := if k = 0 then h.setEntry i (some e)
        else (h.setEntry i (some e)).setSlot k { sl with seq := sl.seq + 1, isOpen := sl.isOpen && !last }
      let w := (streamHead b 0x30).flags c ||| wfIf 12 (decide (k ≠ named))
      let full := ∀ k < 128, (h.entry k).isSome = true
      let order := h.entriesOverlap s.cur (byteKey s.cur p) n e.gen = true ∨ h.loadsOverlap s.cur (byteKey s.cur p) n = true
      s.inWindow p n = true → p.toNat % n = 0 →
        (h.lowestFree i → (k ≠ 0 → h.members sl.gen < 64) → ¬order →
          (winOf p = 2 → Posts (.st c m a b) s s c w i e after) ∧ (winOf p ≠ 0 → Posts (.rst c m a b) s s c w i e after))
        ∧ (full ∨ (k ≠ 0 ∧ 64 ≤ h.members sl.gen) ∨ order →
          (winOf p = 2 → Stalls (.st c m a b) s .waiting 0) ∧ (winOf p ≠ 0 → Stalls (.rst c m a b) s .waiting 0)))
  ∧
  (∀ (s : State) (c : Ctl) (m : MemOp) (x : XReg) (v : XU 16) (i : Nat),
      let h := s.hart s.cur
      let value : W64 := match v with | .x r => h.rx r | .i n => n.setWidth 64
      let posts := fun (ins : Instr) (mods : BitVec 6) (p : W64) (n : Nat) (kind : BitVec 3) (bs : List Byte) (rel : Option Scope) =>
        let e : JEntry := {
          addr := p, seq := 0, slot := 0, last := false, refused := false, mark := false, reason := 0, kind := kind, svc := h.svc
          len := n, pc := h.pc &&& 0x1FFFFF, asid := h.asid, data := bs, mask := List.replicate bs.length 3
          strm := 0, dest := 0, gen := 0, stamp := s.nextStamp, rep := none, rel := rel.isSome, prio := c.prio
          ws := if winOf p = 0 ∨ winOf p = 1 then h.windows else [] }
        let full := ∀ k < 128, (h.entry k).isSome = true
        let order := h.tileOrder p = true ∨ h.entriesOverlap s.cur (byteKey s.cur p) n 0 = true
        s.Admits c { mods := mods } → s.inWindow p n = true → p.toNat % n = 0 →
          (h.lowestFree i → ¬order → (∀ k, rel = some k → h.drained s.cur k = true) →
            ∃ r, MemStep s r s.byte ∧ Posts ins s r c (Head.flags { mods := mods } c) i e (h.setEntry i (some e)))
          ∧ (full ∨ order ∨ (∃ k, rel = some k ∧ h.drained s.cur k = false) → Stalls ins s .waiting 0)
      posts (.faddx c m x) 0x07 (h.ea m 64) 64 1 (bytesOf 4 (h.rx x).toNat) (releaseOf c.mod)
        ∧ posts (.fclr c m) 0x07 (h.ea m 64) 64 2 [] (releaseOf c.mod)
        ∧ posts (.bara c m v) 0x03 (h.ea m 32) 32 3 (bytesOf 8 value.toNat)
          (some ([Scope.sys, .dev].getD (c.mod.extractLsb' 0 2).toNat .tile)))

/-- 07 R205, R208, R210, R229: a load or an atomic through another window sends its request, to the tile or the station its address
names (for window 10 the home station of its bits [15:12]: log 5), and stalls for the reply; BWAIT stalls in STATE 3. An atomic waits first
for its release and for the hart's earlier synchronising writes. -/
def Obligations.RemoteRequests : Prop :=
  ∀ (s : State) (c : Ctl) (d e : XReg) (q : PReg) (m : MemOp) (b : XI) (v : XU 16),
    let h := s.hart s.cur
    let n := accessSize c.mod
    let p := h.ea m n
    let free := fun (p : W64) (n : Nat) => s.inWindow p n = true ∧ winOf p ≠ 0 ∧ s.loadWaits s.cur p n = false
    let reads := fun (i : Instr) (hd : Head) (p : W64) (n : Nat) (k : PendKind) (sync : Bool) =>
      Requests i s s c (hd.flags c) .running (accessDest s.cur p) k fun id => .read s.cur id p n h.asid sync
    (free p n → p.toNat % n = 0 →
      (s.Admits c { mods := 0x38 } → winOf p = 2 → reads (.ld c d m) { mods := 0x38 } p n (.load d n (c.mod.getLsbD 3) false) false)
      ∧ (s.Admits c { mods := 0x3B, nd := true } → winOf p = 2 → h.syncDrained = true →
          reads (.lda c d m) { mods := 0x3B, nd := true } p n (.load d n (c.mod.getLsbD 3) true) true)
      ∧ (s.Admits c { mods := 0x38, nd := true } →
          reads (.rld c d m) { mods := 0x38, nd := true } p n (.load d n (c.mod.getLsbD 3) false) false))
    ∧ (free (h.ea m 16) 256 → (h.ea m 16).toNat % 16 = 0 → winOf (h.ea m 16) = 2 → s.Admits c { ps := [q] } →
        reads (.pld c q m) { ps := [q] } (h.ea m 16) 256 (.pld q) false)
    ∧ (let w := if c.mod.getLsbD 5 then 4 else 8
       let acq := c.mod.getLsbD 3
       let atomic := fun (i : Instr) (hd : Head) (n : Nat) (rel : Option Scope) (acq : Bool) (st : HState) (k : Bool → PendKind)
           (op : AtomicOp) =>
         let p := h.ea m n
         let own := decide (winOf p = 1) && decide (tileIdOf p = s.cur / 4)
         free p n → p.toNat % n = 0 → h.syncDrained = true → s.Admits c hd → (∀ sc, rel = some sc → h.drained s.cur sc = true) →
           ∃ r, MemStep s r s.byte ∧ (rel = none → r = s)
             ∧ Requests i s r c (hd.flags c) st (accessDest s.cur p) (k (acq && !own))
                 fun id => .atomic s.cur id op p h.asid rel.isSome acq
       let amo := fun (i : Instr) (mods : BitVec 6) (u : Bool) (op : AtomicOp) =>
         atomic i { mods := mods, nd := true } w (releaseOf c.mod) acq .running (.atomic d w u) op
       amo (.amoadd c d m b) 0x2F false (.amo .add w false (h.xi b)) ∧ amo (.amoand c d m b) 0x2F false (.amo .and w false (h.xi b))
         ∧ amo (.amoor c d m b) 0x2F false (.amo .or w false (h.xi b)) ∧ amo (.amoxor c d m b) 0x2F false (.amo .xor w false (h.xi b))
         ∧ amo (.amomin c d m b) 0x3F c.u (.amo .min w c.u (h.xi b)) ∧ amo (.amomax c d m b) 0x3F c.u (.amo .max w c.u (h.xi b))
         ∧ amo (.amoswp c d m b) 0x2F false (.amo .swp w false (h.xi b)) ∧ amo (.cas c d m b) 0x2F false (.cas w (h.rx d) (h.xi b))
         ∧ atomic (.cas128 c d m e) { mods := 0x0F, nd := true } 16 (releaseOf c.mod) acq .running (.cas128 d)
             (.cas128 (h.rx d) (h.rx (d + 1)) (h.rx e) (h.rx (e + 1)))
         ∧ atomic (.fcell c d m) { mods := 0x0B } 64 none acq .running (.fcell d) .fcell
         ∧ atomic (.binit c m v) {} 32 none false .running (fun _ => .binit)
             (.binit (match v with | .x r => h.rx r | .i n => n.setWidth 64))
         ∧ atomic (.bwait c d m) {} 32 none true .waiting (fun _ => .bwait d) (.bwait ((h.rx d).getLsbD 0)))

/-- 07 R204, R205, 18 R389: an address in a window that the instruction does not accept, with bits its window leaves unused, or of an
access that spans two windows traps WIN; then one that is no multiple of the alignment traps ALIGN. 07 R205, 16 R360; 18 R390, R392: an
own-tile access that no store-guard window permits, or that reaches execute-only code, traps GUARD at its address, with TRAPINFO bit 0
for a write, and for an atomic that needs WR (for which log 38), and has no effect. 14 R343 to R348: under a window with RACE = 1, LD and ST
trap MMX at their address, with the report of R348, where their line was last written, or for ST read, by another agent of the tile
that has not released it to this hart since; otherwise they are performed and leave their mark in the line's race tag. -/
def Obligations.AddressChecks : Prop :=
  (∀ (s : State) (c : Ctl) (d e : XReg) (q : PReg) (m : MemOp) (a : XI) (b : Option Stream) (v : XU 16), s.CanTrap s.cur →
      let h := s.hart s.cur
      let checks := fun (i : Instr) (hd : Head) (ws : List Nat) (p : W64) (n align : Nat) => s.Admits c hd →
        ((winOf p ∉ ws ∨ s.inWindow p n = false) → TrapsWith i s 0x04 p 0)
          ∧ (winOf p ∈ ws → s.inWindow p n = true → p.toNat % align ≠ 0 → TrapsWith i s 0x02 p (BitVec.ofNat 64 align))
      let n := accessSize c.mod
      let w := if c.mod.getLsbD 5 then 4 else 8
      let all := [0, 1, 2, 3]
      let amo := fun (i : Instr) => checks i { mods := 0x2F, nd := true } all (h.ea m w) w w
      let signs := fun (i : Instr) => checks i { mods := 0x3F, nd := true } all (h.ea m w) w w
      (checks (.ld c d m) { mods := 0x38 } [0, 2] (h.ea m n) n n ∧ checks (.lda c d m) { mods := 0x3B, nd := true } [0, 2] (h.ea m n) n n
        ∧ checks (.rld c d m) { mods := 0x38, nd := true } all (h.ea m n) n n ∧ checks (.st c m a b) (streamHead b 0x30) [0, 2] (h.ea m n) n n
        ∧ checks (.stl c m a) { mods := 0x33 } [0, 2] (h.ea m n) n n ∧ checks (.rst c m a b) (streamHead b 0x30) all (h.ea m n) n n)
      ∧ (checks (.pld c q m) { ps := [q] } [0, 2] (h.ea m 16) 256 16 ∧ checks (.pst c m q) { ps := [q] } [0, 2] (h.ea m 16) 256 16)
      ∧ (amo (.amoadd c d m a) ∧ amo (.amoand c d m a) ∧ amo (.amoor c d m a) ∧ amo (.amoxor c d m a) ∧ amo (.amoswp c d m a)
        ∧ amo (.cas c d m a) ∧ signs (.amomin c d m a) ∧ signs (.amomax c d m a)
        ∧ checks (.cas128 c d m e) { mods := 0x0F, nd := true } all (h.ea m 16) 16 16)
      ∧ (checks (.faddx c m d) { mods := 0x07 } all (h.ea m 64) 64 64 ∧ checks (.fcell c d m) { mods := 0x0B } all (h.ea m 64) 64 64
        ∧ checks (.fclr c m) { mods := 0x07 } all (h.ea m 64) 64 64)
      ∧ checks (.binit c m v) {} all (h.ea m 32) 32 32 ∧ checks (.bara c m v) { mods := 0x03 } all (h.ea m 32) 32 32)
  ∧
  (∀ (s : State) (c : Ctl) (d : XReg) (m : MemOp) (a : XI), s.CanTrap s.cur → s.cur < 4096 →
      let h := s.hart s.cur
      let refused := fun (p : W64) (rd wr : Bool) => p.toNat < s.execOnly (s.cur / 4)
        ∨ guardFor h.windows h.asid p.toNat = none
        ∨ ∃ g, guardFor h.windows h.asid p.toNat = some g ∧ ((rd = true ∧ g.getLsbD 61 = false) ∨ (wr = true ∧ g.getLsbD 60 = false))
      let n := accessSize c.mod
      let p := h.ea m n
      let w := if c.mod.getLsbD 5 then 4 else 8
      let pa := h.ea m w
      (p.toNat + n ≤ 2 ^ 21 → p.toNat % n = 0 → h.tileOrder p = false →
        (s.Admits c { mods := 0x38 } → s.loadWaits s.cur p n = false → refused p true false → TrapsWith (.ld c d m) s 0x03 p 0)
        ∧ (s.Admits c { mods := 0x30 } → h.loadsOverlap s.cur (byteKey s.cur p) n = false → refused p false true →
            TrapsWith (.st c m a none) s 0x03 p 1))
      ∧ (pa.toNat + w ≤ 2 ^ 21 → pa.toNat % w = 0 → h.tileOrder pa = false → s.loadWaits s.cur pa w = false → h.syncDrained = true →
          releaseOf c.mod = none → s.Admits c { mods := 0x2F, nd := true } →
          refused pa true true → TrapsWith (.amoadd c d m a) s 0x03 pa 1))
  ∧
  (∀ (s : State) (c : Ctl) (d : XReg) (m : MemOp) (a : XI) (win : W64), s.CanTrap s.cur → s.cur < 4096 →
      let h := s.hart s.cur
      let n := accessSize c.mod
      let p := h.ea m n
      let me := s.cur % 4
      let tl := s.tile (s.cur / 4)
      let line := p.toNat / 64
      let g := mget .init tl.tags line
      let clk := fun (x y : Nat) => mget 0 tl.clk (8 * x + y)
      let stale : Prop := g.wv = true ∧ g.wa ≠ me ∧ clk me g.wa < g.we
      let readBy := fun (k : Nat) => k ≠ me ∧ g.rm.getLsbD k = true ∧ clk k k = mget 0 g.re k
      let bs := bytesOf n ((h.xi a).toNat % 2 ^ (8 * n))
      let tagged := fun (u : State) (ok : RaceTag → Prop) => ok (mget .init (u.tile (s.cur / 4)).tags line)
        ∧ ∀ l, l ≠ line → mget .init (u.tile (s.cur / 4)).tags l = mget .init tl.tags l
      p.toNat + n ≤ 2 ^ 21 → p.toNat % n = 0 → h.tileOrder p = false → s.execOnly (s.cur / 4) ≤ p.toNat →
      guardFor h.windows h.asid p.toNat = some win → win.getLsbD 62 = true →
      (∀ u ∈ s.poison, u + unitLen u ≤ placeOf s.cur p ∨ placeOf s.cur p + n ≤ u) →
        (s.Admits c { mods := 0x38 } → s.loadWaits s.cur p n = false → win.getLsbD 61 = true →
          (stale → TrapsWith (.ld c d m) s 0x07 p (BitVec.ofNat 64 (8 + g.wa) &&& 0xFF))
          ∧ (¬stale → ∃ u r, MemStep s u s.byte
            ∧ CompletesVia (.ld c d m) s u c (Head.flags { mods := 0x38 } c) (h.wx d r)
            ∧ Extends r c.u n (leNat (s.peek (placeOf s.cur p) n))
            ∧ tagged u fun t => t = { g with rm := t.rm, re := t.re } ∧ t.rm = g.rm ||| BitVec.twoPow 8 me
              ∧ ∀ k, mget 0 t.re k = if k = me then clk me me else mget 0 g.re k))
        ∧ (s.Admits c { mods := 0x30 } → h.loadsOverlap s.cur (byteKey s.cur p) n = false → win.getLsbD 60 = true →
          (stale → TrapsWith (.st c m a none) s 0x07 p (BitVec.ofNat 64 (16 + g.wa) &&& 0xFF))
          ∧ (∀ k < 8, ¬stale → readBy k → (∀ j < k, ¬readBy j) → TrapsWith (.st c m a none) s 0x07 p (BitVec.ofNat 64 (24 + k)))
          ∧ (¬stale → (∀ k < 8, ¬readBy k) → ∃ u, MemStep s u (withBytes s.byte (placeOf s.cur p) bs)
            ∧ CompletesVia (.st c m a none) s u c (Head.flags { mods := 0x30 } c) h
            ∧ tagged u fun t => t.wv = true ∧ t.wa = me ∧ t.ws = false ∧ t.we = clk me me ∧ t.rm = 0 ∧ t.re = g.re
              ∧ ∀ k < 8, mget 0 t.sclk k = mget 0 tl.rclk (8 * me + k))))

/-- 07 R228, R229: an atomic on the hart's own tile store reads, writes the new value, and gives the old one. CAS writes only where it
succeeds. 07 R229: CAS128 compares 16 bytes with x[D] and x[D+1], writes x[B] and x[B+1] where they are equal, and gives the old bytes. -/
def Obligations.TileAtomics : Prop :=
  (∀ (s : State) (c : Ctl) (d : XReg) (m : MemOp) (b : XI),
      let h := s.hart s.cur
      let n := if c.mod.getLsbD 5 then 4 else 8
      let x := (h.xi b).toNat % 2 ^ (8 * n)
      let less := fun (old : Nat) => codeInt c.u (8 * n) old < codeInt c.u (8 * n) x
      let amo := fun (i : Instr) (mods : BitVec 6) (u : Bool) (new : Nat → Option Nat) =>
        ModifiesTile i s c { mods := mods, nd := true } (h.ea m n) n true (releaseOf c.mod)
          (fun old => (new (leNat old)).map (bytesOf n)) fun old a => ∃ r, a = h.wx d r ∧ Extends r u n (leNat old)
      amo (.amoadd c d m b) 0x2F false (fun old => some ((old + x) % 2 ^ (8 * n)))
        ∧ amo (.amoand c d m b) 0x2F false (fun old => some (old &&& x))
        ∧ amo (.amoor c d m b) 0x2F false (fun old => some (old ||| x))
        ∧ amo (.amoxor c d m b) 0x2F false (fun old => some (old ^^^ x))
        ∧ amo (.amomin c d m b) 0x3F c.u (fun old => some (if less old then old else x))
        ∧ amo (.amomax c d m b) 0x3F c.u (fun old => some (if less old then x else old))
        ∧ amo (.amoswp c d m b) 0x2F false (fun _ => some x)
        ∧ amo (.cas c d m b) 0x2F false (fun old => if old = (h.rx d).toNat % 2 ^ (8 * n) then some x else none))
  ∧
  (∀ (s : State) (c : Ctl) (d : XReg) (m : MemOp) (b : XReg),
      let h := s.hart s.cur
      let lo := fun (bs : List Byte) => leNat (bs.take 8)
      let hi := fun (bs : List Byte) => leNat (bs.drop 8)
      ModifiesTile (.cas128 c d m b) s c { mods := 0x0F, nd := true } (h.ea m 16) 16 true (releaseOf c.mod)
        (fun old => if lo old = (h.rx d).toNat ∧ hi old = (h.rx (d + 1)).toNat then
          some (bytesOf 8 (h.rx b).toNat ++ bytesOf 8 (h.rx (b + 1)).toNat) else none)
        fun old a => a = (h.wx d (BitVec.ofNat 64 (lo old))).wx (d + 1) (BitVec.ofNat 64 (hi old)))

/-- 07 R230, R239, R240; 02 R76, R78: FCELL gives COUNT and the cell's f32 value; BINIT writes EXPECT, ARRIVED = 0 and PHASE = 0; BWAIT
gives PHASE once it differs from x[D][0], and until then waits with STATE 3. That BINIT keeps bytes 17 to 31 of the object is log 36, and
that FCELL and BWAIT, which only read, need RD alone is log 38. -/
def Obligations.CellsAndBarriers : Prop :=
  ∀ (s : State) (c : Ctl) (d : XReg) (m : MemOp) (v : XU 16),
    let h := s.hart s.cur
    let value : W64 := match v with | .x r => h.rx r | .i n => n.setWidth 64
    let cell := fun (bs : List Byte) =>
      let sum : Int := Int.bmod (leNat (bs.take 48) : Int) (2 ^ 384)
      let fl := bs.getD 52 0
      if fl.getLsbD 2 ∨ (fl.getLsbD 0 ∧ fl.getLsbD 1) then 0x7FC00000
      else if fl.getLsbD 0 then 0x7F800000 else if fl.getLsbD 1 then 0xFF800000
      else if sum = 0 then 0 else (roundFin .f32 .rne false (decide (sum < 0)) sum.natAbs (-149) false).1
    let pw := h.ea m 32
    let phase := (s.byte (placeOf s.cur pw + 16)).getLsbD 0
    ModifiesTile (.fcell c d m) s c { mods := 0x0B } (h.ea m 64) 64 false none (fun _ => none)
        (fun old a => a = h.wx d (BitVec.ofNat 64 (leNat ((old.drop 48).take 4) * 2 ^ 32 + cell old)))
      ∧ ModifiesTile (.binit c m v) s c {} pw 32 true none
        (fun old => some (bytesOf 8 value.toNat ++ List.replicate 9 0 ++ old.drop 17)) (fun _ a => a = h)
      ∧ (h.pend = none → phase ≠ (h.rx d).getLsbD 0 → ModifiesTile (.bwait c d m) s c {} pw 32 false none (fun _ => none)
        fun _ a => a = h.wx d (if phase then 1 else 0))
      ∧ (h.pend = none → phase = (h.rx d).getLsbD 0 → s.Admits c {} → s.Granted s.cur pw 32 true false → pw.toNat % 32 = 0 →
        h.tileOrder pw = false → s.loadWaits s.cur pw 32 = false → h.syncDrained = true → Stalls (.bwait c d m) s .waiting 0)

/-- 07 R212 to R214, 01 R25: VLD, VLDS and VGATH give each destination row its tag and PI 0, put it in flight, with the groups that have
no active element landed, send its element reads, and retire at once; a row with no active element is complete. 07 R216, R217: VRESUME
issues again the recorded load of each row that holds a fault record, from group PI on, once nothing that it must follow stands before
its reads, for which it waits in STATE 0 (log 13); a gather keeps the offsets it read first, with a mark where its offsets register now
holds others (log 4), and a load of window 00 comes under the store guards as they now stand (log 38). PIWAIT retires once every row is whole, waits, STATE 3, while one is not, and takes the fault of a row that holds one. -/
def Obligations.VectorLoads : Prop :=
  (∀ (s : State) (c : Ctl) (d o : VReg) (m : MemOp) (t : TagOp) (b : XI),
      let h := s.hart s.cur
      let rc := h.rc
      let base := h.ea m 16
      let issues := fun (i : Instr) (hd : Head) (kind : LoadKind) (stride : W64) (idx : Option VReg) (tag : Nat → BitVec 16)
          (wf : BitVec 13) =>
        let rows := match idx with | some v => rowsOf v.toNat rc | none => []
        let w := accWidth (tag 0)
        let wd := max w (widestOf (rows.map fun v => (h.rv v).fmt))
        let ld : LoadDesc := {
          d := d, kind := kind, base := base, stride := stride, offReg := idx.getD 0, vl := h.vlAt wd, rc := rc, tag := tag 0
          guard := h.guard c, asid := h.asid, pc := h.pc, ws := h.windows, prio := c.prio }
        let act := fun j e => j < rc ∧ e < h.vlAt wd ∧ (h.guard c).getLsbD e = true
        let index := fun j => if kind = .gather then ((h.rv (ld.offReg.toNat + j)).data, (h.rv (ld.offReg.toNat + j)).tag) else (0, 0)
        let addr := fun j e => elemAddr kind base stride w (h.vlAt wd) j e (index j).1 (index j).2
        s.Admits c { hd with elem := true } → h.resumeAt 64 = none → (∀ v ∈ rowsOf d.toNat rc, s.vBusy s.cur v = false) →
        (∀ v ∈ rows, isInt (h.rv v).fmt = true ∧ (h.rv v).pi = 64 ∧ (h.rv v).poisoned = false) →
        (kind ≠ .gather → (winOf base = 0 ∨ winOf base = 2) ∧ base.toNat % elemBytes w = 0 ∧ stride.toNat % elemBytes w = 0
          ∧ ∀ j e j' e', act j e → act j' e' → s.sameWindow (addr j e) (addr j' e' + BitVec.ofNat 64 (elemBytes w - 1)) = true
            ∧ s.sameWindow (addr j e) (addr j' e') = true ∧ (winOf (addr j e) = 0 ∨ winOf (addr j e) = 2)) →
        (∀ j e, act j e → s.loadWaits s.cur (addr j e) (elemBytes w) = false ∧ h.tileOrder (addr j e) = false) →
          let f : Nat → Flight := fun v => {
            desc := ld, landed := ld.landedFrom 0, idxData := (index (v - d.toNat)).1, idxTag := (index (v - d.toNat)).2, id := s.nextReq
            again := false, spoilt := false }
          let u := (rowsOf d.toNat rc).foldl (fun t v => t.sendReads s.cur v (f v)) { s with nextReq := s.nextReq + 1 }
          ∃ a, CompletesVia i s u c (Head.flags { hd with elem := true } c ||| wf ||| wfIf 0 (h.vlClamps wd)) a
            ∧ { a with v := h.v, spent := h.spent } = h ∧ (∀ n, (∀ j < rc, n ≠ d.toNat + j) → a.rv n = h.rv n)
            ∧ (∀ g < 64, (ld.landedFrom 0).getLsbD g = decide (∀ e ∈ groupElems w g, ¬(e < ld.vl ∧ ld.guard.getLsbD e = true)))
            ∧ ∀ j < rc, a.rv (d.toNat + j) =
                if ld.landedFrom 0 = BitVec.allOnes 64 then
                  { data := (h.rv (d.toNat + j)).data, tag := tag j &&& ~~~16, pi := 64, lrec := none, flight := none }
                else { data := (h.rv (d.toNat + j)).data, tag := tag j, pi := leadOnes (ld.landedFrom 0), lrec := none
                       flight := some (f (d.toNat + j)) }
      let named : BitVec 16 := plainTag ((fmtOfCode (c.mod.extractLsb' 0 5)).getD .raw)
      (t.grp ≠ 3 → issues (.vld c d m t) { vs := [d] } .unit 0 none
        (fun j => tagBits { fmt := t.fmt, grp := if isMx t.fmt then 0 else t.grp, scl := if isBlock t.fmt then t.scl + BitVec.ofNat 4 j else 0 })
        (wfIf 10 (isMx t.fmt && decide (t.grp ≠ 0))))
      ∧ (ldFmtOk c.mod = true → issues (.vlds c d m b) { vs := [d], mods := 0x1F } .strided (h.xi b) none (fun _ => named) 0
        ∧ issues (.vgath c d m o) { vs := [d, o], bV := true, mods := 0x1F } .gather 0 (some o) (fun _ => named) 0))
  ∧
  (∀ (s : State) (c : Ctl) (d : VReg), s.Admits c { vs := [d] } →
      let h := s.hart s.cur
      let w := Head.flags { vs := [d] } c
      let rows := rowsOf d.toNat h.rc
      let recorded := fun v l => (h.rv v).lrec = some l ∧ (h.rv v).poisoned = true ∧ (h.rv v).pi < 64 ∧ (h.rv v).flight = none
      ((∀ v ∈ rows, s.resumeWaits s.cur v = false) →
        let u := rows.foldl (fun t v => t.reissue s.cur v c.prio) s
        let a := u.hart s.cur
        CompletesVia (.vresume c d) s u c w a ∧ { a with v := h.v } = h ∧ (∀ n, n ∉ rows → a.rv n = h.rv n)
          ∧ (∀ j, j ≠ s.cur → u.hart j = s.hart j) ∧ (∀ x, u.byte x = s.byte x)
          ∧ ∀ v ∈ rows, (∀ l, recorded v l → ∃ f : Flight, f.desc = { l.desc with ws := h.windows, prio := c.prio } ∧ f.idxData = l.idxData ∧ f.idxTag = l.idxTag ∧ f.again = true
                ∧ (l.desc.offReg.toNat + (v - l.desc.d.toNat) ∉ rows → f.spoilt = (l.spoilt || decide (h.indexOf l.desc v ≠ (l.idxData, l.idxTag))))
                ∧ f.early = []
                ∧ (∀ g < 64, f.landed.getLsbD g = decide (g < (h.rv v).pi ∨ l.desc.elems g = [])) ∧ a.rv v = (h.rv v).after f)
              ∧ ((∀ l, ¬recorded v l) → a.rv v = h.rv v))
      ∧ ((∃ v ∈ rows, s.resumeWaits s.cur v = true) → Stalls (.vresume c d) s .running 0)
      ∧ ((∃ v ∈ rows, (h.rv v).flight.isSome = true) → Stalls (.piwait c d) s .waiting 0)
      ∧ ((∀ v ∈ rows, (h.rv v).flight = none) →
        (∀ tr, h.firstTrap rows = some tr → exec (.piwait c d) s = .next (s.takeTrap s.cur h.pc tr))
          ∧ ((∀ v ∈ rows, (h.rv v).poisoned = false) → (∃ v ∈ rows, (h.rv v).pi < 64) → Stalls (.piwait c d) s .waiting 0)
          ∧ ((∀ v ∈ rows, (h.rv v).poisoned = false ∧ 64 ≤ (h.rv v).pi) → Completes (.piwait c d) s c w h)))

/-- 07 R213, R215: VST, RVST, VSTS and VSCAT to the hart's own tile store write the bytes of the active elements, in ascending order of
row and then element; a 4-bit element replaces its nibble alone. That WFLAG bit 11 or 12 is set without any active element is log 37, that
VSCAT takes a base in any window log 38. 07 R215, R218, R225: VST and RVST through another window post the run as one entry for each
256-byte block, in ascending order at the lowest free indices, each member of the stream in turn, with the bits of inactive elements
masked, and retire; where the journal or the stream has no room, or an access of the hart overlaps the run, they wait, STATE 3 (for the
last, log 13). -/
def Obligations.VectorStores : Prop :=
  ∀ (s : State) (c : Ctl) (m : MemOp) (a o : VReg) (x : XI) (b : Option Stream),
    let h := s.hart s.cur
    let rc := h.rc
    let base := h.ea m 16
    let w := accWidth (h.rv a.toNat).tag
    let stores := fun (i : Instr) (hd : Head) (kind : LoadKind) (stride : W64) (idx : Option VReg) (wf : BitVec 13) =>
      let rows := match idx with | some v => rowsOf v.toNat rc | none => []
      let wd := max w (widestOf (rows.map fun v => (h.rv v).fmt))
      let vl := h.vlAt wd
      let act := (List.range rc).flatMap fun j => (actives (h.guard c) vl).map fun e => (j, e)
      let index := fun j => h.rv ((idx.getD 0).toNat + j)
      let addr := fun (j e : Nat) => elemAddr kind base stride w vl j e (index j).data (index j).tag
      let put := fun (mem : Nat → Byte) (q : Nat × Nat) =>
        let p := placeOf s.cur (addr q.1 q.2)
        let code := h.elem (a.toNat + q.1) w q.2
        if w = 4 then
          withBytes mem p [if (q.1 * vl + q.2) % 2 = 1 then BitVec.ofNat 8 (16 * code) ||| (mem p &&& 0x0F)
            else BitVec.ofNat 8 code ||| (mem p &&& 0xF0)]
        else withBytes mem p (bytesOf (w / 8) code)
      let n := elemBytes w
      s.Admits c { hd with elem := true } → s.VReady 64 [] (rowsOf a.toNat rc ++ rows) →
      (∀ j < rc, accWidth (h.rv (a.toNat + j)).tag = w) → (kind ≠ .unit → w ≠ 4) → (∀ v ∈ rows, isInt (h.rv v).fmt = true) →
      (kind ≠ .gather → winOf base = 0 ∧ base.toNat % n = 0 ∧ stride.toNat % n = 0) →
      (∀ q ∈ act, s.Granted s.cur (addr q.1 q.2) n false true ∧ (addr q.1 q.2).toNat % n = 0 ∧ h.tileOrder (addr q.1 q.2) = false
        ∧ h.loadsOverlap s.cur (byteKey s.cur (addr q.1 q.2)) n = false) →
        ∃ u k, MemStep s u (act.foldl put s.byte)
          ∧ CompletesVia i s u c (Head.flags { hd with elem := true } c ||| wfIf 0 (h.vlClamps wd) ||| wf)
            { h with spent := k }
    let named := wfIf 11 (match b with | some t => decide (t.slot ≠ 0) | none => false)
    let run : Head := { streamHead b 0 with vs := [a], aV := true }
    let posted := fun (i : Instr) (ws : List Nat) =>
      let vl := h.vlAt w
      let act := (List.range rc).flatMap fun j => (actives (h.guard c) vl).map fun e => (j, e)
      let addr := fun (j e : Nat) => elemAddr .unit base 0 w vl j e 0 0
      let elem := fun (k : Nat) => if k < rc * vl ∧ (h.guard c).getLsbD (k % vl) = true then some (h.elem (a.toNat + k / vl) w (k % vl)) else none
      let byte := fun (o : Nat) =>
        if w = 4 then BitVec.ofNat 8 ((elem (2 * o)).getD 0 + 16 * (elem (2 * o + 1)).getD 0)
        else BitVec.ofNat 8 ((elem (8 * o / w)).getD 0 / 2 ^ (8 * o % w))
      let mask := fun (o : Nat) =>
        if w = 4 then BitVec.ofNat 2 ((if (elem (2 * o)).isSome then 1 else 0) + if (elem (2 * o + 1)).isSome then 2 else 0)
        else if (elem (8 * o / w)).isSome then 3 else 0
      let start := base.toNat
      let size := (rc * vl * w + 7) / 8
      let blocks := (start + size + 255) / 256 - start / 256
      let lo := fun (k : Nat) => max start (256 * (start / 256 + k))
      let hi := fun (k : Nat) => min (start + size) (256 * (start / 256 + k + 1))
      let named := match b with | some t => t.slot.toNat | none => 0
      let joins := named ≠ 0 ∧ (h.slot named).isOpen ∧ (h.slot named).closing = false ∧ destMatches base (h.slot named).ptr = true
      let slot := if joins then named else 0
      let sl := h.slot slot
      let last := decide (slot ≠ 0) && match b with | some t => t.last | none => false
      let entry := fun (k : Nat) => ({
        addr := BitVec.ofNat 64 (lo k), seq := if slot = 0 then 0 else sl.seq + BitVec.ofNat 20 k, slot := BitVec.ofNat 4 slot
        last := last && decide (k + 1 = blocks), refused := false, mark := false, reason := 0, kind := 0, svc := h.svc, len := hi k - lo k
        pc := h.pc &&& 0x1FFFFF, asid := h.asid, data := (List.range (hi k - lo k)).map fun o => byte (lo k - start + o)
        mask := (List.range (hi k - lo k)).map fun o => mask (lo k - start + o), strm := if slot = 0 then 0 else sl.num
        dest := if slot = 0 then 0 else sl.ptr, gen := if slot = 0 then 0 else sl.gen, stamp := s.nextStamp + k, rep := none
        rel := false, prio := c.prio
        ws := if winOf (BitVec.ofNat 64 (lo k)) = 0 ∨ winOf (BitVec.ofNat 64 (lo k)) = 1 then h.windows else [] } : JEntry)
      let free := (List.range 128).filter fun n => (h.entry n).isNone
      let order := ∃ k < blocks, h.tileOrder (BitVec.ofNat 64 (lo k)) = true
        ∨ h.entriesOverlap s.cur (byteKey s.cur (BitVec.ofNat 64 (lo k))) (hi k - lo k) (if slot = 0 then 0 else sl.gen) = true
        ∨ h.loadsOverlap s.cur (byteKey s.cur (BitVec.ofNat 64 (lo k))) (hi k - lo k) = true
      let room := blocks ≤ free.length ∧ (slot ≠ 0 → h.members sl.gen + blocks ≤ 64)
      let sent := (List.range blocks).foldl (fun t k => t.send (s.cur / 4) (entryDest s.cur (entry k)) c.prio h.part
        (.write s.cur (free.getD k 0) (entry k))) { s with nextStamp := s.nextStamp + blocks }
      let taken := (List.range blocks).foldl (fun y k => y.setEntry (free.getD k 0) (some (entry k))) h
      let after := if slot = 0 then taken
        else taken.setSlot slot { sl with seq := sl.seq + BitVec.ofNat 20 blocks, isOpen := sl.isOpen && !last }
      s.Admits c { run with elem := true } → s.VReady 64 [] (rowsOf a.toNat rc) → (∀ j < rc, accWidth (h.rv (a.toNat + j)).tag = w) →
      winOf (match act.head? with | some q => addr q.1 q.2 | none => base) ≠ 0 → s.runTrap ws base 0 w true act addr = none →
        (room → ¬order → ∃ k, CompletesVia i s sent c
          (Head.flags { run with elem := true } c ||| wfIf 0 (h.vlClamps w) ||| wfIf 12 (decide (slot ≠ named)))
          { after with spent := k })
        ∧ (¬room ∨ order → Stalls i s .waiting 0)
    stores (.vst c m a b) run .unit 0 none named ∧ stores (.rvst c m a b) run .unit 0 none named
      ∧ stores (.vsts c m a x) { vs := [a], aV := true } .strided (h.xi x) none 0
      ∧ stores (.vscat c m a o) { vs := [a, o], aV := true, bV := true } .gather 0 (some o) 0
      ∧ posted (.vst c m a b) [0, 2] ∧ posted (.rvst c m a b) [0, 1, 2, 3]

/-- 07 R224 to R226: STOPEN binds a closed slot to its destination's 256-byte aligned pointer with SEQ 0 under a fresh binding (that the
slot keeps the pointer with bits [7:0] zero is log 38), traps WIN for window 00, and closes an open slot first as STCLOSE does; STCLOSE of
an open slot posts its marker and waits, as it does without room for one; it frees the slot once no member is outstanding. SFENCE
waits for the slot's entries. 07 R219, R222: in service JRD gives the words of an entry, all zero for a free one; JREPOST sends a
refused entry again with its address, data, slot and SEQ, its REASON cleared (log 13) and under the store guards as they now stand (log 38);
JDROP frees one, and sends a stream's destination a skip. Outside service, or on an entry of another ASID, they trap DOM. JRD of an entry
whose words hold an uncorrectable error traps POISON (19 R430; log 26). -/
def Obligations.StreamsAndJournal : Prop :=
  (∀ (s : State) (c : Ctl) (n : BitVec 4) (x : XReg) (b : XU 8) (t : Stream),
      let h := s.hart s.cur
      let hd := fun (n : BitVec 4) (l : Bool) => ({ barred := decide (4 < n.toNat), last0 := l } : Head)
      let w := (hd n false).flags c
      let sl := h.slot n.toNat
      let p := h.rx x
      (s.Admits c (hd n false) → winOf p ≠ 0 → sl.isOpen = false → sl.closing = false →
        CompletesVia (.stopen c n x b) s { s with nextStamp := s.nextStamp + 1 } c w (h.setSlot n.toNat
          { isOpen := true, closing := false, num := h.xu b, seq := 0, ptr := p &&& ~~~0xFF, gen := s.nextStamp + 1 }))
      ∧ (s.Admits c (hd n false) → winOf p = 0 → s.CanTrap s.cur → TrapsWith (.stopen c n x b) s 0x04 p 0)
      ∧ (s.Admits c (hd n false) → winOf p ≠ 0 → sl.closing = true → h.members sl.gen = 0 →
        CompletesVia (.stopen c n x b) s { s with nextStamp := s.nextStamp + 1 } c w (h.setSlot n.toNat
          { isOpen := true, closing := false, num := h.xu b, seq := 0, ptr := p &&& ~~~0xFF, gen := s.nextStamp + 1 }))
      ∧ (s.Admits c (hd n false) → winOf p ≠ 0 → (sl.closing = true ∧ h.members sl.gen ≠ 0
            ∨ sl.closing = false ∧ sl.isOpen = true ∧ ((∀ k < 128, (h.entry k).isSome = true) ∨ 64 ≤ h.members sl.gen)) →
          Stalls (.stopen c n x b) s .waiting 0 ∧ Stalls (.stclose c n) s .waiting 0)
      ∧ (s.Admits c (hd n false) → sl.closing = false → sl.isOpen = false → Completes (.stclose c n) s c w h)
      ∧ (s.Admits c (hd n false) → sl.closing = true → h.members sl.gen = 0 →
        Completes (.stclose c n) s c w (h.setSlot n.toNat { sl with isOpen := false, closing := false }))
      ∧ (∀ i ins, ins = .stclose c n ∨ ins = .stopen c n x b ∧ winOf p ≠ 0 → n ≠ 0 → s.Admits c (hd n false) → sl.closing = false →
        sl.isOpen = true → h.lowestFree i → h.members sl.gen < 64 → ∃ t e, exec ins s = .next t ∧ (t.hart s.cur).slot n.toNat = { sl with seq := sl.seq + 1, closing := true }
          ∧ (t.hart s.cur).entry i = some e ∧ e.addr = sl.ptr ∧ e.mark = true ∧ e.kind = 4 ∧ e.len = 0 ∧ e.seq = sl.seq
          ∧ e.slot = n ∧ e.gen = sl.gen ∧ (t.hart s.cur).own = .waiting ∧ (t.hart s.cur).pc = h.pc)
      ∧ (s.Admits c (hd t.slot t.last) →
        let pending := if t.slot = 0 then h.ents.any (fun e => decide (e.2.slot = 0)) else decide (h.members (h.slot t.slot.toNat).gen ≠ 0)
        (pending = true → Stalls (.sfence c t) s .waiting 0)
          ∧ (pending = false → Completes (.sfence c t) s c ((hd t.slot t.last).flags c) h)))
  ∧
  (∀ (s : State) (c : Ctl) (d : XReg) (a : XU 7) (k : BitVec 2),
      let h := s.hart s.cur
      let i := (h.xu a).toNat
      let w := Head.flags {} c
      let flag := fun (b : Bool) (n : Nat) => if b then 2 ^ n else 0
      let word := fun (e : JEntry) => match k.toNat with
        | 0 => e.addr.toNat
        | 1 => e.seq.toNat * 2 ^ 44 + e.slot.toNat * 2 ^ 40 + flag e.last 39 + (if e.refused then 2 else 1) * 2 ^ 37 + flag e.mark 36
            + e.reason.toNat * 2 ^ 32 + e.kind.toNat * 2 ^ 29 + flag e.svc 28 + e.len
        | _ => e.pc.toNat * 2 ^ 32 + e.asid.toNat
      (s.Admits c {} → h.svc = true → (∀ e, h.entry i = some e → e.asid = h.asid) →
        (∀ e, h.entry i = some e → e.bad = false → WritesX (.jrd c d a k) s c 0 d (BitVec.ofNat 64 (word e)))
        ∧ (∀ e, h.entry i = some e → e.bad = true → s.CanTrap s.cur → ∃ addr info, TrapsWith (.jrd c d a k) s 0x09 addr info)
        ∧ (h.entry i = none → WritesX (.jrd c d a k) s c 0 d 0)
        ∧ (∀ e, h.entry i = some e → e.refused = true →
          let e' := { e with refused := false, reason := 0, prio := c.prio
                             ws := if winOf e.addr = 0 ∨ winOf e.addr = 1 then h.windows else [] }
          CompletesVia (.jrepost c a) s (s.send (s.cur / 4) (entryDest s.cur e) c.prio h.part (.write s.cur i e')) c w
              (h.setEntry i (some e'))
            ∧ CompletesVia (.jdrop c a) s (if e.gen = 0 then s
                else s.send (s.cur / 4) (entryDest s.cur e) c.prio h.part (.skip s.cur e.strm e.seq e.dest e.gen)) c w (h.setEntry i none))
        ∧ ((∀ e, h.entry i = some e → e.refused = false) → Completes (.jrepost c a) s c w h ∧ Completes (.jdrop c a) s c w h))
      ∧ (s.Admits c {} → s.CanTrap s.cur → (h.svc = false ∨ ∃ e, h.entry i = some e ∧ e.asid ≠ h.asid) →
        ∀ ins ∈ [Instr.jrd c d a k, .jrepost c a, .jdrop c a], TrapsWith ins s 0x0A 0 (BitVec.ofNat 64 (0x5000 + i))))

/-- 07 R227: FENCE.REL waits, STATE 3, for the journal count of its scope, FENCE.ACQ until every element group of the hart's asynchronous
loads has landed, those of a load stopped at a fault among them (the model's reading: log 38), FENCE.AR for both. 14 R346, R350: a
release makes RCLK of the hart its CLK and raises its epoch by 1, after a race reset where that would pass 65,535; an acquire by a fence
joins into CLK the RCLK of all eight agents. -/
def Obligations.Fences : Prop :=
  ∀ (s : State) (c : Ctl) (k : Scope), s.Admits c {} →
    let h := s.hart s.cur
    let w := Head.flags {} c
    let count := fun z => (h.ents.filter fun e => decide (scopeOf s.cur e.2.addr = z)).length
    let quiet := match k with | .tile => count 0 = 0 | .dev => count 0 + count 1 = 0 | .sys => h.ents = []
    let landed := ∀ v ∈ h.v, v.2.flight = none ∧ (v.2.lrec = none ∨ 64 ≤ v.2.pi)
    let passes := fun i => ∃ u, MemStep s u s.byte ∧ CompletesVia i s u c w h
    (quiet → passes (.fenceRel c k)) ∧ (¬quiet → Stalls (.fenceRel c k) s .waiting 0)
      ∧ (landed → passes (.fenceAcq c k)) ∧ (¬landed → Stalls (.fenceAcq c k) s .waiting 0)
      ∧ (quiet → landed → passes (.fenceAr c k)) ∧ (¬(quiet ∧ landed) → Stalls (.fenceAr c k) s .waiting 0)
      ∧ let me := s.cur % 4
        let tl := s.tile (s.cur / 4)
        let anew := decide (65535 ≤ mget 0 tl.clk (8 * me + me))
        let before := fun (m : SMap Nat) (a j : Nat) => if anew then 0 else mget 0 m (8 * a + j)
        (quiet → ∃ t, exec (.fenceRel c k) s = .next t ∧
          let x := t.tile (s.cur / 4)
          x.tags = (if anew then [] else tl.tags)
          ∧ ∀ a < 8, ∀ j < 8,
            mget 0 x.clk (8 * a + j) = before tl.clk a j + (if a = me ∧ j = me then 1 else 0)
            ∧ mget 0 x.rclk (8 * a + j) = if a = me then before tl.clk me j else before tl.rclk a j)
        ∧ (landed → ∃ t, exec (.fenceAcq c k) s = .next t ∧
          let x := t.tile (s.cur / 4)
          x.tags = tl.tags ∧ x.rclk = tl.rclk
          ∧ ∀ a < 8, ∀ j < 8, mget 0 x.clk (8 * a + j) =
            if a = me then (List.range 8).foldl (fun m b => max m (mget 0 tl.rclk (8 * b + j))) (mget 0 tl.clk (8 * me + j))
            else mget 0 tl.clk (8 * a + j))

/-- 07 R231 to R234, 09 R253, R256: SEND takes a slot of the platform that the next strip goes to and sends one token that ends its
strip; without a slot it waits, STATE 2 at its port. CEND sends an end token in the same way, and on a DEAL channel one to every
platform. A port unbound, or bound to read, traps DOM of kind 3. 07 R232; 09 R254, R256, R257: RECV takes the first token of its
platform, on a MERGE channel that of the turn, returns its slot, and gives x[D] a data token and p[B] whether it was an end; a strip's last
token moves the turn on. On a MERGE channel an end only takes its platform out of the turns until the last one's is delivered. RECV waits,
STATE 1 at its port, where no token stands. A poisoned token traps POISON. -/
def Obligations.ChannelTransfers : Prop :=
  (∀ (s : State) (c : Ctl) (k : KReg) (x : XI) (b : PortBinding), s.Admits c { barred := true } →
      let h := s.hart s.cur
      let w := Head.flags { barred := true } c
      let ch := s.chan b.part b.chan
      let i := match ch.mode with | .normal => 0 | .deal => ch.strip % max 1 ch.f | .merge => b.idx
      let sends := fun (t : Token) =>
        (((s.modChan b.part b.chan fun y => y.takeSlots i 1).send (s.cur / 4) (.ep (s.endEp b.part (ch.readerOf i))) c.prio (some b.part)
          (.tokens b.part b.chan i [t])).modChan b.part b.chan fun y => if y.mode = .deal then { y with strip := y.strip + 1 } else y)
      let word : Token := { data := h.xi x, isEnd := false, stripEnd := true, bad := false }
      let fin : Token := { data := 0, isEnd := true, stripEnd := true, bad := false }
      (h.rk k = some b → b.out = true →
        (ch.slotCount i = 0 → Stalls (.send c k x) s .blockedWrite k)
        ∧ (ch.slotCount i ≠ 0 → CompletesVia (.send c k x) s (sends word) c w h)
        ∧ (ch.mode ≠ .deal → ch.slotCount i = 0 → Stalls (.cend c k) s .blockedWrite k)
        ∧ (ch.mode ≠ .deal → ch.slotCount i ≠ 0 → CompletesVia (.cend c k) s (sends fin) c w h)
        ∧ (ch.mode = .deal → (∃ j < ch.f, ch.slotCount j = 0) → Stalls (.cend c k) s .blockedWrite k)
        ∧ (ch.mode = .deal → (∀ j < ch.f, ch.slotCount j ≠ 0) →
          CompletesVia (.cend c k) s (((List.range ch.f).foldl (fun u j => u.sendStrip (s.cur / 4) c.prio b.part b.chan j [endToken]) s).modChan
            b.part b.chan fun y => { y with strip := 0 }) c w h))
      ∧ ((∀ b, h.rk k = some b → b.out = false) → s.CanTrap s.cur →
        TrapsWith (.send c k x) s 0x0A 0 (BitVec.ofNat 64 (0x3000 + k.toNat))
          ∧ TrapsWith (.cend c k) s 0x0A 0 (BitVec.ofNat 64 (0x3000 + k.toNat))))
  ∧
  (∀ (s : State) (c : Ctl) (d : XReg) (k : KReg) (q : Option PReg) (b : PortBinding),
      let hd : Head := { barred := true, ps := q.toList }
      let h := s.hart s.cur
      let ch := s.chan b.part b.chan
      let i := match ch.mode with | .normal => 0 | .deal => b.idx | .merge => ch.turn
      let next := fun (e : List Nat) => (((List.range ch.f).map fun n => (ch.turn + 1 + n) % ch.f).find? fun n => !e.contains n).getD ch.turn
      let all := ∀ n < ch.f, n = ch.turn ∨ n ∈ ch.ended
      let gives := fun (t : Token) (y : Hart) =>
        let y := if t.isEnd then y else y.wx d t.data
        match q with | none => y | some z => y.wp z (if t.isEnd then BitVec.allOnes 2048 else 0)
      let takes := fun (t : Token) (r : List Token) (turn : Nat) (ended : List Nat) =>
        CompletesVia (.recv c d k q) s
          ((s.modChan b.part b.chan fun y =>
              { y.setPlat i { ch.plat i with head := ((ch.plat i).head + 1) % max 1 (ch.plat i).cap, toks := r } with
                turn := turn, ended := ended }).send (s.cur / 4)
            (.ep (s.endEp b.part (ch.writerOf i))) c.prio (some b.part) (.slots b.part b.chan i 1)) c (hd.flags c) (gives t h)
      s.Admits c hd → h.rk k = some b → b.out = false →
        ((ch.plat i).toks = [] → Stalls (.recv c d k q) s .blockedRead k)
        ∧ (∀ t r, (ch.plat i).toks = t :: r →
          (t.bad = false → ch.mode ≠ .merge → takes t r ch.turn ch.ended)
          ∧ (t.bad = false → ch.mode = .merge → t.isEnd = false → takes t r (if t.stripEnd then next ch.ended else ch.turn) ch.ended)
          ∧ (t.bad = false → ch.mode = .merge → t.isEnd = true → all → takes t r 0 [])
          ∧ (t.bad = true → (ch.mode = .merge → t.isEnd = true → all) → s.CanTrap s.cur →
            ∃ addr, TrapsWith (.recv c d k q) s 0x09 addr 0))
        ∧ (∀ z, ch.receive b.idx 1 = some z → z.bad = false →
          CompletesVia (.recv c d k q) s (s.consume (s.cur / 4) c.prio b.part b.chan z) c (hd.flags c)
            (let y := match z.data with | v :: _ => h.wx d v | [] => h
             match q with | none => y | some p => y.wp p (if z.ended then BitVec.allOnes 2048 else 0))))

/-- 07 R233: VSEND sends ceil(VL × w / 64) tokens for each row, the bits of inactive elements as zero, and waits for all the slots;
VRECV takes as many tokens, up to an end, and gives the active elements of each row their bits. 07 R232, R233; 09 R254, R257: what a receive
takes: of one platform the tokens as they stand, up to the number asked for or the first end, and nothing where neither stands there; of a
MERGE channel the tokens of the platforms by turns, and nothing while the platform of the turn is empty; what it takes leaves its
platforms. -/
def Obligations.VectorChannels : Prop :=
  (∀ (s : State) (c : Ctl) (k : KReg) (v : VReg) (q : Option PReg) (b : PortBinding),
    let h := s.hart s.cur
    let rc := h.rc
    let ch := s.chan b.part b.chan
    let cw := if b.fmt = .raw then 8 else fmtWidth b.fmt
    let vl := h.vlAt cw
    let n := (vl * cw + 63) / 64
    let out : Head := { barred := true, vs := [v], aV := true, elem := true }
    let inp : Head := { barred := true, vs := [v], ps := q.toList, elem := true }
    (h.rk k = some b → b.out = true → s.Admits c out → h.resumeAt 64 = none → (∀ j < rc, h.rowFmt v.toNat j = b.fmt ∨ h.rowFmt v.toNat j = .raw) →
      let i := ch.target b.idx
      (ch.slotCount i < rc * n → Stalls (.vsend c k v) s .blockedWrite k)
      ∧ (rc * n ≤ ch.slotCount i → (∀ j < rc, (h.rv (v.toNat + j)).pi = 64 ∧ (h.rv (v.toNat + j)).poisoned = false) →
        ∃ (ts : List W64) (spent : Nat), ts.length = rc * n
          ∧ (∀ j < rc, ∀ t < n, ∀ z < 64, (ts.getD (j * n + t) 0).getLsbD z =
              (decide ((64 * t + z) / cw < vl) && (h.guard c).getLsbD ((64 * t + z) / cw)
                && (h.rv (v.toNat + j)).data.getLsbD (64 * t + z)))
          ∧ CompletesVia (.vsend c k v) s ((s.sendStrip (s.cur / 4) c.prio b.part b.chan i (ts.map dataToken)).nextStrip b.part b.chan) c
            (out.flags c ||| wfIf 0 (h.vlClamps cw)) { h with spent := spent }))
    ∧ (h.rk k = some b → b.out = false → s.Admits c inp → (∀ j < rc, s.vBusy s.cur (v.toNat + j) = false) →
      (ch.receive b.idx (rc * n) = none → Stalls (.vrecv c v k q) s .blockedRead k)
      ∧ ∀ r, ch.receive b.idx (rc * n) = some r → r.bad = false →
        ∃ a, VWrites h a v.toNat rc (fun _ => cw) (fun _ => plainTag b.fmt) 0 (fun j e =>
            if e < vl ∧ (h.guard c).getLsbD e = true ∧ j * n + e * cw / 64 < r.data.length then
              some ((r.data.getD (j * n + e * cw / 64) 0).toNat / 2 ^ (e * cw % 64) % 2 ^ cw, 0)
            else none)
          ∧ CompletesVia (.vrecv c v k q) s (s.consume (s.cur / 4) c.prio b.part b.chan r) c (inp.flags c ||| wfIf 0 (h.vlClamps cw))
            (match q with | none => a | some z => a.wp z (if r.ended then BitVec.allOnes 2048 else 0))))
  ∧
  (∀ (ch : Chan) (idx n : Nat),
    let toks := (ch.plat (if ch.mode = .deal then idx else 0)).toks
    let ds := toks.takeWhile fun t => !t.isEnd
    let start : Taken := { data := [], ended := false, counts := [], turn := ch.turn, endedSet := ch.ended, bad := false }
    (ch.mode ≠ .merge →
      (ch.receive idx n = none ↔ ds.length < n ∧ toks.length = ds.length)
      ∧ ∀ r, ch.receive idx n = some r →
        r.data = (ds.take n).map (fun t => t.data) ∧ r.ended = decide (ds.length < n) ∧ r.turn = ch.turn ∧ r.endedSet = ch.ended
          ∧ r.counts = [(if ch.mode = .deal then idx else 0, if ds.length < n then ds.length + 1 else n)]
          ∧ r.bad = (toks.take (if ds.length < n then ds.length + 1 else n)).any fun t => t.bad)
    ∧ (ch.mode = .merge → n ≠ 0 → (ch.plat ch.turn).toks = [] → ch.receive idx n = none)
    ∧ (ch.mode = .merge → ∀ r, ch.receive idx n = some r → TakenByTurns ch n start r))
  ∧
  (∀ (s : State) (src p c : Nat) (prio : BitVec 2) (k : Taken),
    let u := s.consume src prio p c k
    (k.counts.map fun e => e.1).Nodup → ∀ i,
      ((u.chan p c).plat i).toks = ((s.chan p c).plat i).toks.drop (mget 0 k.counts i) ∧ (u.chan p c).turn = k.turn
        ∧ (u.chan p c).ended = k.endedSet ∧ (∀ j, u.hart j = s.hart j) ∧ ∀ x, u.byte x = s.byte x)

/-- 07 R235 to R238, 01 R17, R40: CPGO queues the hart's copy set under its next transfer id and counts up its token, or waits, STATE 3,
for a place; CPSTAT gives a transfer's state; WAIT waits for the counts of its mask, then takes the trap of the lowest failure and
clears its record, or retires. -/
def Obligations.CopyInstructions : Prop :=
  ∀ (s : State) (c : Ctl) (d : XReg) (n : WReg) (a : XU 16) (m : XU 8),
    let h := s.hart s.cur
    let queue := (s.tile (s.cur / 4)).copyq
    let tok := h.rw n.toNat
    let x : Xfer := {
      set := h.copy, id := h.nextXfer, w := n, asid := h.asid, hart := s.cur, prio := c.prio, running := false, row := 0, off := 0
      copied := 0, ws := h.windows, wait := none, piece := none, ahead := [], stamp := s.nextStamp }
    let word := match queue.find? fun z => decide (z.hart = s.cur) && decide (z.id = h.xu a) with
      | none => 0 | some z => if z.running then 2 + z.copied * 2 ^ 32 else 1
    let tokens := (List.range 8).filter fun k => (h.xu m).getLsbD k
    let w := Head.flags { barred := true } c
    (s.Admits c { barred := true } →
      (queue.length < 16 → tok.count ≠ BitVec.allOnes 16 →
        ∃ r, MemStep { s with nextStamp := s.nextStamp + 1 } r s.byte ∧ CompletesVia (.cpgo c d n) s (r.modTile (s.cur / 4) fun y => { y with copyq := queue ++ [x] }) c w
          { (h.ww n.toNat { tok with count := tok.count + 1 }).wx d (h.nextXfer.setWidth 64) with nextXfer := h.nextXfer + 1 })
      ∧ (16 ≤ queue.length ∨ tok.count = BitVec.allOnes 16 → Stalls (.cpgo c d n) s .waiting 0))
    ∧ (s.Admits c { nd := true } → WritesX (.cpstat c d a) s c 0 d (BitVec.ofNat 64 word))
    ∧ (s.Admits c { barred := true } →
      ((∃ k ∈ tokens, (h.rw k).count ≠ 0) → Stalls (.wait c m) s .waiting 0)
      ∧ ((∀ k ∈ tokens, (h.rw k).count = 0 ∧ (h.rw k).fail = none) → ∃ u, MemStep s u s.byte ∧ CompletesVia (.wait c m) s u c w h)
      ∧ ∀ k f, (∀ j ∈ tokens, (h.rw j).count = 0) → k ∈ tokens → (∀ j ∈ tokens, j < k → (h.rw j).fail = none) →
        (h.rw k).fail = some f → s.CanTrap s.cur →
          ∃ t, exec (.wait c m) s = .next t
            ∧ Enters (s.modHart s.cur fun y => y.ww k { h.rw k with fail := none }) t s.cur h.pc
              (Trap.mk' f.cause f.addr (BitVec.ofNat 64 (0x10000 + f.id.toNat))))

/-- 07 R218, R220, R221: an acknowledgement frees its entry; a refusal marks it with its reason, and one for a fatal context error holds
the hart; a refused entry that the hart's ASID and mode let it report traps REFUSE, asynchronously, oldest first, and once at a depth. -/
def Obligations.JournalReplies : Prop :=
  ∀ (s : State) (p : Nat) (q : Packet) (h i stamp : Nat) (reason : BitVec 4) (e : JEntry),
    let a := s.hart h
    (s.Arrived p q → q.msg = .ack h i stamp → a.entry i = some e → e.stamp = stamp →
      ∃ t, Becomes (.journalAck p) s t ∧ OnHart (s.without p) t h (a.setEntry i none) ∧ (t.hart h).entry i = none)
    ∧ (s.Arrived p q → q.msg = .nack h i stamp reason → a.entry i = some e → e.stamp = stamp →
      let b := a.setEntry i (some { e with refused := true, reason := reason })
      (reason ≠ 7 → ∃ t, Becomes (.entryRefused p) s t ∧ OnHart (s.without p) t h b)
      ∧ (reason = 7 → ¬(1045 ≤ q.src ∧ q.src < 1053) →
        ∃ t, Becomes (.entryRefused p) s t ∧ OnHart (s.without p) t h { b with pend := none, fatal := some e.addr }))
    ∧ ((i, e) ∈ a.ents → e.refused = true → e.rep = none → e.asid = a.asid → (a.svc = true → e.svc = true) →
      (∀ x ∈ a.ents, x.2.refused = true → x.2.rep = none → x.2.asid = a.asid → (a.svc = true → x.2.svc = true) →
        x = (i, e) ∨ e.stamp < x.2.stamp) →
      s.CanTrap h → a.held = false → a.stopped = false → a.own ≠ .parked → a.unwind = none → a.fatal = none → a.pend = none →
      a.inMiddle = false →
        ∃ u t, Becomes (.refuseTrap h) s t
          ∧ Enters s u h a.pc { cause := 0x08, addr := e.addr, info := BitVec.ofNat 64 i, defer := false, async := true }
          ∧ OnHart u t h ((u.hart h).setEntry i (some { e with rep := some (8 * a.gdepth.toNat + a.td.toNat + 1) })))

/-- 07 R205, R211, R215, R218, R230, R240; 02 R77; 18 R391: a tile that may perform a posted write, FCLR, FADDX or BARA changes exactly
its bytes, then acknowledges it; one that no window admits is answered with a refusal of reason 1, one whose own words are poisoned with
reason 5 (19 R430), and changes nothing. It is checked under the windows of its hart as they were when it was posted, and none of them is
known of an entry restored from bytes alone (log 38). 18 R395 to R399: a memory station performs a write under a translation that it
holds, sets A and D, and answers; without a translation it refuses with reason 2, without WR with reason 3, and a write through window
11 that lacks a translation or PIN with reason 7, after a record in its fault log. 07 R222, R224, R225: a stream's first member activates it
at its destination, later ones wait there, and a number in use by another sender refuses them with reason 6; the member whose SEQ is next
is performed and acknowledged, and LAST or the marker frees the number, but for members of the next binding that have come already; a
skip lets the stream pass its SEQ, and activates it where it comes first (log 38). Bytes 17 to 31 of a barrier object and 53 to 63 of an
exact cell stay (log 36). -/
def Obligations.PostedWritesPerformed : Prop :=
  (∀ (s : State) (p : Nat) (q : Packet) (ep h i : Nat) (e : JEntry), s.Arrived p q → q.msg = .write h i e → q.dst = .ep ep → ep < 1024 →
      s.frozenBy q = none → e.gen = 0 →
      let o := offOf e.addr
      let n := if e.kind = 0 then e.data.length else if e.kind = 3 then 32 else 64
      let a := storeBase ep + o
      let own : Prop := winOf e.addr = 1 ∧ h < 4096 ∧ h / 4 = ep
      let all := s.tileWindows ep
      let ws := if e.ws = [] then s.windowsFor ep h e.addr else if winOf e.addr = 0 then e.ws
        else if own then all.take (8 * (h % 4)) ++ e.ws ++ all.drop (8 * (h % 4) + 8) else all
      let acks := fun (k : Instr) (mem : Nat → Byte) => ∃ u, MemStep (s.without p) u mem
        ∧ Becomes k s (u.send ep (replyTo h) q.prio q.part (.ack h i e.stamp))
      let refuses := fun (k : Instr) (why : BitVec 4) => Becomes k s ((s.without p).send ep (replyTo h) q.prio q.part (.nack h i e.stamp why))
      (e.bad = true → (e.kind = 0 → refuses (.postedWriteArrival p) 5) ∧ (e.kind = 2 → refuses (.postedWriteArrival p) 5)
        ∧ (e.kind = 1 → refuses (.faddxPerformed p) 5) ∧ (e.kind = 3 → refuses (.baraPerformed p) 5))
      ∧ (e.bad = false → s.Permits ep ws e.asid o n (decide (e.kind ≠ 0)) true →
        (e.kind = 0 → e.mask.length = e.data.length → acks (.postedWriteArrival p) (withMasked s.byte a e.data e.mask))
        ∧ (e.kind = 2 → acks (.postedWriteArrival p) (withBytes s.byte a (List.replicate 64 0)))
        ∧ (e.kind = 1 → acks (.faddxPerformed p) (withBytes s.byte a (afterAdd (leNat e.data) (s.peek a 64))))
        ∧ (e.kind = 3 → acks (.baraPerformed p) (withBytes s.byte a (afterArrival (leNat e.data) (s.peek a 32)))))
      ∧ (e.bad = false → guardFor ws e.asid o = none → e.rel = false →
        (e.kind = 0 → (∃ m r, e.mask = m :: r ∧ m ≠ 0) → refuses (.postedWriteArrival p) 1)
        ∧ (e.kind = 2 → refuses (.postedWriteArrival p) 1) ∧ (e.kind = 1 → refuses (.faddxPerformed p) 1)
        ∧ (e.kind = 3 → refuses (.baraPerformed p) 1)))
  ∧
  (∀ (s : State) (p : Nat) (q : Packet) (k h i : Nat) (e : JEntry), s.Arrived p q → q.msg = .write h i e → q.dst = .ep (1024 + k) → k < 20 →
      s.frozenBy q = none → s.mayServeAt k q.part = true → e.gen = 0 → e.kind = 0 → e.bad = false → e.mark = false →
      e.mask.length = e.data.length → (∃ m ∈ e.mask, m ≠ 0) →
      let va := vaOf e.addr
      let n := e.data.length
      let u := match q.part with | some m => (s.without p).chargeAt k m e.len | none => s.without p
      let refuses := fun (v : State) (why : BitVec 4) =>
        Becomes (.postedWriteArrival p) s (v.send (1024 + k) (replyTo h) q.prio q.part (.nack h i e.stamp why))
      let fatal := u.modStation k fun x => { x with
        flog := { asid := e.asid, va := e.addr, node := h / 4096 - 1, ep := h % 4096 / 4, write := true } :: x.flog }
      let hit := (s.station k).tlb.find? fun l => decide (l.asid = e.asid) && decide (l.va ≤ va) && decide (va < l.va + l.size)
      (∀ l, hit = some l → l.wr = true → (4096 ≤ h → l.pin = true) → va % 65536 + n ≤ 65536 →
        let pa := l.pa + (va - l.va)
        servedBy pa = k → pa % 4096 + n ≤ 4096 → pa + n ≤ bridgeBase → (l.at_ + 8 ≤ pa ∨ pa + n ≤ l.at_) →
        (∀ x ∈ s.poison, x + unitLen x ≤ pa ∨ pa + n ≤ x) →
          ∃ v, MemStep (u.modStation k fun x => { x with recent := (e.asid, va) :: x.recent }) v
              (withMasked (withBytes s.byte l.at_ (bytesOf 8 (s.peek64 l.at_ ||| BitVec.twoPow 64 58 ||| BitVec.twoPow 64 57).toNat))
                pa e.data e.mask)
            ∧ Becomes (.postedWriteArrival p) s (v.send (1024 + k) (replyTo h) q.prio q.part (.ack h i e.stamp)))
      ∧ (hit = none → s.walk e.asid va = none → if h < 4096 then refuses u 2 else refuses fatal 7)
      ∧ (∀ l, hit = some l → l.wr = false → refuses u 3)
      ∧ (∀ l, hit = some l → l.wr = true → 4096 ≤ h → l.pin = false → refuses fatal 7))
  ∧
  (∀ (s : State) (p : Nat) (q : Packet) (ep h i : Nat) (e : JEntry), q.msg = .write h i e → q.dst = .ep ep → e.gen ≠ 0 →
      let l := s.streamsAt ep
      let others := l.filter fun y => !(decide (y.sender = h) && decide (y.num = e.strm))
      (s.Arrived p q → s.behind q = false →
        ((∀ y ∈ l, y.num ≠ e.strm) → Becomes (.postedWriteArrival p) s
          ((s.without p).setStreams ep ({ sender := h, num := e.strm, next := 0, held := [q], skips := [], busy := none, gen := e.gen } :: l)))
        ∧ ∀ x, (l.find? fun y => decide (y.num = e.strm)) = some x →
          (x.sender ≠ h → Becomes (.postedWriteArrival p) s ((s.without p).send ep (replyTo h) q.prio q.part (.nack h i e.stamp 6)))
          ∧ (x.sender = h → Becomes (.postedWriteArrival p) s ((s.without p).setStreams ep
              ({ x with
                next := if e.seq = 0 ∧ x.held = [] ∧ x.busy = none ∧ e.gen ≠ x.gen then 0 else x.next
                held := x.held ++ [q], gen := e.gen } :: others))))
      ∧ (∀ x, ep < 1024 → s.frozenBy q = none → e.bad = false → x.busy = none →
        (l.find? fun y => decide (y.sender = h) && decide (y.num = e.strm)) = some x →
        (x.held.find? fun r => decide (memberSeq r = x.next)) = some q → x.skips = [] →
          let o := offOf e.addr
          let ack := fun (u : State) => (u.send ep (replyTo h) q.prio q.part (.ack h i e.stamp)).progress q.part
          let y : StreamSt := { x with held := x.held.filter fun r => decide (r.id ≠ q.id), next := x.next + 1 }
          let after := fun (u : State) =>
            let rest := (u.streamsAt ep).filter fun y => !(decide (y.sender = h) && decide (y.num = e.strm))
            u.setStreams ep (if (e.last || e.mark) = false then y :: rest else if y.held = [] then rest else { y with next := 0 } :: rest)
          let all := s.tileWindows ep
          let ws := if e.ws = [] then s.windowsFor ep h e.addr else if winOf e.addr = 0 then e.ws
            else if winOf e.addr = 1 ∧ h < 4096 ∧ h / 4 = ep then all.take (8 * (h % 4)) ++ e.ws ++ all.drop (8 * (h % 4) + 8) else all
          (e.kind = 0 → e.mask.length = e.data.length → s.Permits ep ws e.asid o e.data.length false true →
            ∃ u, MemStep s u (withMasked s.byte (storeBase ep + o) e.data e.mask)
              ∧ Becomes (.streamMemberCommit ep h e.strm.toNat) s (after (ack u)))
          ∧ (e.kind = 4 → ∃ u, MemStep s u s.byte ∧ Becomes (.streamMemberCommit ep h e.strm.toNat) s (after (ack u))))
      ∧ ∀ (n : Nat) (r : Packet) (num : BitVec 8) (seq : BitVec 20) (dest : W64) (gen : Nat), s.Arrived n r → r.msg = .skip h num seq dest gen →
        r.dst = .ep ep → s.behind r = false →
          ((∀ y ∈ l, y.num ≠ num) → Becomes (.streamSkip n) s ((s.without n).setStreams ep
            ((if seq = 0 then { sender := h, num := num, next := 1, held := [], skips := [], busy := none, gen := gen }
              else { sender := h, num := num, next := 0, held := [], skips := [seq], busy := none, gen := gen }) :: l)))
          ∧ ∀ x, (l.find? fun y => decide (y.num = num)) = some x → x.sender = h → x.skips = [] →
            let anew : Prop := x.held = [] ∧ x.busy = none ∧ gen ≠ x.gen
            let put := fun (y : StreamSt) => Becomes (.streamSkip n) s ((s.without n).setStreams ep
              (y :: l.filter fun y => !(decide (y.sender = h) && decide (y.num = num))))
            (¬anew → x.next = seq → put { x with next := seq + 1 })
              ∧ (anew → seq = 0 → put { x with next := 1, gen := gen }))

/-- 07 R205, R210, R229, R240; 18 R395, R397: the tile, or the memory station under a translation it holds, reads the bytes of a request
and answers with them, at a station with A set, and D for a write; a station whose translation leads to another station's bytes sends the
request on (log 5, for what 14 R326 says of stream members); an atomic reads and writes its bytes at one instant and answers with the old; a
BWAIT whose phase stands waits on. 18 R398, R399: a station answers a request that it cannot translate with PAGE, one whose permission is
lacking with GUARD, bit 1 of TRAPINFO set, and one through window 11 that lacks a translation or PIN with a fatal error, after a record in
its fault log; for an atomic, permission is of both kinds where it needs WR (log 38). 12 R319: what it starts is charged to its partition. -/
def Obligations.RequestsPerformed : Prop :=
  ∀ (s : State) (p : Nat) (q : Packet) (ep h id n : Nat) (op : AtomicOp) (a : W64) (asid : BitVec 16) (sync rel acq : Bool),
    s.Arrived p q → q.dst = .ep ep → s.frozenBy q = none →
    let o := offOf a
    let at_ := storeBase ep + o
    let va := vaOf a
    let hit := fun (k : Nat) => (s.station k).tlb.find? fun l => decide (l.asid = asid) && decide (l.va ≤ va) && decide (va < l.va + l.size)
    let charged := fun (k len : Nat) => match q.part with | some m => (s.without p).chargeAt k m len | none => s.without p
    let noted := fun (k len : Nat) => (charged k len).modStation k fun x => { x with recent := (asid, va) :: x.recent }
    let fatal := fun (k len : Nat) (wr : Bool) => (charged k len).modStation k fun x => { x with
      flog := { asid := asid, va := a, node := h / 4096 - 1, ep := h % 4096 / 4, write := wr } :: x.flog }
    let marked := fun (l : Leaf) (wr : Bool) => withBytes s.byte l.at_ (bytesOf 8
      (s.peek64 l.at_ ||| BitVec.twoPow 64 58 ||| (if wr then BitVec.twoPow 64 57 else 0)).toNat)
    let reaches := fun (k len : Nat) (l : Leaf) =>
      let pa := l.pa + (va - l.va)
      (4096 ≤ h → l.pin = true) ∧ servedBy pa = k ∧ va % 65536 + len ≤ 65536 ∧ 0 < len ∧ pa % 4096 + len ≤ 4096 ∧ pa + len ≤ bridgeBase
        ∧ (l.at_ + 8 ≤ pa ∨ pa + len ≤ l.at_) ∧ ∀ x ∈ s.poison, x + unitLen x ≤ pa ∨ pa + len ≤ x
    (q.msg = .read h id a n asid sync → ep < 1024 → s.Permits ep (s.windowsFor ep h a) asid o n true false →
      ∃ u, MemStep (s.without p) u s.byte
        ∧ Becomes (.remoteReadPerformed p) s (u.send ep (replyTo h) q.prio q.part (.readRep h id (.data (s.peek at_ n)))))
    ∧ (∀ k, q.msg = .read h id a n asid sync → ep = 1024 + k → k < 20 → s.mayServeAt k q.part = true →
      let answers := fun (v : State) (r : Resp) => Becomes (.remoteReadPerformed p) s (v.send ep (replyTo h) q.prio q.part (.readRep h id r))
      (∀ l, hit k = some l → l.rd = true → reaches k n l → ∃ v, MemStep (noted k n) v (marked l false)
        ∧ answers v (.data (s.peek (l.pa + (va - l.va)) n)))
      ∧ (∀ l, hit k = some l → l.rd = true → (4096 ≤ h → l.pin = true) → servedBy (l.pa + (va - l.va)) ≠ k →
        Becomes (.remoteReadPerformed p) s ((s.without p).send ep (.ep (1024 + servedBy (l.pa + (va - l.va)))) q.prio q.part q.msg))
      ∧ (hit k = none → s.walk asid va = none → if h < 4096 then answers (charged k n) (.trap 0x05 a 0) else answers (fatal k n false) (.fatal a))
      ∧ (∀ l, hit k = some l → l.rd = false → answers (charged k n) (.trap 0x03 a 2))
      ∧ (∀ l, hit k = some l → l.rd = true → 4096 ≤ h → l.pin = false → answers (fatal k n false) (.fatal a)))
    ∧ (∀ k, q.msg = .atomic h id op a asid rel acq → ep = 1024 + k → k < 20 → s.mayServeAt k q.part = true →
      let wr := (op.kind rel).wr
      let m := op.span
      let answers := fun (v : State) (r : Resp) => Becomes (.atomicPerformed p) s (v.send ep (replyTo h) q.prio q.part (.atomicRep h id r))
      (∀ l, hit k = some l → l.rd = true → (wr = true → l.wr = true) → reaches k m l →
        let r := op.run (s.peek (l.pa + (va - l.va)) m)
        op.waits r.1 = false → ∃ v, MemStep (noted k m) v
            (match r.2 with | some new => withBytes (marked l wr) (l.pa + (va - l.va)) new | none => marked l wr)
          ∧ answers v (.data r.1))
      ∧ (hit k = none → s.walk asid va = none → if h < 4096 then answers (charged k m) (.trap 0x05 a (if wr then 1 else 0)) else answers (fatal k m wr) (.fatal a))
      ∧ (∀ l, hit k = some l → (l.rd = false ∨ (wr = true ∧ l.wr = false)) → answers (charged k m) (.trap 0x03 a (if wr then 3 else 2)))
      ∧ (∀ l, hit k = some l → l.rd = true → (wr = true → l.wr = true) → 4096 ≤ h → l.pin = false → answers (fatal k m wr) (.fatal a)))
    ∧ (q.msg = .atomic h id op a asid rel acq → ep < 1024 → s.Permits ep (s.windowsFor ep h a) asid o op.span true (op.kind rel).wr →
      let old := s.peek at_ op.span
      let r := op.run old
      (op.waits r.1 = false → ∃ u, MemStep (s.without p) u (match r.2 with | some new => withBytes s.byte at_ new | none => s.byte)
        ∧ Becomes (.atomicPerformed p) s (u.send ep (replyTo h) q.prio q.part (.atomicRep h id (.data r.1))))
      ∧ (op.waits r.1 = true → Becomes (.atomicPerformed p) s s))

/-- 07 R210, R229: the reply of a load or an atomic completes its instruction: the bytes go to its register, extended as .u says, and
the next instruction follows; an error takes the trap that it names. -/
def Obligations.RepliesArrive : Prop :=
  ∀ (s : State) (p : Nat) (q : Packet) (h : Nat) (w : Pend) (r : Resp), s.Arrived p q → (s.hart h).pend = some w →
    (∀ n, (s.hart h).part = some n → (s.part n).stopping = false) →
    let a := { s.hart h with pend := none }
    let done := fun (i : Instr) (ok : Hart → Prop) => ∃ u t b, MemStep (s.without p) u s.byte ∧ Becomes i s t
      ∧ Retires u t h (ctlYld w.yld) w.wflag (a.pc + 12) b ∧ ok b
    let loads := fun (i : Instr) => ∀ bs, r = .data bs →
      (∀ d n u acq, w.kind = .load d n u acq ∨ w.kind = .atomic d n u acq → 0 < n → n ≤ 8 → bs.length = n →
        done i fun b => ∃ v, b = a.wx d v ∧ Extends v u n (leNat bs))
      ∧ (∀ d, w.kind = .pld d → done i fun b => b = a.wp d (BitVec.ofNat 2048 (leNat bs)))
      ∧ (∀ d acq, w.kind = .cas128 d acq → bs.length = 16 → done i fun b =>
          b = (a.wx d (BitVec.ofNat 64 (leNat (bs.take 8)))).wx (d + 1) (BitVec.ofNat 64 (leNat (bs.drop 8))))
      ∧ (∀ d acq, w.kind = .fcell d acq → done i fun b => b = a.wx d (BitVec.ofNat 64 (leNat bs)))
      ∧ (w.kind = .binit → done i fun b => b = a)
      ∧ (∀ d, w.kind = .bwait d → done i fun b => b = a.wx d (BitVec.ofNat 64 (leNat bs)))
    let traps := fun (i : Instr) => ∀ cause addr info, r = .trap cause addr info → s.CanTrap h →
      ∃ u t, OnHart (s.without p) u h a ∧ Becomes i s t ∧ Enters u t h a.pc (Trap.mk' cause addr info)
    (q.msg = .readRep h w.id r → s.copyWaiting h w.id = none → loads (.loadReply p) ∧ traps (.loadReply p))
      ∧ (q.msg = .atomicRep h w.id r → loads (.atomicReply p) ∧ traps (.atomicReply p))

/-- 07 R213, R214, R216; 01 R25: a group of a load's row lands where each of its active elements is one of window 00 that the windows of
its issue admit, read now, or has come from its station; PI counts the leading groups that have landed, and the row is whole when all
have: it completes once the rows below it have, and rows that waited for it complete with it (the model's reading: log 20). An element
of window 00 may have been read before the others of its group (14 R331; log 20). A group of a gather that was issued
again over other offsets lands too, and says nothing of its elements (log 4). -/
def Obligations.LoadGroupsLand : Prop :=
  ∀ (s : State) (h g : Nat) (v : VReg) (f : Flight), h < 4096 →
    let a := s.hart h
    let r := a.rv v.toNat
    let w := accWidth f.desc.tag
    let n := (w + 7) / 8
    let place := fun (e : Nat) => f.addr v.toNat e
    let reps := s.groupReplies h f.id v.toNat g
    let s0 := { s with arrived := s.arrived.filter fun q => decide (q ∉ reps) }
    let now : Flight := { f with landed := f.landed ||| BitVec.twoPow 64 g }
    let got := fun (e : Nat) =>
      if winOf (place e) = 0 then
        match f.early.find? fun x => decide (x.1 = e) with
        | some x => x.2 | none => s.peek (storeBase (h / 4) + offOf (place e)) n
      else match replyFor e reps with | some (.data bs) => bs | _ => []
    let high := fun (e : Nat) => decide (w = 4) && decide (((v.toNat - f.desc.d.toNat) * f.desc.vl + e) % 2 = 1)
    let lands := fun (val : Nat → Option Nat) => ∃ u t, MemStep s0 u s.byte ∧ Becomes (.loadGroupLands h v g) s t ∧ OnHart u t h (t.hart h)
      ∧ { t.hart h with v := a.v } = a
      ∧ (∀ k, k ≠ v.toNat → (t.hart h).rv k = a.rv k ∨ ∃ f', (a.rv k).flight = some f' ∧ f'.desc = f.desc
        ∧ f'.landed = BitVec.allOnes 64 ∧ (t.hart h).rv k = { a.rv k with tag := cleanTag (a.rv k).tag, pi := 64, lrec := none, flight := none })
      ∧ let x := (t.hart h).rv v.toNat
        (∀ e, w * e + w ≤ 8192 → if e ∈ f.desc.elems g then ∀ y, val e = some y → elemAt x.data w e = y % 2 ^ w
          else elemAt x.data w e = elemAt r.data w e)
        ∧ (now.landed = BitVec.allOnes 64 → x.pi = 64 ∧ x.lrec = none ∧ x.tag = cleanTag r.tag
          ∧ x.flight = if a.earlierRow f.desc v.toNat then some now else none)
        ∧ (now.landed ≠ BitVec.allOnes 64 → x.tag = r.tag ∧ x.lrec = r.lrec ∧ x.flight = some now
          ∧ (∀ k < x.pi, now.landed.getLsbD k = true) ∧ (x.pi < 64 → now.landed.getLsbD x.pi = false))
    r.flight = some f → g < 64 → f.landed.getLsbD g = false →
    (∀ e ∈ f.desc.elems g, (f.desc.kind = .gather → s.ptrTrap [0, 2] (place e) n n = none)
      ∧ ((winOf (place e) = 0 ∧ f.early.any (fun x => decide (x.1 = e)) = true)
        ∨ (winOf (place e) = 0 ∧ s.Permits (h / 4) f.desc.ws f.desc.asid (offOf (place e)) n true false)
        ∨ (winOf (place e) = 2 ∧ ∃ bs, replyFor e reps = some (.data bs)))) →
      (a.spoils f v.toNat = false → lands fun e => some (if high e then leNat (got e) / 16 else leNat (got e)))
      ∧ (a.spoils f v.toNat = true → lands fun _ => none)

/-- 09 R252, R253, R267, R269, R271: a token packet puts its tokens behind those of its platform, where the reader's tile store holds a
token's data at its place, a slot return adds to the slot count, and so does a growth grant, which also returns the signal box to WATCH;
each is counted as ejected, and the hart that waits at that end, and no other, may go on. 09 R260 to R262, 12 R319, R320: a station pair
takes its next request once that stands whole, and answers it under the class of its packet; it reads, or writes and answers with the
length, under its owner's ASID and only on pinned pages, and its station is charged for what it serves; bytes of another station are
read or written there (14 R326), and come back before the answer. Any other request, one cut off by an end or with a poisoned token among
them, is answered with an end alone; an answer waits until its slots are there. That a request is taken whole or not at all, that one end
answers such a request, and that a pair waits for another station are the model's reading (log 21). -/
def Obligations.ChannelPackets : Prop :=
  (∀ (s : State) (p n c i k : Nat) (q : Packet) (ts : List Token), s.Arrived p q →
      let x := s.chan n c
      let y := x.plat i
      let ep := s.localEp q.dst
      let ejected := fun (t : State) =>
        if ep < 1024 then mget 0 (t.tile ep).ej n = mget 0 (s.tile ep).ej n + 1
        else mget 0 (t.station (ep - 1024)).ej n = mget 0 (s.station (ep - 1024)).ej n + 1
      let took := fun (t : State) (z : Chan) (e : Option ChanEnd) => t.chan n c = z ∧ (∀ j, j ≠ c → t.chan n j = s.chan n j)
        ∧ t.arrived = (s.without p).arrived ∧ ejected t ∧ ∀ h, t.hart h = s.hart h
          ∨ (∃ z, e = some (.hart h z)) ∧ ((s.hart h).own = .blockedRead ∨ (s.hart h).own = .blockedWrite)
            ∧ t.hart h = { s.hart h with
                own := .running, port := 0
                blkrd := (t.hart h).blkrd, blkwr := (t.hart h).blkwr, blkSince := (t.hart h).blkSince }
      (q.msg = .tokens n c i ts → (∀ r ∈ s.arrived, ∀ l, r.msg = .tokens n c i l → r = q) →
        ∃ t, Becomes (.tokenArrival p) s t
          ∧ took t (x.setPlat i { y with toks := y.toks ++ ts.map fun z => { z with prio := q.prio } }) (x.readerOf i)
          ∧ ∀ h z tok, x.readerOf i = some (.hart h z) → ts = [tok] → y.placeOf y.toks.length < x.depth → ∀ b,
            t.byte b = withBytes s.byte (storeBase (h / 4) + y.base + 8 * y.placeOf y.toks.length) (bytesOf 8 tok.data.toNat) b)
      ∧ (q.msg = .slots n c i k → ∃ t, Becomes (.slotReturn p) s t ∧ took t (x.addSlots i k) (x.writerOf i)
          ∧ (t.chan n c).slotCount i = x.slotCount i + k ∧ ∀ b, t.byte b = s.byte b)
      ∧ (q.msg = .grant n c i k → ∃ t, Becomes (.growthGrant p) s t ∧ took t (x.addSlots i k) (x.writerOf i)
          ∧ (t.part n).sb = (if (s.part n).sb = .grow then .watch else (s.part n).sb) ∧ ∀ b, t.byte b = s.byte b))
  ∧
  (∀ (s : State) (n m : Nat),
      let y := s.chan n (s.pairOf n m).req
      let i := if y.mode = .deal then endAt y.readers (.mem m) else 0
      let toks := (y.plat i).toks
      let ds := toks.takeWhile fun t => !t.isEnd
      let more := fun (v : W64) => if v.extractLsb' 60 4 = 2 then ((v.extractLsb' 44 16).toNat + 8) / 8 else 0
      (y.mode ≠ .merge →
        (toks = [] → s.nextRequest n m = none)
        ∧ (ds = [] → toks ≠ [] → ∃ k, s.nextRequest n m = some (0, [], k) ∧ k.ended = true ∧ k.counts = [(i, 1)])
        ∧ ∀ t r, ds = t :: r →
          (t.bad = true → ∃ k, s.nextRequest n m = some (0, [], k) ∧ k.bad = true ∧ k.counts = [(i, 1)])
          ∧ (t.bad = false → r.length < more t.data → toks.length = ds.length → s.nextRequest n m = none)
          ∧ (t.bad = false → r.length < more t.data → ds.length < toks.length →
            ∃ data k, s.nextRequest n m = some (t.data, data, k) ∧ k.ended = true ∧ k.counts = [(i, ds.length + 1)])
          ∧ (t.bad = false → more t.data ≤ r.length → ∃ k,
            s.nextRequest n m = some (t.data, (r.take (more t.data)).map (fun z => z.data), k) ∧ k.ended = false
              ∧ k.bad = ((r.take (more t.data)).any fun z => z.bad) ∧ k.counts = [(i, 1 + more t.data)]))
      ∧ ∀ v data k, s.nextRequest n m = some (v, data, k) → ∃ w, y.receive (endAt y.readers (.mem m)) (1 + w) = some k)
  ∧
  (∀ (s : State) (n m : Nat) (req : W64) (data : List W64) (k : Taken),
      let a := s.pairOf n m
      let x := s.chan n a.rep
      let y := s.chan n a.req
      let i := s.pairTarget n m
      let c := ((y.plat (match y.mode with | .normal => 0 | .deal => endAt y.readers (.mem m) | .merge => y.turn)).toks.head?.map
        fun t => t.prio).getD 0
      let op := (req.extractLsb' 60 4).toNat
      let len := (req.extractLsb' 44 16).toNat + 1
      let va := (req.extractLsb' 0 43).toNat
      let put := fun (u : State) (z : StPair) => u.modPart n fun q => { q with pairs := mput q.pairs m z }
      let answers := fun (u : State) (out : List Token) =>
        Becomes (.stationPairRequest n m) s ((put u { u.pairOf n m with out := out, busy := false }).pairReply n m)
      let u := (put s { a with prio := c }).consume (1024 + a.home) c n a.req k
      let writes := (data.flatMap bytes64).take len
      let fits := req.getLsbD 43 = false ∧ va + len ≤ 2 ^ 43
      s.frozen (some n) = false →
      (a.out = [] → a.busy = false → s.nextRequest n m = none → Becomes (.stationPairRequest n m) s s)
      ∧ (a.out ≠ [] → x.slotCount i < a.out.length → Becomes (.stationPairRequest n m) s s)
      ∧ (a.out ≠ [] → a.out.length ≤ x.slotCount i → Becomes (.stationPairRequest n m) s
          (put ((s.sendStrip (1024 + a.home) a.prio n a.rep i a.out).nextStrip n a.rep) { a with out := [] }))
      ∧ (∀ p q out, a.out = [] → a.busy = true → s.Arrived p q → q.msg = .pairDone n m out →
          (∀ r ∈ s.arrived, ∀ z, r.msg = .pairDone n m z → r = q) → answers (s.without p) out)
      ∧ (a.out = [] → a.busy = false → s.nextRequest n m = some (req, data, k) → s.mayServeAt a.home (some n) = false →
          Becomes (.stationPairRequest n m) s s)
      ∧ (a.out = [] → a.busy = false → s.nextRequest n m = some (req, data, k) → s.mayServeAt a.home (some n) = true →
        (k.bad = true ∨ k.ended = true → answers u [endToken])
        ∧ (k.bad = false → k.ended = false →
          ((op ≠ 1 ∧ op ≠ 2) ∨ ¬fits → answers u [endToken])
          ∧ ((op = 1 ∨ op = 2) → fits → u.translateAll a.home a.asid (if op = 1 then kRead else kWrite) true va len 3 = none → answers u [endToken])
          ∧ ∀ runs v, (op = 1 ∨ op = 2) → fits → u.translateAll a.home a.asid (if op = 1 then kRead else kWrite) true va len 3 = some (runs, v) →
            (v.poisonRuns (if op = 1 then kRead else kWrite) 0 runs ≠ none → answers v [endToken])
            ∧ (v.poisonRuns (if op = 1 then kRead else kWrite) 0 runs = none →
              ((∀ r ∈ runs, ∀ o < r.2, servedBy (r.1 + o) = a.home) →
                let w := v.chargeAt a.home n len
                (op = 1 → answers w (packTokens (len + 1) (w.peekRuns runs)))
                ∧ (op = 2 → answers (w.pokeRuns runs writes) [dataToken (BitVec.ofNat 64 len)]))
              ∧ (∀ r l, runs = r :: l → servedBy r.1 ≠ a.home →
                let w := v.chargeAt a.home n 0
                Becomes (.stationPairRequest n m) s ((put w { w.pairOf n m with busy := true }).send (1024 + a.home)
                  (.ep (1024 + servedBy r.1)) c (some n) (.pairPart n m (decide (op = 2)) len runs writes [])))))))
  ∧
  (∀ (s : State) (p : Nat) (q : Packet) (b n m len : Nat) (wr : Bool) (runs : List (Nat × Nat)) (data got : List Byte),
      s.Arrived p q → q.msg = .pairPart n m wr len runs data got → q.dst = .ep (1024 + b) → q.part = some n → s.frozenBy q = none →
      s.mayServeAt b (some n) = true →
      let total := (runs.map fun r => r.2).foldl (· + ·) 0
      runs.length ≤ 3 → total ≤ len → (∀ r ∈ runs, 0 < r.2 ∧ ∀ o < r.2, servedBy (r.1 + o) = b) →
      s.poisonRuns (if wr then kWrite else kRead) 0 runs = none →
      let u := (s.without p).chargeAt b n total
      Becomes (if wr then .postedWriteArrival p else .remoteReadPerformed p) s
        ((if wr then u.pokeRuns runs (data.take total) else u).send (1024 + b) (.ep (1024 + (s.pairOf n m).home)) q.prio q.part
          (.pairDone n m (if wr then [dataToken (BitVec.ofNat 64 len)] else packTokens (len + 1) (got ++ u.peekRuns runs)))))

/-- 07 R206, R236, R237; 12 R317; 18 R387, R391: at most four transfers of a tile run, the oldest first; a piece within the tile that the
tile's windows, the launching hart's as they stood at CPGO, admit copies its bytes as they are where they are no source; it ends where an
aligned 64-byte unit of the destination does, and reads the aligned 8-byte units of the source that it meets whole, keeping what it
read beyond. A piece of another endpoint's is asked for, at the endpoint that log 5 names, and waited for: one piece of a transfer
is on its way at a time (log 22). A pointer in the wrong window, or a refusal, stops its transfer, whose token keeps the failure of the
transfer issued first; a finished transfer arrives at its barrier if it is to, and gives its token back once it has; bytes 17 to 31 of the
barrier object stay (log 36). A fatal answer is the launching hart's fatal context error as well. -/
def Obligations.CopyEngine : Prop :=
  ∀ (s : State) (n : Nat) (x : Xfer),
    let t := s.tile n
    let k := (s.hart x.hart).rw x.w.toNat
    let ptr := fun (base : W64) (pitch : BitVec 32) => base + BitVec.ofNat 64 x.row * pitch.signExtend 64 + BitVec.ofNat 64 x.off
    let src := ptr x.set.src (x.set.stride.extractLsb' 0 32)
    let dst := ptr x.set.dst (x.set.stride.extractLsb' 32 32)
    let left := x.set.rowBytes - x.off
    let room := min (64 - dst.toNat % 64) left
    let reads := fun (m : Nat) => min ((src.toNat + m + 7) / 8 * 8 - src.toNat) left
    let span := if 64 < reads room - x.ahead.length then room - 8 else room
    let from_ := src + BitVec.ofNat 64 x.ahead.length
    let need := reads span - x.ahead.length
    let after := fun (m : Nat) => if x.off + m < x.set.rowBytes then { x with off := x.off + m, copied := x.copied + m }
      else { x with row := x.row + 1, off := 0, copied := x.copied + m }
    let ws := (hartsOf n).flatMap fun h => if h = x.hart then x.ws else (s.hart h).windows
    let part := (s.hart x.hart).part
    let asks := fun (u : State) (z : Xfer) => { u with nextReq := s.nextReq + 1 }.modTile n fun y => y.putXfer { z with wait := some s.nextReq }
    let failed := fun (u : State) (cause : BitVec 8) (addr : W64) =>
      (u.hart x.hart).rw x.w.toNat = {
          count := k.count - 1
          fail := if k.fail.any fun f => decide (f.stamp ≤ x.stamp) then k.fail
            else some { cause := cause, addr := addr, id := x.id, stamp := x.stamp } }
        ∧ ∀ z ∈ (u.tile n).copyq, ¬(z.hart = x.hart ∧ z.id = x.id)
    let gives := fun (u : State) => (u.modTile n fun y =>
      { y with copyq := y.copyq.filter fun z => !(decide (z.hart = x.hart) && decide (z.id = x.id)) }).modHart x.hart fun a =>
        a.ww x.w.toNat { a.rw x.w.toNat with count := (a.rw x.w.toNat).count - 1 }
    ((t.copyq.filter fun z => z.running).length < 4 → (t.copyq.find? fun z => !z.running) = some x →
      ∃ u, Becomes (.copyTransferStart n) s u ∧ OnTile s u n (t.putXfer { x with running := true }))
    ∧ (∀ l, t.copyChoice (fun j => !(s.hart (4 * n + j)).stopped) = some l → t.copyOf l = some x → n < 1024 → x.piece = none →
      let chosen := s.modTile n fun y => { y with copyLast := l, cpSpent := mput y.cpSpent l (mget 0 y.cpSpent l + 1) }
      (x.off < x.set.rowBytes → x.wait = none → from_.toNat + need ≤ 2 ^ 21 → dst.toNat + span ≤ 2 ^ 21 →
        s.Permits n ws x.asid from_.toNat need true false → s.Permits n ws x.asid dst.toNat span false true →
        (∀ j < span, x.sources (byteKey x.hart (dst + BitVec.ofNat 64 j)) = false) →
        let bs := x.ahead ++ s.peek (storeBase n + from_.toNat) need
        ∃ u v, MemStep s u (withBytes s.byte (storeBase n + dst.toNat) (bs.take span)) ∧ Becomes (.copyPiece n) s v
          ∧ OnTile u v n (({ u.tile n with copyLast := l, cpSpent := mput t.cpSpent l (mget 0 t.cpSpent l + 1) }).putXfer
            { after (bs.take span).length with ahead := bs.drop span }))
      ∧ (need ≠ 0 → s.ptrTrap [0, 1, 2] from_ need 1 = none → copyEp n from_ ≠ n → Becomes (.copyPiece n) s
          ((asks chosen x).send n (accessDest x.hart from_) x.prio part (.read x.hart s.nextReq from_ need x.asid false)))
      ∧ (need ≠ 0 → winOf from_ = 3 → (∀ i < (x.set.rowBytes + 63) / 64, winOf (x.set.dstRow x.row + BitVec.ofNat 64 (64 * i)) ≠ 2) →
        ∃ u, Becomes (.copyPiece n) s u ∧ failed u 0x04 from_))
    ∧ (∀ l bs, t.copyChoice (fun j => !(s.hart (4 * n + j)).stopped) = some l → t.copyOf l = some x → n < 1024 → x.piece = some bs →
      let chosen := s.modTile n fun y => { y with copyLast := l }
      (s.ptrTrap [0, 1, 2] dst bs.length 1 = none → copyEp n dst ≠ n →
        Becomes (.copyPiece n) s ((asks chosen x).send n (accessDest x.hart dst) x.prio part
          (.piece x.hart s.nextReq dst (x.mixed s.tick dst bs) x.asid)))
      ∧ (bs ≠ [] → dst.toNat + bs.length ≤ 2 ^ 21 → s.Permits n ws x.asid dst.toNat bs.length false true →
        (∀ j < bs.length, x.sources (byteKey x.hart (dst + BitVec.ofNat 64 j)) = false) →
        ∃ u v, MemStep s u (withBytes s.byte (storeBase n + dst.toNat) bs) ∧ Becomes (.copyPiece n) s v
          ∧ OnTile u v n (({ u.tile n with copyLast := l }).putXfer { after bs.length with piece := none, wait := none })))
    ∧ (∀ p q id r, s.Arrived p q → s.copyWaiting x.hart id = some x → n = x.hart / 4 →
      let puts := fun (z : Xfer) => (s.without p).modTile n fun y => y.putXfer z
      (q.msg = .readRep x.hart id r → x.finished = false → x.piece = none → ∀ bs, r = .data bs →
        Becomes (.loadReply p) s (puts { x with
          piece := some ((x.ahead ++ bs).take span), ahead := (x.ahead ++ bs).drop span, wait := none }))
      ∧ (∀ out, q.msg = .pieceRep x.hart id r → x.finished = false → x.piece = some out → ∀ bs, r = .data bs →
        Becomes (.loadReply p) s (puts { after out.length with piece := none, wait := none }))
      ∧ (q.msg = .pieceRep x.hart id r → x.finished = true → ∀ bs, r = .data bs → Becomes (.loadReply p) s (gives (s.without p)))
      ∧ ((q.msg = .pieceRep x.hart id r ∨ q.msg = .readRep x.hart id r) →
        (x.finished = false → ∀ i < (x.set.rowBytes + 63) / 64, winOf (x.set.dstRow x.row + BitVec.ofNat 64 (64 * i)) ≠ 2) →
        (∀ cause addr info, r = .trap cause addr info → ∃ u, Becomes (.loadReply p) s u ∧ failed u cause addr)
        ∧ ∀ addr, r = .fatal addr → ∃ u, Becomes (.loadReply p) s u ∧ failed u 0x05 addr ∧ (u.hart x.hart).fatal = some addr))
    ∧ ((t.copyq.find? fun z => z.running && z.finished && z.wait.isNone && !(s.hart z.hart).stopped) = some x →
      (x.set.shape.getLsbD 16 = false → ∃ u, MemStep s u s.byte ∧ Becomes (.copyTransferComplete n) s (gives u))
      ∧ (x.set.shape.getLsbD 16 = true → n < 1024 → x.set.bar.toNat % 32 = 0 → s.Permits n ws x.asid x.set.bar.toNat 32 true true →
          ∃ u, MemStep s u (withBytes s.byte (storeBase n + x.set.bar.toNat)
              (afterArrival (x.set.rowBytes * x.set.rows) (s.peek (storeBase n + x.set.bar.toNat) 32)))
            ∧ Becomes (.copyTransferComplete n) s (gives u))
      ∧ (x.set.shape.getLsbD 16 = true → s.ptrTrap [0, 1, 2, 3] x.set.bar 32 32 = none → winOf x.set.bar = 3 ∨ copyEp n x.set.bar ≠ n →
          ∃ u, MemStep s u s.byte ∧ Becomes (.copyTransferComplete n) s ((asks u x).send n (accessDest x.hart x.set.bar) x.prio part
            (.arrive x.hart s.nextReq x.set.bar (x.set.rowBytes * x.set.rows) x.asid))))

/-- 06 R185 to R187, R189, R190, R193, R195, R202; 02 R69 to R75; 12 R311, R314: the array does one step of the oldest operation of the
hart it picks: MZERO clears, MWR writes its quads, MMA and MRANK change exactly the cells of the shape: integers exactly modulo 2^32, f32 by
one fused multiply-add for each product in ascending order, the other plain formats by the rounded exact sum of each pair, MX and q
formats by that of each unit which the pair ends, under its scales; an operation with no step left leaves its queue. -/
def Obligations.MatrixArray : Prop :=
  ∀ (s : State) (n l : Nat) (cr : SMap Int) (o : MOp) (r : List MOp),
    let t := s.tile n
    let h := 4 * n + l
    let a := s.hart h
    let acc := t.accum o.m.toNat
    (s.sharePick n t.arrCR (fun h => (t.headOp (h % 4)).isSome) = some (l, cr) → t.queue l = o :: r →
      ∃ u o' acc', Becomes (.matrixUnitStart n) s u
        ∧ u.tile n = { (t.setQueue l (o' :: r)) with arrCR := cr }.setAccum o.m.toNat acc'
        ∧ (∃ k, u.hart h = { a with spent := k }) ∧ (∀ j, j ≠ h → u.hart j = s.hart j) ∧ (∀ j, j ≠ n → u.tile j = s.tile j)
        ∧ { u with tiles := s.tiles, harts := s.harts } = s
        ∧ { o' with done := o.done, held := o.held } = o ∧ o'.done = (match o.kind with | .mzero | .mwr _ => 1 | _ => o.done + 1)
        ∧ (o.kind = .mzero → acc' = { acc with cells := [], flags := 0, poisoned := 0 })
        ∧ (∀ q, o.kind = .mwr q → o.rc ≤ 16 → ∀ i < 64, ∀ k < 64, acc'.cell i k =
            if (i / 4 + 16 - q % 16) % 16 < o.rc then
              elemAt (a.rv (o.a.toNat + (i / 4 + 16 - q % 16) % 16)).data 32 (64 * (i % 4) + k)
            else acc.cell i k)
        ∧ (∀ ua ub, o.kind = .mma ua ub → o.tn ≤ 64 → ∀ i < 64, ∀ k < 64,
            (o.tm ≤ i ∨ o.tn ≤ k → acc'.cell i k = acc.cell i k)
            ∧ (i < o.tm → k < o.tn →
              let ra := a.rv (o.a.toNat + o.done)
              let rb := a.rv (o.b.toNat + o.done)
              let w := fmtWidth ra.fmt
              let tk := min o.tk (tkMax ra.fmt)
              let now : MPair := { a := ra.data, b := rb.data, ga := a.rg ra.scl, gb := a.rg rb.scl }
              let at_ := fun (z : Nat) => o.held.getD (z / tk) now
              let x := fun (z : Nat) => elemAt (at_ z).a w (i * tk + z % tk)
              let y := fun (z : Nat) => elemAt (at_ z).b w (k * tk + z % tk)
              let zs := (List.range tk).map fun z => o.done * tk + z
              let old := acc.cell i k
              o.held.length = o.done →
                (ra.fmt = .i8 ∨ ra.fmt = .i4 → rb.fmt = ra.fmt → acc'.cell i k = intCode 32 (old
                  + ((List.range tk).map fun z => codeInt ua w (elemAt ra.data w (i * tk + z)) * codeInt ub w (elemAt rb.data w (k * tk + z))).sum))
                ∧ (ra.fmt = .f32 → acc'.cell i k = (zs.foldl (fun c z => fused32 c (fdec .f32 (x z)) (fdec .f32 (y z))) old) % 2 ^ 32)
                ∧ (isBlock ra.fmt = false → ra.fmt ≠ .f32 → ra.fmt ≠ .i8 → ra.fmt ≠ .i4 →
                  ∃ v, UnitValue zs (fun z => fdec ra.fmt (x z)) (fun z => fdec rb.fmt (y z)) 0 v ∧ acc'.cell i k = plus32 old v % 2 ^ 32)
                ∧ (isBlock ra.fmt = true →
                  let span := o.rc * tk
                  let len := if isMx ra.fmt then 32 else tagGroup ra.tag
                  let blocks := ((List.range ((span + len - 1) / len)).map fun b => (b * len, min span ((b + 1) * len))).filter fun u =>
                    decide ((u.2 - 1) / tk = o.done)
                  ∃ val : Nat → Nat, acc'.cell i k = (blocks.foldl (fun c u => plus32 c (val u.1)) old) % 2 ^ 32
                    ∧ ∀ u ∈ blocks,
                      let part := (List.range (u.2 - u.1)).map fun z => u.1 + z
                      let ga := elemAt (at_ u.1).ga 32 i
                      let gb := elemAt (at_ u.1).gb 32 k
                      let zero : Nat → Int := fun g => ((g / 2 ^ 16 % (if ra.fmt = .q4 then 16 else 256) : Nat) : Int)
                      (isMx ra.fmt = true → (ga % 256 = 255 ∨ gb % 256 = 255 → val u.1 = 0x7FC00000)
                        ∧ (ga % 256 ≠ 255 → gb % 256 ≠ 255 → UnitValue part (fun z => fdec (mxElem ra.fmt) (x z))
                          (fun z => fdec (mxElem rb.fmt) (y z)) ((ga % 256 : Nat) + (gb % 256 : Nat) - 254) (val u.1)))
                      ∧ (isMx ra.fmt = false → QUnitValue ga gb
                          (part.map fun z => ((x z : Int) - zero ga) * ((y z : Int) - zero gb)) (val u.1)))))
        ∧ (∀ ua ub neg, o.kind = .mrank ua ub neg → o.tn ≤ 64 → ∀ i < 64, ∀ k < 64,
            (o.tm ≤ i ∨ o.tn ≤ k → acc'.cell i k = acc.cell i k)
            ∧ (i < o.tm → k < o.tn →
              let ra := a.rv (o.a.toNat + o.done)
              let rb := a.rv (o.b.toNat + o.done)
              let w := fmtWidth ra.fmt
              let old := acc.cell i k
              let x := match fdec ra.fmt (elemAt ra.data w i) with
                | .fin n m e => FVal.fin (n != neg) m e | .inf n => .inf (n != neg) | z => z
              let y := fdec rb.fmt (elemAt rb.data w k)
              o.held.length = o.done →
                (ra.fmt = .i8 → acc'.cell i k = intCode 32 (old
                  + (if neg then -1 else 1) * (codeInt ua 8 (elemAt ra.data 8 i) * codeInt ub 8 (elemAt rb.data 8 k))))
                ∧ (ra.fmt = .f32 → rb.fmt = .f32 → acc'.cell i k = fused32 old x y % 2 ^ 32)
                ∧ (ra.fmt ≠ .f32 → ra.fmt ≠ .i8 → ra.fmt ≠ .i4 →
                  ∃ v, UnitValue [0] (fun _ => x) (fun _ => y) 0 v ∧ acc'.cell i k = plus32 old v % 2 ^ 32))))
    ∧ (l < 4 → t.queue l = o :: r → o.over = true → (∀ j < l, ∀ p, (t.queue j).head? = some p → p.over = false) →
      ∃ u, Becomes (.matrixOpComplete n) s u ∧ OnTile s u n (t.setQueue l r))

/-- 12 R308 to R312, R314, R315; 04 R128, R137: while no issued instruction holds the lanes, the sequencer gives the next turn to the
hart it picks among the eligible, which then have yielded no longer, and moves its credits; how it picks, and the array too: by level, credit
and weight; the last cycle of a period ends its counts; a PAUSE ends at its cycle, and a TIMEWAIT completes once TIME has reached its target.
That a pick gives a hart a turn of the model's schedule is the model's own device (log 3). -/
def Obligations.SequencersAndTimers : Prop :=
  (∀ (s : State) (n : Nat) (cr : SMap Int) (ok : Nat → Bool),
    ((∃ j < 4, ok (4 * n + j) = true) → ∃ l cr', s.sharePick n cr ok = some (l, cr') ∧ s.PicksByCredit n cr ok l cr')
      ∧ ((∀ j < 4, ok (4 * n + j) = false) → s.sharePick n cr ok = none))
  ∧
  (∀ (s : State) (h : Nat),
    let a := s.hart h
    let ports := a.k.filterMap fun e => e.2
    let host := fun (e : Option ChanEnd) => match e with | some (.host _) => true | _ => false
    let next := fun (b : PortBinding) =>
      let x := s.chan b.part b.chan
      match x.mode, b.out with
      | .normal, _ => 0 | .deal, true => x.strip % max 1 x.f | .deal, false => b.idx | .merge, true => b.idx | .merge, false => x.turn
    let pressure := fun (b : PortBinding) =>
      let x := s.chan b.part b.chan
      !b.out && !host (x.writerOf (next b)) && decide (3 * (x.plat (next b)).cap < 4 * (x.plat (next b)).toks.length)
    let room := fun (b : PortBinding) =>
      let x := s.chan b.part b.chan
      b.out && !host (x.readerOf (next b)) && decide (3 * (x.plat (next b)).cap < 4 * x.slotCount (next b))
    s.weight h = (if ports.any pressure then 2 else 1) * (if ports.any room then 2 else 1)
    ∧ (s.eligible h = true ↔
      a.held = false ∧ a.stopped = false ∧ a.own = .running ∧ a.pend = none ∧ a.pause = none ∧ a.unwind = none ∧ a.fatal = none
        ∧ a.inMiddle = false ∧ a.reportable = []
        ∧ ∃ f, s.laneAt h = some f ∧ ∀ t, f { s with cur := h } = .next t →
          ¬((t.hart h).stalled = true ∧ (t.hart h).pc = a.pc ∧ (t.hart h).td = a.td ∧ (t.hart h).resume = a.resume)))
  ∧
  ∀ (s : State) (n : Nat),
    let t := s.tile n
    let a := s.hart n
    let ready := (hartsOf n).filter fun h => s.eligible h
    let fresh := ready.filter fun h => !(s.hart h).yielded
    let free : Prop := ∀ h ∈ hartsOf n, (s.hart h).inMiddle = true → (s.hart h).stopped = true ∨ (s.hart h).held = true
    (∀ l cr, free →
      s.sharePick n t.seqCR (fun h => (if fresh.isEmpty then ready else fresh).contains h) = some (l, cr) →
      ∃ v, Becomes (.vectorSequencerPick n) s v ∧ v.sched = .lanes (4 * n + l) :: s.sched ∧ v.tile n = { t with seqCR := cr }
        ∧ (∀ j, j ≠ n → v.tile j = s.tile j)
        ∧ (∀ h, v.hart h = if h ∈ ready then { s.hart h with yielded := false } else s.hart h)
        ∧ { v with harts := s.harts, tiles := s.tiles, sched := s.sched } = s)
    ∧ (¬free → Becomes (.vectorSequencerPick n) s s)
    ∧ (s.cycle n % 1024 = 1023 → ∃ u, Becomes (.sequencerPeriodEnd n) s u ∧ u.tile n = { t with cpSpent := [] }
        ∧ (∀ h, u.hart h = if h / 4 = n then { s.hart h with spent := 0 } else s.hart h)
        ∧ (∀ j, j ≠ n → u.tile j = s.tile j) ∧ { u with tiles := s.tiles, harts := s.harts } = s)
    ∧ (s.cycle n % 1024 ≠ 1023 → Becomes (.sequencerPeriodEnd n) s s)
    ∧ (s.main % 1024 = 1023 →
        (n < 1024 → ∃ u, Becomes (.budgetPeriodEnd n) s u ∧ OnTile s u n { t with injSpent := [] })
        ∧ ∃ u, Becomes (.budgetPeriodEnd (1024 + n)) s u ∧ OnStation s u n { s.station n with units := [] })
    ∧ (s.main % 1024 ≠ 1023 → Becomes (.budgetPeriodEnd n) s s)
    ∧ (∀ k, a.pause = some k → k ≤ s.cycle (n / 4) → a.stopped = false →
        ∃ u, Becomes (.pauseExpiry n) s u ∧ OnHart s u n { a with pause := none })
    ∧ ∀ k c d x, a.timeTarget = some k → s.fetchInstr n = .timewait c d x → k.toNat ≤ s.time.toNat → a.runnable = true →
        let hd : Head := { mods := 0x20, nd := true }
        { s with cur := n }.Admits c hd →
        ∃ u, Becomes (.timewaitExpiry n) s u ∧ Retires s u n c (hd.flags c) (a.pc + 12) { a.wx d s.time with timeTarget := none }

/-- 10 R276, R279, R281, R283, R285, R286, R288, R289: before a flit moves, a multicast at the front of its input takes VC4 of all its
branches or of none. The flits that may use an output port are those at the heads of inputs whose packet is routed to it, with its VC free
or its own, credit at the next hop, and its class within the injection budget. Of these the port sends one: the first in turn of those
promoted, else of the highest class with credit; the others age. The flit leaves its input, whose free place the next waiting flit takes,
and stands behind the flits of the next junction's, one hop on; of a multicast, in every branch. The tail of a packet that has come to its
endpoint is ejected there; one for another node is queued at its link, which is that of the table log 25 names; one of a multicast loads the
tile; one that leaves the mesh as 10 R289 says goes on to the service station on VC5. That flits wait in a queue without bound to enter a
buffer is the model's choice (log 34). -/
def Obligations.MeshGrants : Prop :=
  (∀ (s : State) (n port i : Nat) (g : Flit), i < 36 →
    let x := s.tile n
    let s0 := s.allocate n
    let many := match g.pkt.dst with | .rect _ _ _ _ => true | _ => false
    let service := s.junctionRoute n g.pkt.bank 1053
    let bs := if s.lost n g.pkt then [if service < 6 then service else 4] else match g.pkt.dst with
      | .rect x0 x1 y0 y1 => mcastPorts n (i / 6) x0 x1 y0 y1
      | _ => [s.junctionRoute n g.pkt.bank (s.packetEp g.pkt)]
    let within := fun v => mget 0 x.injSpent v < x.jinjOf v
    let credit := fun b => match neighbour n b with
      | some j => ((s.tile j).jn.buf (6 * ((b + 2) % 4) + i % 6)).length < 8
      | none => b = 4 ∨ (b = 5 ∧ ∃ m < 30, n ∈ stationTiles m)
    (s0.candidate n port i = some g ↔ (∃ r, x.jn.buf i = g :: r) ∧ port ∈ bs
      ∧ (i / 6 = 4 → i % 6 = 0 ∨ i % 6 = 1 ∨ i % 6 = 3 → within (i % 6) ∨ ∀ v ∈ [0, 1, 3], within v → x.jn.buf (24 + v) = [])
      ∧ ∀ b ∈ bs, (match mget none (s0.tile n).jn.hold (6 * b + i % 6) with | none => g.idx = 0 ∧ many = false | some k => k.1 = i)
        ∧ (s.lost n g.pkt = true ∨ credit b)))
  ∧
  (∀ (x : Tile) (port : Nat) (cs : List (Nat × Flit)), cs ≠ [] → cs.Pairwise (fun a b => a.1 < b.1) →
    let cls := fun (c : Nat × Flit) => c.2.pkt.prio.toNat
    let lifted := (cs.filter fun c => mget false x.jn.top (36 * port + c.1)).map fun c => c.1
    let some1 := cs.any fun c => decide (0 < mget 0 x.jn.cred (4 * port + cls c))
    let credit := fun k => if some1 then mget 0 x.jn.cred (4 * port + k) else x.weightOf k
    ∃ w j, x.arbitrate port cs = some (w, j)
      ∧ (lifted ≠ [] → CyclicFirst lifted (mget 0 x.jn.ptr (5 * port + 4)) w ∧ j = { x.jn with ptr := mput x.jn.ptr (5 * port + 4) w })
      ∧ (lifted = [] → ∃ k, (∃ c ∈ cs, cls c = k) ∧ ((∃ c ∈ cs, 0 < credit (cls c)) → 0 < credit k)
        ∧ (∀ c ∈ cs, (0 < credit k → 0 < credit (cls c)) → cls c ≤ k)
        ∧ CyclicFirst ((cs.filter fun c => decide (cls c = k)).map fun c => c.1) (mget 0 x.jn.ptr (5 * port + k)) w
        ∧ { j with cred := x.jn.cred } = { x.jn with ptr := mput x.jn.ptr (5 * port + k) w }
        ∧ ∀ i < 4, mget 0 j.cred (4 * port + i) = credit i - (if i = k ∧ 0 < credit k then 1 else 0)))
  ∧
  ∀ (s : State) (n port w : Nat) (f : Flit),
    let s0 := s.allocate n
    let jn := (s.tile n).jn
    let vc := w % 6
    let at_ := fun (b : Nat) => 6 * ((b + 2) % 4) + vc
    let tail := decide (f.idx + 1 = f.n)
    let moved : Flit := { f with pkt := { f.pkt with hops := f.pkt.hops + 1 }, at_ := s.tick }
    let cs := (List.range 36).filterMap fun i => (s0.candidate n port i).map fun g => (i, g)
    let ages := fun (t : State) => (tail = true → mget 0 (t.tile n).jn.age (36 * port + w) = 0) ∧ ∀ i < 36, i ≠ w →
      let old := mget 0 jn.age (36 * port + i)
      let new := min (old + 1) (s.tile n).agemax
      mget 0 (t.tile n).jn.age (36 * port + i) = (if cs.any (fun c => decide (c.1 = i)) then new else old)
        ∧ mget false (t.tile n).jn.top (36 * port + i) =
          (mget false jn.top (36 * port + i) || (cs.any (fun c => decide (c.1 = i)) && decide (new = (s.tile n).agemax)))
    let leaves := fun (t : State) =>
      (t.tile n).jn.buf w = (jn.buf w).tail ++ (mget [] jn.inq w).take (8 - (jn.buf w).tail.length)
        ∧ ∀ i, i ≠ w → (t.tile n).jn.buf i = jn.buf i
    let goes := fun (t : State) (b j : Nat) => (t.tile j).jn.buf (at_ b) = (s.tile j).jn.buf (at_ b) ++ [moved]
      ∧ ∀ i, i ≠ at_ b → (t.tile j).jn.buf i = (s.tile j).jn.buf i
    let out := fun (t : State) =>
      t.flight0 = (if f.pkt.bank then s.flight0 else s.flight0 - 1) ∧ t.flight1 = (if f.pkt.bank then s.flight1 - 1 else s.flight1)
    ((∀ j, s0.tile j = if j = n then { s.tile n with jn := { jn with hold := (s0.tile n).jn.hold } } else s.tile j)
      ∧ { s0 with tiles := s.tiles } = s)
    ∧ (∀ j0, w < 36 → port < 6 → s0.candidate n port w = some f → (s0.tile n).arbitrate port cs = some (w, j0) → s.lost n f.pkt = true → w ≠ 29 →
      ∃ t, Becomes (.outputPortGrant n port) s t ∧ ages t ∧ (∀ j, j ≠ n → t.tile j = s.tile j)
        ∧ (t.tile n).jn.buf w = (jn.buf w).tail ++ (mget [] jn.inq w).take (8 - (jn.buf w).tail.length)
        ∧ (∀ i, i ≠ w → i ≠ 29 → (t.tile n).jn.buf i = jn.buf i)
        ∧ (tail = true → f.pkt.vc ≠ 5 → (t.tile n).jn.buf 29 ++ mget [] (t.tile n).jn.inq 29 = jn.buf 29 ++ mget [] jn.inq 29
            ++ (flitsOf { f.pkt with vc := 5, hops := 0, dst := .ep 1053 }).map (fun g => { g with at_ := s.tick }))
        ∧ (tail = true → f.pkt.vc = 5 → t.hopLost = f.pkt :: s.hopLost ∧ out t))
    ∧ (∀ j0, w < 36 → port < 6 → s0.candidate n port w = some f → (s0.tile n).arbitrate port cs = some (w, j0) → s.lost n f.pkt = false →
      ((∀ x0 x1 y0 y1, f.pkt.dst ≠ .rect x0 x1 y0 y1) →
        (∀ j, neighbour n port = some j → ∃ t, Becomes (.outputPortGrant n port) s t ∧ leaves t ∧ ages t ∧ goes t port j
          ∧ (∀ i, i ≠ n → i ≠ j → t.tile i = s.tile i) ∧ { t with tiles := s.tiles } = s)
        ∧ (neighbour n port = none → ∃ t, Becomes (.outputPortGrant n port) s t ∧ leaves t ∧ ages t ∧ (∀ i, i ≠ n → t.tile i = s.tile i)
          ∧ (tail = false → { t with tiles := s.tiles } = s)
          ∧ (∀ e, tail = true → f.pkt.dst = .ep e → f.pkt.vc = 5 → t.hopLost = f.pkt :: s.hopLost ∧ out t ∧ t.arrived = s.arrived)
          ∧ (∀ e, tail = true → f.pkt.dst = .ep e → f.pkt.vc ≠ 5 → t.arrived = s.arrived ++ [f.pkt] ∧ out t
            ∧ { t with tiles := s.tiles, arrived := s.arrived, flight0 := s.flight0, flight1 := s.flight1 } = s)
          ∧ (∀ m, tail = true → f.pkt.dst = .node m → (t.link (s.exitPort f.pkt m)).outq = (s.link (s.exitPort f.pkt m)).outq ++ [f.pkt]
            ∧ { t with tiles := s.tiles, links := s.links } = s)))
      ∧ (∀ x0 x1 y0 y1, f.pkt.dst = .rect x0 x1 y0 y1 →
        let bs := mcastPorts n (w / 6) x0 x1 y0 y1
        ∃ t, Becomes (.outputPortGrant n port) s t ∧ leaves t ∧ ages t
          ∧ (∀ b ∈ bs, ∀ j, neighbour n b = some j → goes t b j) ∧ (∀ j, j ≠ n → (∀ b ∈ bs, neighbour n b ≠ some j) → t.tile j = s.tile j)
          ∧ (4 ∈ bs → tail = true → out t)
          ∧ ∀ o data, f.pkt.msg = .load o data → ∀ b, t.byte b =
              if 4 ∈ bs ∧ tail = true then withBytes s.byte (storeBase n + o) data b else s.byte b))

/-- 10 R294 to R298, R300: a link that is up sends a replayed flit as it stands; else, with no key marker due and no NAK owed, queued
packets in a data flit under the next SEQ and counter, which the retry buffer keeps; at the key limit the link goes down. A flit that
fails authentication is answered with a NAK, and the third in a row takes the link down; one in sequence is taken, any other dropped; a
key marker moves the epoch and is acknowledged at once; a NAK is answered with a replay of every flit not acknowledged. A link that is
down takes nothing. 10 R295, R298, R299, R301; 19 R429: an agreement that the peer's identity key has signed is signed by this module's
and installs the next epoch's key with its counter at 0; a retraining, of a port that has a neighbour, agrees a new epoch so and seals the
whole retry buffer again under it, and without the peer's signature leaves the link down (what is signed is the model's: log 8); an exchange of timestamps, no more often than
every 65,536 ns, sets the slew and the lock by the four stamps of the neighbour toward the root (log 33). -/
def Obligations.OanenLinks : Prop :=
  (∀ (s : State) (l : Nat) (f : LinkFlit) (x : KeySlot),
      let k := s.link l
      (k.up = true →
        (∀ g r, k.replay = g :: r → k.ackIn ≠ some 0 → ∃ t, Becomes (.linkFlitSend l) s t
          ∧ OnLink s t l { k with replay := r, sentWire := k.sentWire ++ [g], ackIn := k.ackIn.map fun n => n - 1 })
        ∧ (∀ c, k.replay = [] → k.nakDue = false → s.markerDue l = false → k.retry.length < 511 → k.nextClass s.node l = some c → c < 16 →
          k.keyOf k.txEpoch = some x →
            let data := k.payload s.node l c
            (x.ctr < s.keyLimit.toNat → ∃ t g, Becomes (.linkFlitSend l) s t
              ∧ (t.link l).sentWire = k.sentWire ++ [g] ∧ hdrSeq g.hdr = k.txSeq ∧ hdrVc g.hdr = c / 2 % 8 ∧ hdrType g.hdr = 0
              ∧ g = sealFlit x.key (s.outId l) x.ctr g.hdr data.1 ∧ hdrAck g.hdr = k.rxAck ∧ (t.link l).ackIn = none
              ∧ (t.link l).txSeq = k.txSeq + 1 ∧ (t.link l).retry = k.retry ++ [{
                  seq := k.txSeq, flit := g, ptype := 0, clear := data.1, epoch := k.txEpoch }]
              ∧ (t.link l).keyOf k.txEpoch = some { x with ctr := x.ctr + 1 }
              ∧ (t.link l).outq = (k.outq.filter fun q => !data.2.1.any fun z => decide (z.id = q.id)) ∧ ∀ j, j ≠ l → t.link j = s.link j)
            ∧ (s.keyLimit.toNat ≤ x.ctr → ∃ t, Becomes (.linkFlitSend l) s t ∧ OnLink s t l k.down ∧ (t.link l).up = false)))
      ∧ (k.up = true →
        let bad := hdrOk f.hdr = false ∨ k.rkey (hdrKs f.hdr) = none
          ∨ ∃ y, k.rkey (hdrKs f.hdr) = some y ∧ authFlit y (s.inId l) f = none
        (bad → k.fails < 2 → ∃ t, Becomes (.linkFlitReceive l f) s t ∧ OnLink s t l { k with fails := k.fails + 1, nakDue := true })
        ∧ (bad → k.fails = 2 → ∃ t, Becomes (.linkFlitReceive l f) s t ∧ OnLink s t l k.down)
        ∧ ∀ c clear, hdrOk f.hdr = true → k.rkey (hdrKs f.hdr) = some x → authFlit x (s.inId l) f = some (c, clear) →
          let heard : Link := { k with
            fails := 0, rkeys := k.rkeys.map fun y => if y.epoch = x.epoch then { y with ctr := max y.ctr (c + 1) } else y }
          let acked := heard.acknowledge (hdrAck f.hdr)
          let taken : Link := { acked with rxSeq := k.rxSeq + 1, rxAck := k.rxSeq }
          (hdrType f.hdr = 0 → hdrSeq f.hdr = k.rxSeq → ∃ u, OnLink s u l { taken with ackIn := some (min (acked.ackIn.getD 7) 7) }
            ∧ Becomes (.linkFlitReceive l f) s (u.deliver l f.hdr clear))
          ∧ (hdrType f.hdr = 3 → hdrSeq f.hdr = k.rxSeq → ∃ t, Becomes (.linkFlitReceive l f) s t ∧ OnLink s t l { taken with
              ackIn := some 0, rxEpoch := x.epoch, rkeys := acked.rkeys.filter fun y => decide (x.epoch ≤ y.epoch) })
          ∧ (hdrType f.hdr = 0 ∨ hdrType f.hdr = 3 → hdrSeq f.hdr ≠ k.rxSeq → ∃ t, Becomes (.linkFlitReceive l f) s t ∧ OnLink s t l acked)
          ∧ (hdrType f.hdr = 2 → ∃ t, Becomes (.linkNakReceive l f) s t
            ∧ OnLink s t l { acked with replay := acked.retry.map fun y => y.flit }))
      ∧ (k.up = false → Becomes (.linkFlitSend l) s s ∧ Becomes (.linkFlitReceive l f) s s ∧ Becomes (.linkNakReceive l f) s s))
  ∧
  (∀ (s : State) (l : Nat) (a : Agreement) (fix : Int) (parent root : Bool) (x : KeySlot),
      let k := s.link l
      let e := k.agreed + 1
      let fresh : KeySlot := { epoch := e, key := sha3 (a.secret ++ bytesOf 4 e), ctr := 0 }
      let digest := fun (n : Nat) => sha3 (a.secret ++ bytesOf 4 e ++ bytesOf 4 n)
      let proved : Prop := ∃ n, peerOf s.node l = some n ∧ Config.peerCheck n (digest n) a.sig = true
      let mine := (Config.mldsaSign (digest s.node)).take 2420
      (k.up = true → k.slot e = none → proved → ∃ t, Becomes (.keyAgreementComplete l a) s t
        ∧ OnLink s t l { k.setSlot e (some fresh) with agreed := e, rkeys := k.rkeys ++ [fresh], signed := (t.link l).signed }
        ∧ (t.link l).keyOf e = some fresh ∧ (t.link l).signed.take mine.length = mine ∧ (t.link l).signed.length = 2420)
      ∧ (¬proved → Becomes (.keyAgreementComplete l a) s s)
      ∧ (k.torus = true → peerOf s.node l ≠ none → ¬proved → ∃ t, Becomes (.linkRetrain l a) s t ∧ OnLink s t l k.down)
      ∧ (k.torus = true → proved → ∃ t, Becomes (.linkRetrain l a) s t
        ∧ (t.link l).signed.take mine.length = mine ∧ (t.link l).up = true ∧ (t.link l).agreed = e ∧ (t.link l).txEpoch = e ∧ (t.link l).rxEpoch = e
        ∧ (t.link l).rkeys = [fresh] ∧ (t.link l).keyOf e = some { fresh with ctr := k.retry.length }
        ∧ (t.link l).retry.map (fun y => (y.seq, y.ptype, y.clear)) = k.retry.map (fun y => (y.seq, y.ptype, y.clear))
        ∧ (∀ y ∈ (t.link l).retry, y.epoch = e) ∧ (t.link l).replay = (t.link l).retry.map (fun y => y.flit)
        ∧ (t.link l).outq = k.outq ∧ (∀ j, j ≠ l → t.link j = s.link j) ∧ { t with links := s.links } = s)
      ∧ (k.torus = false ∨ peerOf s.node l = none → Becomes (.linkRetrain l a) s s)
      ∧ (k.up = true → k.stampAt + 65536 ≤ s.time.toNat → s.markerDue l = false → k.keyOf k.txEpoch = some x → x.ctr < s.keyLimit.toNat →
        let heard := if s.rootPort = l then k.stamps else none
        let offset := fun (y : Stamps) => (((y.there : Int) - y.sent) + ((y.back : Int) - y.taken)) / 2 + fix
        ∃ t, Becomes (.timestampExchange l fix parent root) s t ∧ (t.link l).stampAt = s.time.toNat
          ∧ t.timeLock = (if s.rootPort = 8 then true else match heard with | some y => decide ((offset y).natAbs ≤ 4) | none => s.timeLock)
          ∧ t.slew = (if s.rootPort = 8 then 0 else match heard with | some y => offset y | none => s.slew) ∧ t.time = s.time
          ∧ (∀ j, j ≠ l → t.link j = s.link j) ∧ { t with links := s.links, timeLock := s.timeLock, slew := s.slew } = s))

/-- 09 R268 to R273; 16 R370: a sweep every 170 cycles takes a quiescent network from WATCH to CONFIRM, and on the same finding again acts:
of the platforms that blocked writers wait for, the smallest, then the lowest of channel and of number, doubles, or MORTAR, or a stall of
readers alone, is reported; with every agent parked it goes back to WATCH. A report goes into Wilnil's fault log (09 R435), read under ASID
0 (log 28), and traps the supervisor at its next boundary; the watchdog reports once when its period has passed without progress, of which
the mark that it has is the model's own (log 34). -/
def Obligations.Supervision : Prop :=
  ∀ (s : State) (p : Nat),
    let a := s.part p
    let w := (s.setPart p { a with sweepAt := a.sweepAt + 170 }).sweepOf p
    let calm := (∀ c ∈ w.classes, c.2.1 ≠ .running) ∧ w.inj = w.ej
    let b := { a with sweepAt := a.sweepAt + 170 }
    (a.bound = true → a.loading = false → a.sweepAt ≤ s.main →
      (a.sb = .watch → calm → ∃ t, Becomes (.signalBoxSweep p) s t ∧ OnPart s t p { b with sb := .confirm, sweep := some w })
      ∧ (a.sb = .watch → ¬calm → ∃ t, Becomes (.signalBoxSweep p) s t ∧ OnPart s t p b)
      ∧ (a.sb = .confirm → ¬(calm ∧ a.sweep = some w) →
        ∃ t, Becomes (.signalBoxSweep p) s t ∧ OnPart s t p { b with sb := .watch, sweep := none })
      ∧ (a.sb = .confirm → calm → a.sweep = some w → (∃ c ∈ w.classes, c.2.1 = .blockedRead) → (∀ c ∈ w.classes, c.2.1 ≠ .blockedWrite) →
        ∃ t, Becomes (.signalBoxSweep p) s t ∧ (t.part p).sb = .held ∧ (t.part p).seq = a.seq + 1
          ∧ (t.part p).reports = a.reports ++ [{ cause := 0x0D, addr := BitVec.ofNat 64 (2 ^ 63 + (a.spillBase + 64 * (a.seq % 1024))) }])
      ∧ (a.sb = .confirm → calm → a.sweep = some w → (∀ c ∈ w.classes, c.2.1 ≠ .blockedRead ∧ c.2.1 ≠ .blockedWrite) →
        ∃ t, Becomes (.signalBoxSweep p) s t ∧ OnPart s t p { b with sb := .watch, sweep := none })
      ∧ (a.sb = .confirm → calm → a.sweep = some w → ∀ c i, (∃ z ∈ w.classes, z.2.1 = .blockedWrite) → (c, i) ∈ w.plats →
        (∀ z ∈ w.plats, let cap := ((s.chan p c).plat i).cap
          let other := ((s.chan p z.1).plat z.2).cap
          cap < other ∨ (cap = other ∧ (c < z.1 ∨ (c = z.1 ∧ i ≤ z.2)))) →
        let x := s.chan p c
        let n := max 1 (((x.plat i).cap * 8 + 4095) / 4096)
        (n ≤ a.spillSegs - a.segsUsed → ∃ t, Becomes (.signalBoxSweep p) s t ∧ (t.part p).sb = .grow
          ∧ ((t.chan p c).plat i).cap = 2 * (x.plat i).cap ∧ ((t.chan p c).plat i).toks = (x.plat i).toks
          ∧ (t.part p).segsUsed = a.segsUsed + n ∧ (t.part p).grows = a.grows + 1)
        ∧ (a.spillSegs - a.segsUsed < n → ∃ t, Becomes (.signalBoxSweep p) s t ∧ (t.part p).sb = .held
          ∧ (t.part p).reports = a.reports ++ [{ cause := 0x0E, addr := BitVec.ofNat 64 (2 ^ 63 + (a.spillBase + 64 * (a.seq % 1024))) }])))
    ∧ (∀ r rest, a.reports = r :: rest → (s.hart a.sup).atBoundary = true → (s.hart a.sup).state ≠ 4 → (s.hart a.sup).reportable = [] →
      (s.hart a.sup).pend = none → s.CanTrap a.sup →
        ∃ u t, u.part p = { a with reports := rest, ending := some (if r.cause = 0x0E then 2 else 1) }
          ∧ (∀ q, q ≠ p → u.part q = s.part q) ∧ u.faultLog = (s.svcRead (vaOf r.addr) 64).getD [] :: s.faultLog
          ∧ { u with parts := s.parts, faultLog := s.faultLog } = s ∧ Becomes (.supervisorReportTrap p) s t
          ∧ Enters u t a.sup (s.hart a.sup).pc (Trap.mk' r.cause r.addr (BitVec.ofNat 64 p)))
    ∧ (a.bound = true → a.loading = false → a.wdFired = false → a.wdPeriod ≠ 0 → a.wdPeriod.toNat * 1000 ≤ a.wdCount → a.sb ≠ .switch →
      (∀ h ∈ a.harts, (s.hart h).held = true ∨ (s.hart h).state ≠ 4) →
        ∃ t, Becomes (.watchdogExpiry p) s t ∧ (t.part p).wdFired = true ∧ (t.part p).seq = a.seq + 1
          ∧ (t.part p).reports = a.reports ++ [{ cause := 0x0D, addr := BitVec.ofNat 64 (2 ^ 63 + (a.spillBase + 64 * (a.seq % 1024))) }])

/-- 16 R371 to R374: a switch begins when TIME reaches TTNEXT, which then reads all ones, and stops every hart but the supervisor, one
that waits for a reply once it has come; a waiting BWAIT is given up. Loads in flight are cancelled with PI kept and a record of cause 0;
once nothing runs, is queued in an array or is still to be performed, the packets of the partition are parked, those for which a parking area
has no room wait at their sources (log 27), it is STOPPED, and SWBAR takes its arrival, under ASID 0 (log 28), of which bytes 17 to 31
stay (log 36); GO, after the re-bindings that Wilnil chooses (log 39), resets the race tags and issues the cancelled loads anew; when
the packets have left the mesh all harts go on together. 16 R373, R377 to R380; 19 R432: SAVE, LOAD and checkpoints are performed only
while the partition is stopped: SAVE keeps every context, and beside its bytes the hart it is of (log 27), and at a checkpoint the slot without the newest valid manifest then loses its
own; the manifest is written after the shards, and COUNT begins anew; a checkpoint that falls due has its switch scheduled within PERIOD /
16 (19 R433); a restore goes on from the newest valid manifest, and fails without
one. -/
def Obligations.GangSwitches : Prop :=
  (∀ (s : State) (p : Nat),
      let a := s.part p
      let gang := fun (h : Nat) => h ∈ a.harts ∧ h ≠ a.sup
      let waits := fun (h : Nat) => (s.hart h).unwind ≠ none ∨ ∃ w, (s.hart h).pend = some w ∧ ∀ d, w.kind ≠ .bwait d
      let halted := ∀ h, gang h → (s.hart h).stopped = true
      (s.switchDue p = true ↔ a.bound = true ∧ a.loading = false ∧ a.stopping = false ∧ a.stopped = false ∧ a.going = false ∧ a.ttnext.toNat ≤ s.time.toNat)
      ∧ (s.switchDue p = true → ∃ t, Becomes (.gangSwitchStop p) s t
          ∧ t.part p = { a with ttnext := BitVec.allOnes 64, stopping := true, sb := .switch, sweep := none }
          ∧ (∀ h, gang h → (s.hart h).stopped = false → ¬waits h → t.hart h = { s.hart h with
              pend := none, stopped := true, stalled := false, waitAcc := none
              pause := (s.hart h).pause.map fun k => k - s.cycle (h / 4) })
          ∧ (∀ h, ¬gang h ∨ (s.hart h).stopped = true ∨ waits h → t.hart h = s.hart h)
          ∧ (∀ q ∈ t.arrived, q ∈ s.arrived)
          ∧ (∀ q ∈ s.arrived, q ∈ t.arrived ∨ ∃ h i op y g r c, gang h ∧ q.msg = .atomic h i op y g r c ∧ ∃ w, (s.hart h).pend = some w
              ∧ w.id = i ∧ ∃ d, w.kind = .bwait d)
          ∧ (∀ q, q ≠ p → t.part q = s.part q) ∧ { t.withUnits s with arrived := s.arrived } = s)
      ∧ (s.switchDue p = false → Becomes (.gangSwitchStop p) s s)
      ∧ (a.stopping = true → halted → ∃ t, Becomes (.loadCancel p) s t
          ∧ (∀ h, gang h → { t.hart h with v := (s.hart h).v } = s.hart h
              ∧ (∀ v f, ((s.hart h).rv v).flight = some f → (t.hart h).rv v = { (s.hart h).rv v with
                  tag := cleanTag ((s.hart h).rv v).tag, flight := none
                  lrec := some { desc := f.desc, cause := 0, addr := f.desc.base, detail := 0, idxData := f.idxData, idxTag := f.idxTag
                                 again := f.again, spoilt := f.spoilt } })
              ∧ ∀ v, ((s.hart h).rv v).flight = none → (t.hart h).rv v = (s.hart h).rv v)
          ∧ (∀ h, ¬gang h → t.hart h = s.hart h)
          ∧ t.arrived = (s.arrived.filter fun q => !t.stale q) ∧ { t with harts := s.harts, arrived := s.arrived } = s)
      ∧ (¬(a.stopping = true ∧ halted) → Becomes (.loadCancel p) s s ∧ Becomes (.switchStopped p) s s)
      ∧ (a.stopping = true → halted → (∀ h, gang h → (s.hart h).noFlight = true) → s.arraysIdle p = true → s.allPerformed p = true →
        let due := a.ckDue || a.stepDue || s.ckTimeDue p
        let stands := fun (u : State) => ∃ l w, u.part p = { a with
              parked := a.parked ++ l, late := a.late ++ w, stopping := false, stopped := true, savePend := due, ckWriting := due, swTime := s.time }
            ∧ (∀ x ∈ l, x.2.part = some p) ∧ (∀ x ∈ w, x.part = some p) ∧ (∀ h, u.hart h = s.hart h) ∧ u.arrived = s.arrived
            ∧ ∀ x, 2 ^ 48 ≤ x → u.byte x = s.byte x
        ∃ u, stands u
          ∧ (s.ptrTrap [0, 1, 2, 3] a.swBar 32 32 ≠ none → Becomes (.switchStopped p) s u)
          ∧ (∀ n < 1024, s.ptrTrap [0, 1, 2, 3] a.swBar 32 32 = none → winOf a.swBar = 1 → tileIdOf a.swBar = n →
            u.Permits n (u.tileWindows n) 0 (offOf a.swBar) 32 true true →
            ∃ t, Becomes (.switchStopped p) s t
              ∧ MemStep u t (withBytes u.byte (storeBase n + offOf a.swBar) (afterArrival 1 (u.peek (storeBase n + offOf a.swBar) 32))))
          ∧ (∀ l, s.ptrTrap [0, 1, 2, 3] a.swBar 32 32 = none → winOf a.swBar = 2 →
            let va := vaOf a.swBar
            let k := va / 4096 % 16
            let pa := l.pa + (va - l.va)
            ((u.station k).tlb.find? fun l => decide (l.asid = 0) && decide (l.va ≤ va) && decide (va < l.va + l.size)) = some l →
            l.rd = true → l.wr = true → va % 65536 + 32 ≤ 65536 → pa + 32 ≤ bridgeBase → (l.at_ + 8 ≤ pa ∨ pa + 32 ≤ l.at_) →
            (∀ x ∈ u.poison, x + unitLen x ≤ pa ∨ pa + 32 ≤ x) →
            ∃ t, Becomes (.switchStopped p) s t
              ∧ MemStep (u.modStation k fun x => { x with recent := (0, va) :: x.recent }) t
                (withBytes (withBytes u.byte l.at_ (bytesOf 8 (u.peek64 l.at_ ||| BitVec.twoPow 64 58 ||| BitVec.twoPow 64 57).toNat)) pa
                  (afterArrival 1 (u.peek pa 32)))))
      ∧ (a.stopped = true → a.goPend = true → a.savePend = false → a.loadPend = false → a.ckWriting = false →
        let r := (Config.rebinds s.tick).foldl (fun u m => u.rebind p m) s
        let b := r.part p
        ∃ t, Becomes (.swctlGo p) s t ∧ t.part p = { b with parked := [], late := [], stopped := false, going := true, goPend := false }
          ∧ (∀ h ∈ b.harts, h ≠ b.sup → ∀ v < 64, ∀ l, ((r.hart h).rv v).lrec = some l → l.cause = 0 → ((r.hart h).rv v).flight = none →
              ((t.hart h).rv v).flight ≠ none ∨ ((t.hart h).rv v).pi = 64)
          ∧ (∀ n ∈ b.tiles, (t.tile n).clk = [] ∧ (t.tile n).rclk = [] ∧ (t.tile n).tags = [])
          ∧ ∀ h, h ∉ b.harts ∨ h = b.sup → t.hart h = r.hart h)
      ∧ (a.going = true → s.meshClear p = true → ∃ t, Becomes (.hartsReleased p) s t
          ∧ t.part p = { a with going := false, sb := .watch, sweep := none, sweepAt := s.main + 170 }
          ∧ (∀ h, gang h → ∃ k, t.hart h = { s.hart h with stopped := false, pause := k }) ∧ (∀ h, ¬gang h → t.hart h = s.hart h)
          ∧ ∀ n ∈ a.tiles, (t.tile n).seqCR = [] ∧ (t.tile n).arrCR = [] ∧ (t.tile n).divNow = (s.tile n).div))
  ∧
  (∀ (s : State) (p : Nat),
      let a := s.part p
      (a.stopped = true → a.savePend = true → s.arraysIdle p = true →
        ∃ u, Becomes (.swctlSave p) s u ∧ (u.part p).savePend = false
          ∧ (∀ h n t, (n, t) ∈ a.slots → h / 4 = t → ∃ e ∈ u.savedHarts, e.hart = s.hart h ∧ e.bytes = ((a.slots.takeWhile fun x =>
              decide (x.2 ≠ t)).foldl (fun w x => w.saveTile p x.1 x.2) s).hartContext h)
          ∧ (a.ckWriting = true → (u.part p).ckSlot = (match ((s.saveAll p).modPart p fun q => { q with savePend := false }).newest p with
              | some (0, _) => true | _ => false))
          ∧ ∀ h, u.hart h = s.hart h)
      ∧ (a.stopped = true → a.loadPend = true → a.savePend = false → a.ckWriting = false →
        ∃ u, Becomes (.swctlLoad p) s u ∧ (u.part p).loadPend = false ∧ ∀ h, h / 4 ∉ a.tiles → u.hart h = s.hart h)
      ∧ (a.bound = true →
        (a.ckEn = true ∧ a.ckLast + a.ckPeriod.toNat * 1000000 ≤ s.time.toNat) ∨ (a.thresh ≠ 0 ∧ a.thresh.toNat ≤ a.count.toNat) →
        ∃ u at_, Becomes (.checkpointDue p) s u ∧ OnPart s u p { a with ckDue := true, ttnext := at_ }
          ∧ (at_ = a.ttnext ∨ (at_ - s.time).toNat ≤ a.ckPeriod.toNat * 1000000 / 16)
          ∧ (a.ckDue = false → a.ckEn = true → a.stopping = false → a.stopped = false → a.going = false →
            at_.toNat ≤ s.time.toNat + a.ckPeriod.toNat * 1000000 / 16))
      ∧ (a.stopped = true → a.ckWriting = true → a.savePend = false →
        ∃ u, Becomes (.checkpointManifest p) s u
          ∧ u.part p = { a with ckWriting := false, ckDue := false, ckLast := s.time.toNat, count := 0 } ∧ ∀ h, u.hart h = s.hart h)
      ∧ (a.ckGoPend = true → ∃ u, Becomes (.ckreqGo p) s u ∧ (u.part p).ckGoPend = false ∧ (u.part p).ckBusy = false ∧ match s.newest p with
          | none => OnPart s u p { a with ckGoPend := false, ckBusy := false, ckFail := true }
          | some _ => (u.part p).bound = true ∧ (u.part p).going = true ∧ (u.part p).stopped = false ∧ (u.part p).ckFail = false))

/-- 18 R397 to R404; 16 R368: XLINV asks every memory station for a shoot-down and BUSY stands until all have acknowledged; a shoot-down
drops the translations it matches and counts the generation, so that a fill begun before is dropped; a read-ahead of a memory or second-tier
station, within 2 MiB of an access of the ASID (any since reset, log 32), changes no table and counts what it drops, and elsewhere there is
none; a fatal context error holds its hart at its next boundary, with a report; one inside a gate call is held when the unwind is over. -/
def Obligations.TranslationEvents : Prop :=
  ∀ (s : State) (n h : Nat) (v p : W64) (asid : BitVec 16) (va : BitVec 43),
    let x := s.station n
    let kind := v.extractLsb' 61 2
    let walks := n < 20 ∧ ∃ r ∈ x.recent, r.1 = asid ∧ r.2 ≤ va.toNat + 2 ^ 21 ∧ va.toNat ≤ r.2 + 2 ^ 21
    (s.xlBusy = false → kind ≠ 3 → ∃ u, Becomes (.xlinvWrite v) s u
      ∧ (∀ k, u.station k = if k < 20 then { s.station k with shoot := true, ackDue := true } else s.station k)
      ∧ { u with stations := s.stations } = { s with
          xlBusy := true, xlKind := kind, xlAsid := v.extractLsb' 43 16, xlVa := v.extractLsb' 16 27 })
    ∧ (s.xlBusy = true ∨ kind = 3 → Becomes (.xlinvWrite v) s s)
    ∧ (x.shoot = true → ∃ u, Becomes (.stationShootdown n) s u ∧ OnStation s u n { x with tlb := (u.station n).tlb, gen := x.gen + 1, shoot := false }
        ∧ (∀ l, l ∈ (u.station n).tlb ↔ l ∈ x.tlb ∧ ¬(match s.xlKind.toNat with
            | 0 => l.asid = s.xlAsid ∧ l.va ≤ s.xlVa.toNat * 65536 ∧ s.xlVa.toNat * 65536 < l.va + l.size
            | 1 => l.asid = s.xlAsid
            | _ => True)))
    ∧ (x.shoot = false → x.ackDue = true → ∃ u, Becomes (.shootdownAck n) s u
        ∧ u.station n = { x with ackDue := false } ∧ (∀ k, k ≠ n → u.station k = s.station k)
        ∧ (u.xlBusy = true ↔ s.xlBusy = true ∧ ∃ k < 20, (u.station k).ackDue = true)
        ∧ { u with stations := s.stations, xlBusy := s.xlBusy } = s)
    ∧ (∀ k w l, x.walks[k]? = some w → w.leaf = some l → ∃ u, Becomes (.translationFill n k) s u ∧ OnStation s u n
        { x with walks := x.walks.eraseIdx k, tlb := if w.gen = x.gen then l :: x.tlb else x.tlb })
    ∧ (¬walks → Becomes (.speculativeWalk n asid va) s s)
    ∧ (walks → ∀ l, s.walk asid va.toNat = some l → l.rd = true → ∃ u, Becomes (.speculativeWalk n asid va) s u
        ∧ OnStation s u n { x with walks := x.walks ++ [{ gen := x.gen, leaf := some l, speculative := true }] })
    ∧ (walks → (∀ l, s.walk asid va.toNat = some l → l.rd = false) → ∃ u, Becomes (.speculativeWalk n asid va) s u
        ∧ OnStation s u n { x with specdrop := x.specdrop + 1 })
    ∧ (∃ u w, OnStation s u n { x with specdrop := 0 } ∧ w = { u with answer := [x.specdrop] } ∧ Becomes (.specdropRead n) s w)
    ∧ ((s.hart h).fatal = some p → (s.hart h).held = false → (s.hart h).stopped = false → (s.hart h).inMiddle = false →
      (s.hart h).pend = none →
      ((s.hart h).unwind ≠ none → Becomes (.fatalContextHold h) s s)
      ∧ ((s.hart h).unwind = none → ∃ u w, OnHart s u h { s.hart h with fatal := none } ∧ Becomes (.fatalContextHold h) s w ∧ RomHeld u w h 0x05 p (s.hart h).pc true))

/-- 10 R282, R288; 12 R316, R318; 16 R371, R377; 18 R394, R410; 19 R421, R424, R426, R432: what a write of RTBANK, a routing entry, TSCHED,
JARB, JINJ, GFRAME, XLBASE, GOVCTL, an HDMA window, WDCFG, SWCFG, SWBAR, SWCTL, CKCFG, CKBASE or CKREQ stores. A refused write changes
nothing but the count of refusals: one of a partition's switch register by any hart but its supervisor, of SWCTL while STOPPED = 0 or
BUSY = 1, and of management in stage 0xE of bring-up. A write of management at no 8-byte boundary writes nothing. -/
def Obligations.BridgeWrites : Prop :=
  ∀ (s : State) (n e : Nat) (bank : Bool) (v : W64) (b : Byte),
    let t := s.tile n
    let refused := fun (i : Instr) => Becomes i s { s with bridgeRefused := s.bridgeRefused + 1 }
    let field := fun (lo len : Nat) => (v.extractLsb' lo len).toNat
    let retired := (bank ≠ s.inj) ∧ (if bank then s.flight1 else s.flight0) = 0
    let runs := ∃ h ∈ hartsOf n, (s.hart h).own ≠ .parked ∧ (s.hart h).stopped = false
    Becomes (.rtbankWrite v) s { s with inj := v.getLsbD 0 }
    ∧ (¬retired → refused (.routingEntryWrite true n bank e b) ∧ refused (.routingEntryWrite false n bank e b))
    ∧ (retired → ∃ u w, Becomes (.routingEntryWrite true n bank e b) s u ∧ Becomes (.routingEntryWrite false n bank e b) s w
        ∧ u.junctionRoute n bank e = b.toNat % 8 ∧ (∀ k, k ≠ e → u.junctionRoute n bank k = s.junctionRoute n bank k)
        ∧ (∀ k, u.junctionRoute n (!bank) k = s.junctionRoute n (!bank) k)
        ∧ w.linkRoute n bank e = b.toNat ∧ (∀ k, k ≠ e → w.linkRoute n bank k = s.linkRoute n bank k)
        ∧ { u with tiles := s.tiles } = s ∧ { w with links := s.links } = s)
    ∧ (v.extractLsb' 32 2 ≠ t.div → runs → refused (.tschedWrite n v))
    ∧ (v.extractLsb' 32 2 = t.div ∨ ¬runs → ∃ u, Becomes (.tschedWrite n v) s u ∧ (u.tile n).div = v.extractLsb' 32 2
        ∧ (∀ h < 4, (u.tile n).cpbOf h = min 128 (field (8 * h) 8))
        ∧ OnTile s u n { t with div := (u.tile n).div, cpb := (u.tile n).cpb })
    ∧ (∃ u, Becomes (.jarbWrite n v) s u ∧ (u.tile n).agemax = max 1 (field 32 8) ∧ (∀ k < 4, (u.tile n).weightOf k = field (8 * k) 8)
        ∧ OnTile s u n { t with agemax := (u.tile n).agemax, weight := (u.tile n).weight })
    ∧ (∃ u, Becomes (.jinjWrite n v) s u ∧ (u.tile n).jinjOf 0 = min 1024 (field 0 11) ∧ (u.tile n).jinjOf 1 = min 1024 (field 16 11)
        ∧ (u.tile n).jinjOf 3 = min 1024 (field 32 11) ∧ OnTile s u n { t with jinj := (u.tile n).jinj })
    ∧ ((s.hart n).gframe.used ≠ 0 → refused (.gframeWrite n v))
    ∧ ((s.hart n).gframe.used = 0 → ∃ u, Becomes (.gframeWrite n v) s u
        ∧ OnHart s u n { s.hart n with gframe := { size := v.extractLsb' 32 21, used := 0, base := v.extractLsb' 0 21 } })
    ∧ (s.xlLock = true → Becomes (.xlbaseWrite v) s s)
    ∧ (s.xlLock = false → Becomes (.xlbaseWrite v) s { s with xlBase := BitVec.ofNat 48 (field 19 29 * 2 ^ 19), xlLock := v.getLsbD 63 })
    ∧ Becomes (.govctlWrite v) s { s with plimit := BitVec.ofNat 16 (min 3200 (field 0 16)) }
    ∧ ((s.hdmaRegA n).getLsbD 63 = false →
        (∃ u, Becomes (.hdmaWrite n false v) s u ∧ u.hdmaRegA n = hdmaMaskA v ∧ (∀ k, k ≠ n → u.hdmaRegA k = s.hdmaRegA k)
          ∧ { u with hdmaA := s.hdmaA } = s)
        ∧ ∃ u, Becomes (.hdmaWrite n true v) s u ∧ u.hdmaRegB n = hdmaMaskB v ∧ (∀ k, k ≠ n → u.hdmaRegB k = s.hdmaRegB k)
          ∧ { u with hdmaB := s.hdmaB } = s)
    ∧ ((s.hdmaRegA n).getLsbD 63 = true → ∀ u, Becomes (.hdmaWrite n false v) s u → (u.hdmaRegA n).getLsbD 63 = true
        ∧ ∀ k ∈ [60, 61, 62], (u.hdmaRegA n).getLsbD k = true → (s.hdmaRegA n).getLsbD k = true)
    ∧ (∀ off, off % 8 ≠ 0 → Becomes (.bridgeRegisterWrite off v) s s)
    ∧ (∀ off, off % 8 = 0 → s.bootstat = 0xE → refused (.bridgeRegisterWrite off v))
    ∧ (∀ p < 16, s.bootstat ≠ 0xE →
        let a := s.part p
        let manages := fun (r : Nat) (x : Partition) => ∃ u, Becomes (.bridgeRegisterWrite (0x03001000 + 0x100 * p + r) v) s u ∧ OnPart s u p x
        manages 0 { a with wdPeriod := v.extractLsb' 0 32 }
        ∧ manages 0x20 { a with ckEn := v.getLsbD 63, ckPeriod := v.extractLsb' 32 31 }
        ∧ manages 0x28 { a with ckSlotG := v.extractLsb' 48 11, ckBase := v.extractLsb' 0 43 }
        ∧ manages 0x30 (if v.getLsbD 0 = true ∧ (a.bound = false ∨ a.stopped = true) ∧ a.ckBusy = false ∧ s.bootstat = 7 then
            { a with ckGoPend := true, ckBusy := true } else a)
        ∧ ∀ r, r = 8 ∨ r = 0x10 ∨ r = 0x18 → refused (.bridgeRegisterWrite (0x03001000 + 0x100 * p + r) v))
    ∧ (∀ p < 16,
        let a := s.part p
        let at_ := fun (r : Nat) => bridgeBase + 0x03001000 + 0x100 * p + r
        let turnedAway := { s with bridgeRefused := s.bridgeRefused + 1 }
        OnPart s (s.bridgeStore (some a.sup) (at_ 8) (bytes64 v)) p { a with swBase := v.extractLsb' 0 43 }
        ∧ OnPart s (s.bridgeStore (some a.sup) (at_ 0x10) (bytes64 v)) p { a with swBar := v }
        ∧ (a.stopped = false ∨ a.savePend = true ∨ a.loadPend = true ∨ a.ckWriting = true →
          s.bridgeStore (some a.sup) (at_ 0x18) (bytes64 v) = turnedAway)
        ∧ (a.stopped = true → a.savePend = false → a.loadPend = false → a.ckWriting = false →
          OnPart s (s.bridgeStore (some a.sup) (at_ 0x18) (bytes64 v)) p
            { a with savePend := v.getLsbD 0, loadPend := v.getLsbD 1, goPend := a.goPend || v.getLsbD 2 })
        ∧ ∀ who r, r = 8 ∨ r = 0x10 ∨ r = 0x18 → who ≠ some a.sup → s.bridgeStore who (at_ r) (bytes64 v) = turnedAway)

/-- 19 R417 to R421; 09 R253, R256: what the host's accesses do: a token written where a slot is free goes to the launch channel or to
the window's platform, else OVR is set; a read takes the head token, or gives 0 and sets UND; HCEND gives 1 for an end; HCSTAT reads
DIR, BOUND, ENDH, OVR, UND and COUNT, and the bits OVR and UND clear where 1 is written; an access to BAR0 that is no aligned 8 bytes is
ignored; BAR2 reaches memory only through a window that admits it, as the station that the address names and the one that serves the byte
translate it (log 5), and reads all ones elsewhere. 12 R304, R305; 09 R263; 19 R425 to R427, R429 to R431: Wilnil takes a message as its
tokens come and does one thing a turn (log 31); it answers one that it cannot serve with the reason, binds one that it can with TTNEXT all
ones (log 31), releases a network once its packets have arrived, and reports DONE for one whose processes have halted; what a reset, a stage
of bring-up, a loss of power, a governor tick, an overheating, a soft error and a request of management leave. The model's choices: a byte
reads 0 after a loss of power (log 1), flash, node and fault log stand over a reset (log 16), a register starts as `Hart.init` (log
15), the sensors' numbers, BOOTSTAT 0 after an overheating and the turns of the stages (logs 34, 16). -/
def Obligations.HostAndModule : Prop :=
  (∀ (s : State) (n off len : Nat) (v : W64),
      let w := s.window n
      let marks := fun (i : Instr) (x : HostWin) (ans : List W64) => ∃ u, Becomes i s u ∧ u.window n = x ∧ (∀ k, k ≠ n → u.window k = s.window k)
        ∧ { u with host := s.host } = { s with answer := ans }
      (s.winBound n = false → Becomes (.hctokWrite n v) s s ∧ Becomes (.hcendWrite n v) s s ∧ Becomes (.hcstatWrite n v) s s
        ∧ Becomes (.hctokRead n) s { s with answer := [BitVec.allOnes 64] } ∧ Becomes (.hcendRead n) s { s with answer := [BitVec.allOnes 64] })
      ∧ (s.bootstat = 7 → s.launchq.length < 256 →
          Becomes (.hctokWrite 0 v) s { s with launchq := s.launchq ++ [dataToken v] }
          ∧ Becomes (.hcendWrite 0 v) s { s with launchq := s.launchq ++ [endToken] })
      ∧ (s.winBound n = true → s.winDir n = false → s.winSlots n = 0 → n = 0 ∨ 2 ≤ n →
          (n = 0 ∨ ∀ p c, w.bind = some (p, c) → (s.chan p c).mode ≠ .deal) →
          marks (.hctokWrite n v) { w with ovr := true } s.answer ∧ marks (.hcendWrite n v) { w with ovr := true } s.answer)
      ∧ (∀ p c, s.bootstat = 7 → 2 ≤ n → n < 16 → w.bind = some (p, c) → w.dir = false → s.winSlots n ≠ 0 → s.frozen (some p) = false →
          let x := s.chan p c
          let i := x.target (endAt x.writers (.host n))
          Becomes (.hctokWrite n v) s ((s.sendStrip 1044 0 p c i [dataToken v]).nextStrip p c)
          ∧ (x.mode ≠ .deal → Becomes (.hcendWrite n v) s ((s.sendStrip 1044 0 p c i [endToken]).nextStrip p c)))
      ∧ (s.bootstat = 7 → ∀ t r, s.replyq = t :: r →
          (t.isEnd = false → t.bad = false → Becomes (.hctokRead 1) s { s with replyq := r, answer := [t.data] }
            ∧ Becomes (.hcendRead 1) s { s with answer := [0] })
          ∧ (t.isEnd = true → Becomes (.hcendRead 1) s { s with replyq := r, answer := [1] }))
      ∧ (s.winBound n = true → s.winDir n = true → s.winHead n = none →
          marks (.hctokRead n) { w with und := true } [0] ∧ Becomes (.hcendRead n) s { s with answer := [0] })
      ∧ (s.winBound n = true → marks (.hcstatWrite n v) { w with ovr := w.ovr && !v.getLsbD 60, und := w.und && !v.getLsbD 59 } s.answer)
      ∧ (n < 16 → Becomes (.hctokWrite n v) s (s.bar0Access (4096 * n) 8 (some v))
          ∧ Becomes (.hctokRead n) s (s.bar0Access (4096 * n) 8 none)
          ∧ Becomes (.hcendWrite n v) s (s.bar0Access (4096 * n + 8) 8 (some v))
          ∧ Becomes (.hcendRead n) s (s.bar0Access (4096 * n + 8) 8 none)
          ∧ Becomes (.hcstatWrite n v) s (s.bar0Access (4096 * n + 16) 8 (some v)))
      ∧ (n < 16 → s.winBound n = true → ∃ x : W64, s.bar0Access (4096 * n + 16) 8 none = { s with answer := [x] }
          ∧ x.getLsbD 63 = s.winDir n ∧ x.getLsbD 62 = true
          ∧ x.getLsbD 61 = (s.winDir n && (match s.winHead n with | some t => t.ended | none => false))
          ∧ x.getLsbD 60 = w.ovr ∧ x.getLsbD 59 = w.und
          ∧ (x.extractLsb' 0 16).toNat = min 65535 (if s.winDir n then s.winStanding n else s.winSlots n))
      ∧ (len ≠ 8 ∨ off % 8 ≠ 0 ∨ 65536 ≤ off →
          s.bar0Access off len (some v) = s ∧ s.bar0Access off len none = { s with answer := [BitVec.allOnes 64] })
      ∧ (s.bootstat ≠ 7 ∨ s.hdmaFor off = none → 0 < len → len ≤ 8 → off % 8 + len ≤ 8 →
          ∃ u, Becomes (.hostBar2Access off len none) s u ∧ (∃ x, u.answer = [x] ∧ ∀ k < 8 * len, x.getLsbD k = true) ∧ ∀ x, u.byte x = s.byte x)
      ∧ (∀ k l, s.hdmaFor off = some k → 0 < len → len ≤ 8 → off % 8 + len ≤ 8 → off % 65536 + len ≤ 65536 →
          let a := s.hdmaRegA k
          let va := (a.extractLsb' 16 27).toNat * 65536 + off - ((s.hdmaRegB k).extractLsb' 0 20).toNat * 65536
          let pa := l.pa + (va - l.va)
          let u := s.setAD l false
          s.bootstat = 7 → a.getLsbD 61 = true → va % 65536 + len ≤ 65536 →
          (∀ st, st = va / 4096 % 16 ∨ st = servedBy pa → ((s.station st).tlb.find? fun l => l.covers (a.extractLsb' 43 16) va) = some l) →
          l.rd = true → pa < bridgeBase → (∀ x ∈ u.poison, x + unitLen x ≤ pa ∨ pa + len ≤ x) →
            ∃ t, Becomes (.hostBar2Access off len none) s t ∧ t.answer = [BitVec.ofNat 64 (leNat (u.peek pa len))]
              ∧ (∀ x, t.byte x = u.byte x) ∧ t.poison = u.poison))
  ∧
  (∀ (s : State) (pnow : BitVec 16) (temp : BitVec 8) (a : Nat) (image nonce : List Byte),
      let served := s.bootstat = 7 ∧ s.replyq.length < 256
      let loads := fun (p : Nat) => (s.part p).loading = true ∧ s.meshClear p = true
      let idle := (∀ p < 16, s.endReason p = none) ∧ (∀ p < 16, ¬loads p) ∧ (∀ p < 16, s.endSwitch p = none) ∧ s.pageRequest = none
      let keeps := fun (u : State) => (∀ h, u.hart h = .init) ∧ (∀ t, u.tile t = .init) ∧ u.bootstat = 0
        ∧ ∀ x, u.byte x = if 0x010000000000 ≤ x ∧ x < bridgeBase then s.byte x else 0
      let kept := fun (u : State) => u.flashA = s.flashA ∧ u.flashB = s.flashB ∧ u.rollback = s.rollback ∧ u.node = s.node
        ∧ u.faultLog = s.faultLog
      (served → idle → s.launchIn = [] → (∀ z ∈ s.launchq, z.isEnd = false) → ∀ q r, s.launchq = q :: r →
        let n := (q.data.extractLsb' 32 16).toNat
        let lid := q.data.extractLsb' 0 16
        let answer := fun (op field : Nat) => s.replyq ++ [dataToken (BitVec.ofNat 64 (op * 2 ^ 56 + field * 2 ^ 32 + lid.toNat))]
        let rest := { s with launchq := r.drop (1 + n), launchIn := [] }
        (r.length < 1 + n → Becomes .launch s { s with launchq := [], launchIn := q :: r })
        ∧ (1 + n ≤ r.length → (q.data.extractLsb' 56 8).toNat ≠ 1 ∨ (q.data.extractLsb' 48 8).toNat ≠ 0 ∨ 4096 < n →
          Becomes .launch s { rest with replyq := answer 0x82 1 })
        ∧ (∀ y z, r = y :: z → 1 + n ≤ r.length → (q.data.extractLsb' 56 8).toNat = 1 → (q.data.extractLsb' 48 8).toNat = 0 → n ≤ 4096 →
          match planLaunch rest (rest.imageAt y.data) n (q.data.extractLsb' 16 16).toNat with
          | .error e => Becomes .launch s { rest with replyq := answer 0x82 e }
          | .ok k => ∃ u, Becomes .launch s u ∧ u.replyq = s.replyq ∧ u.launchq = rest.launchq
              ∧ (u.part k.part).bound = true ∧ (u.part k.part).loading = true ∧ (u.part k.part).lid = lid ∧ (u.part k.part).image = k.image.digest
              ∧ (u.part k.part).tiles = k.tiles ∧ (∀ e ∈ k.place, e.2 ∈ (u.part k.part).harts)
              ∧ (u.part k.part).sb = .watch ∧ (u.part k.part).ttnext = BitVec.allOnes 64))
      ∧ (∀ p < 16, served → (∀ q < 16, s.endReason q = none) → loads p → (∀ q < p, ¬loads q) →
        ∃ u, Becomes .launch s u ∧ (∀ h ∈ (s.part p).harts, (u.hart h).own = .running) ∧ (u.part p).loading = false
          ∧ u.replyq = s.replyq ++ [dataToken (BitVec.ofNat 64 (0x81 * 2 ^ 56 + p * 2 ^ 32 + (s.part p).lid.toNat))])
      ∧ (∀ p < 16, served → (s.part p).bound = true → (s.part p).loading = false → (∀ q < p, s.endReason q = none) →
        let gang := (s.part p).harts.filter fun h => decide (h ≠ (s.part p).sup)
        let ends := fun (reason : Nat) => ∃ u, Becomes .launch s u ∧ (u.part p).bound = false
          ∧ u.replyq = s.replyq ++ [dataToken (BitVec.ofNat 64 (0x83 * 2 ^ 56 + reason * 2 ^ 32 + (s.part p).lid.toNat))]
        ((s.part p).stopped = false → (∀ h ∈ gang, (s.hart h).own = .parked ∧ (s.hart h).held = false ∧ (s.hart h).td = 0) → ends 0)
        ∧ (∀ reason, (s.part p).stopped = true → (s.part p).ending = some reason → ends reason)
        ∧ (∀ h ∈ gang, (s.part p).stopped = true → (s.part p).ending = none → (s.hart h).held = true → ends 3))
      ∧ (∀ p < 16, served → (∀ q < 16, s.endReason q = none) → (∀ q < 16, ¬loads q) → (∀ q < p, s.endSwitch q = none) → (s.part p).bound = true →
        (s.part p).loading = false →
        (s.part p).ending ≠ none → (s.part p).stopping = false → (s.part p).stopped = false → (s.part p).going = false →
        s.time.toNat < (s.part p).ttnext.toNat →
          ∃ u, Becomes .launch s u ∧ u.part p = { s.part p with ttnext := s.time } ∧ ∀ h, u.hart h = s.hart h)
      ∧ (∃ u, Becomes .moduleReset s u ∧ kept u
          ∧ (if ∃ b, Config.mldsaVerify (s.bank b) = true ∧ s.rollback ≤ Config.firmwareSvn (s.bank b) then u.bootstat = 1
                ∧ Config.mldsaVerify (s.bank u.active) = true ∧ s.rollback ≤ Config.firmwareSvn (s.bank u.active)
              else u.bootstat = 0xF)
          ∧ (∀ h, u.hart h = .init) ∧ (∀ p, u.part p = .init) ∧ u.time = 0 ∧ u.inj = false ∧ u.plimit = 3200)
      ∧ (let k := s.bootstat.toNat + 1
          let passes := Config.bringUpPasses k = true ∧ (k = 6 → Config.mldsaVerify Config.wilnilImage = true)
          (k < 2 ∨ 7 < k → s.nextStage = s)
          ∧ (2 ≤ k → k ≤ 7 → ¬passes → s.nextStage = { s with bootstat := 0xF })
          ∧ (2 ≤ k → k ≤ 7 → k ≠ 6 → passes → s.nextStage = { s with bootstat := BitVec.ofNat 8 k })
          ∧ (k = 6 → passes → s.nextStage.bootstat = 6 ∧ (s.nextStage.hart 0).own = .running ∧ (s.nextStage.hart 0).svc = true
            ∧ (s.nextStage.hart 0).pc = Config.wilnilEntry.setWidth 64 ∧ s.nextStage.xlLock = true
            ∧ ∀ h, h ≠ 0 → s.nextStage.hart h = s.hart h))
      ∧ (∃ u, Becomes .powerLoss s u ∧ kept u ∧ keeps u)
      ∧ (s.time.toNat / 1000000 ≤ s.govMs ∨ s.rails = false → Becomes (.governorTick pnow temp) s s)
      ∧ (s.govMs < s.time.toNat / 1000000 → s.rails = true → temp.toNat < 110 → ∃ u, Becomes (.governorTick pnow temp) s u ∧ u.pnow = pnow ∧ u.temp = temp
          ∧ (s.plimit.toNat < pnow.toNat ∨ 95 ≤ temp.toNat → u.mhz = max 1000 (s.mhz - 100) ∧ u.thr = true)
          ∧ (¬(s.plimit.toNat < pnow.toNat ∨ 95 ≤ temp.toNat) → u.mhz = min 3000 (s.mhz + 100)
            ∧ u.thr = (s.thr && decide (u.mhz ≠ 3000)))
          ∧ { u with govMs := s.govMs, pnow := s.pnow, temp := s.temp, mhz := s.mhz, thr := s.thr } = s)
      ∧ (110 ≤ temp.toNat → ∃ u, u.rails = false ∧ u.temp = temp ∧ u.shutdowns = s.shutdowns + 1 ∧ kept u ∧ keeps u
          ∧ Becomes (.thermalShutdown temp) s u
          ∧ (s.govMs < s.time.toNat / 1000000 → s.rails = true → Becomes (.governorTick pnow temp) s u))
      ∧ (temp.toNat < 110 → Becomes (.thermalShutdown temp) s s)
      ∧ (∀ e, Becomes (.softError e true) s { s with corrected := s.corrected + 1 })
      ∧ (∃ u, Becomes (.softError (.mem a) false) s u ∧ unitOf a ∈ u.poison ∧ (∀ x ∈ s.poison, x ∈ u.poison)
          ∧ u.uncorrected = s.uncorrected + 1 ∧ ∀ x, u.byte x = s.byte x)
      ∧ (∀ (h : Nat) (r : XReg), r ≠ 0 → ∃ u, Becomes (.softError (.xreg h r) false) s u
          ∧ OnHart { s with uncorrected := s.uncorrected + 1 } u h { s.hart h with bad := xUnit r :: (s.hart h).bad })
      ∧ Becomes (.pldmMonitorRequest 6) s { s with answer := [BitVec.ofNat 64 s.uncorrected] }
      ∧ Becomes (.pldmMonitorRequest 19) s { s with answer := [BitVec.ofNat 64 s.shutdowns] }
      ∧ Becomes (.pldmMonitorRequest 0) s { s with answer := [s.pnow.setWidth 64] }
      ∧ Becomes (.pldmMonitorRequest 5) s { s with answer := [BitVec.ofNat 64 s.corrected] }
      ∧ (∃ u, Becomes (.pldmFirmwareUpdate image) s u ∧ u.bank (!s.active) = image ∧ u.bank s.active = s.bank s.active
          ∧ { u with flashA := s.flashA, flashB := s.flashB, fwNew := s.fwNew } = s)
      ∧ ∃ ws, ws.length = 319 ∧ Becomes (.spdmRequest nonce) s { s with answer := ws })

/-- 03 R88, R94, R95; 05 R146, R150; 04 R140: before its own effect an instruction traps ILL of step 4 for a vector register that starts
no row, DOM of kind 4 where a gate call bars it, and ND under Kahn; one whose guard is false, or an element-wise one at VL = 0, retires
without effect. -/
def Obligations.IssueSteps : Prop :=
  ∀ (s : State) (c : Ctl) (x : XReg) (v u : VReg) (b : XI) (e : VXI) (k : KReg) (m : MemOp),
    let h := s.hart s.cur
    let rest := fun (hd : Head) => (∀ v ∈ hd.vs, v.toNat % h.rc = 0) ∧ (∀ n ∈ hd.mults, n % h.rc = 0) ∧ hd.dom = none
      ∧ (hd.nd = true → h.kahn = false)
    let skips := fun (i : Instr) (hd : Head) => Completes i s c (hd.flags c) h
    (h.gdepth = 0 → h.guard0 c = false →
      skips (.add c x x b) { mods := 0x38 } ∧ skips (.div c x x b) { mods := 0x30 } ∧ skips (.bz c x 0) {} ∧ skips (.step c) {}
        ∧ skips (.ld c x m) { mods := 0x38 } ∧ skips (.st c m b none) { mods := 0x30 } ∧ skips (.fenceRel c .sys) {})
    ∧ (h.gdepth = 0 → h.vl = 0 →
      (rest { vs := [v, u] } → skips (.vneg c v u) { vs := [v, u], aV := true, mods := 0x08, elem := true })
      ∧ (rest { vs := [v, u] ++ e.regs } →
        skips (.vadd c v u e) { vs := v :: u :: e.regs, aV := true, bV := !e.regs.isEmpty, mods := 0x1F, elem := true }))
    ∧ (s.CanTrap s.cur → v.toNat % h.rc ≠ 0 ∨ u.toNat % h.rc ≠ 0 ∨ (∃ r ∈ e.regs, r.toNat % h.rc ≠ 0) → TrapsWith (.vadd c v u e) s 0x01 0 4)
    ∧ (s.CanTrap s.cur → h.gdepth ≠ 0 → TrapsWith (.send c k b) s 0x0A 0 0x4000)
    ∧ (s.CanTrap s.cur → h.gdepth = 0 → h.kahn = true →
        TrapsWith (.timewait c x b) s 0x0C 0 0 ∧ TrapsWith (.lda c x m) s 0x0C 0 0 ∧ TrapsWith (.amoadd c x m b) s 0x0C 0 0)

/-- 03 R81 to R91: every well-formed instruction's word decodes to that instruction, with every operand at every value. -/
def Obligations.DecodeEncode : Prop := ∀ (i : Instr) (w : IWord), i.wf = true → encode i = some w → decode w = .ok i

/-- 03 R94: a word that decodes is the encoding of exactly the well-formed instruction it decodes to: no field of it is dropped. -/
def Obligations.EncodeDecode : Prop := ∀ (i : Instr) (w : IWord), decode w = .ok i → i.wf = true ∧ encode i = some w

/-- 03 R83 to R85, 04 to 07: words written out from the spec's encodings decode to the instructions they stand for. -/
def Obligations.DecodeWords : Prop :=
  let plain : Ctl := { mod := 0, ginv := false, gpred := 0, yld := false, la := false, lb := false, prio := 0, rsv := 0 }
  decode 0x330018750200042000520006 = .ok (.vmad { plain with mod := 1, ginv := true, gpred := 7, la := true, prio := 2 } 4 5 (.v 6))
    ∧ decode 0x850000000E500420004C0013 = .ok (.vst plain { base := 5, off := 4 } 4 (some { slot := 3, last := true }))
    ∧ decode 0x740000000600222000820010 = .ok (.mma plain 2 8 16)
    ∧ decode 0xB8008000000004E900000006 = .ok (.cas128 { plain with mod := 8 } 4 { base := 9, off := 0 } 6)
    ∧ decode 0xA60400000000000000000000 = .ok (.fenceRel plain .dev)
    ∧ decode 0xA6040000000000000000000A = .error { step := 2, field := 2 }
    ∧ decode 0 = .error { step := 1, field := 0 }

/-- 03 R82, R92; 12 R311: on its turn a hart that may go on executes the instruction that the 12 bytes at its PC decode to, where the
sequencer gave it that turn or the instruction is none that needs the lanes; for an eligible hart whose instruction needs them the
sequencer picks. One that reads an x, p or g register with an uncorrectable error traps POISON (19 R430; TRAPINFO: log 26). A hart that
unwinds a gate call goes on with that before all else (18 R414). Then time passes: nothing but TIME, the main clock, the watchdogs, the counts of a period that has ended (12 R312,
R315) and the model's own counter moves. An event's turn performs that event (log 3), and so do
the turns of bring-up's stages, of the host and of management (logs 16, 34). -/
def Obligations.StepRunsDecoded : Prop :=
  (∀ (s : State) (h : Nat) (own : Bool) (r : List Turn) (i : Instr), s.sched = (if own then .hart h else .lanes h) :: r → h < 4096 →
    let a := s.hart h
    let s1 := { s with sched := r, cur := h }
    let place := storeBase (h / 4) + a.pc.toNat
    let does := fun (i : Instr) => step s = match exec i s1 with
      | .next t => .next t.pass | .fault f => .fault f | .refused x => .refused x
    s.switchFor h = none → a.held = false → a.stopped = false → a.own ≠ .parked → a.fatal = none → a.unwind = none → a.pend = none →
    a.pause = none → a.inMiddle = false → a.reportable = [] → (a.state = 4 ∨ s.reportOf h = none) →
    a.pc.toNat % 4 = 0 → a.pc.toNat + 12 ≤ a.xbndF.toNat →
    (∀ x ∈ s.stlog.take (s.stlog.length - a.syncAt), x.1 + x.2.length ≤ place ∨ place + 12 ≤ x.1) →
    decode (bytesWord (s.peek place 12)) = .ok i →
      (a.bad = [] → own = false ∨ (laneExec i).isNone = true → does i)
      ∧ (a.bad = [] → own = true → a.own = .running → s1.eligible h = true → s1.lanesFree (h / 4) = true →
        does (.vectorSequencerPick (h / 4)))
      ∧ ((∃ u ∈ a.bad, u ∈ a.readUnits i) → s.CanTrap h →
        ∃ t n, step s = .next t.pass ∧ n < 64 ∧ Enters s1 t h a.pc (Trap.mk' 0x09 0 (BitVec.ofNat 64 (128 + n)))))
  ∧ (∀ (s : State) (h : Nat) (own : Bool) (r : List Turn), s.sched = (if own then .hart h else .lanes h) :: r → h < 4096 →
    (s.hart h).unwind ≠ none → (s.hart h).held = false → (s.hart h).stopped = false →
      step s = .next ({ s with sched := r, cur := h }.unwindTurn h).pass)
  ∧ (∀ (s : State) (r : List Turn) (off len : Nat) (v : Option W64),
    (s.sched = .stage :: r → step s = .next { s with sched := r }.nextStage.pass)
    ∧ (s.sched = .access true off len v :: r → step s = .next ({ s with sched := r }.bar0Access off len v).pass)
    ∧ (s.sched = .access false off len v :: r → step s = .next ({ s with sched := r }.bridgeAccess off len v).pass))
  ∧ (∀ (s : State) (i : Instr) (r : List Turn), s.sched = .event i :: r → isEvent i = true →
      step s = match exec i { s with sched := r } with
        | .next t => .next t.pass | .fault f => .fault f | .refused x => .refused x)
  ∧ ∀ t : State, t.pass.tick = t.tick + 1
    ∧ (∀ p, { t.pass.part p with wdCount := (t.part p).wdCount } = t.part p)
    ∧ (∀ h, t.pass.hart h = { t.hart h with
        spent := if t.cycle (h / 4) / 1024 < t.pass.cycle (h / 4) / 1024 then 0 else (t.hart h).spent })
    ∧ (∀ n, t.pass.tile n = { t.tile n with
        cpSpent := if t.cycle n / 1024 < t.pass.cycle n / 1024 then [] else (t.tile n).cpSpent
        injSpent := if t.main / 1024 < t.pass.main / 1024 then [] else (t.tile n).injSpent })
    ∧ (∀ n, t.pass.station n = { t.station n with units := if t.main / 1024 < t.pass.main / 1024 then [] else (t.station n).units })
    ∧ { t.pass with
        time := t.time, main := t.main, tick := t.tick, slew := t.slew, slewAcc := t.slewAcc, parts := t.parts, harts := t.harts
        tiles := t.tiles, stations := t.stations } = t

/-- 00 R3 on: from every state a step answers a next state: what goes wrong is a trap, a held hart, a refused access or nothing. -/
def Obligations.EveryStepContinues : Prop :=
  (∀ s : State, Continues (step s)) ∧ ∀ (i : Instr) (s : State), Continues (exec i s)

/-- 01 R14, R19, R24, R29, R32, R34, R35, R39, R41, R42; 16 R357: what reset leaves in every register of every hart to which the spec
gives a reset value; memory is listed canonically, and every unlisted byte reads 0 (log 1: the model's choice). -/
def Obligations.ResetState : Prop :=
  let s := State.reset
  (∀ h, (∀ x, (s.hart h).rx x = 0) ∧ (∀ p, (s.hart h).rp p = if p = 0 then BitVec.allOnes 2048 else 0)
      ∧ (∀ v, (s.hart h).rv v = { data := 0, tag := 0, pi := 64, lrec := none, flight := none }) ∧ (∀ g, (s.hart h).rg g = 0)
      ∧ (∀ w, (s.hart h).rw w = { count := 0, fail := none }) ∧ (∀ k, (s.hart h).rk k = none)
      ∧ (∀ i, (s.hart h).entry i = none) ∧ (s.hart h).td = 0 ∧ (s.hart h).unread = false)
  ∧ (∀ h r, s.readCreg h r = if r = 0x00 then 0x500 else if r = 0x18 then 0xF0000 else if r = 0x48 then BitVec.allOnes 64
      else if r = 0x49 then 1024 else if r = 0x70 then 2 ^ 36 else 0)
  ∧ (∀ t m, s.accum t m = { cells := [], isInt := false, owner := none, flags := 0, poisoned := 0, covered := true })
  ∧ Memory.wf s.mem = true ∧ ∀ x, s.byte x = 0

/-- The model's own invariant, of the memory whose addresses 19 R422 and R423 lay out: from every state whose memory is in its canonical form (rising addresses, no byte listed that
reads as an unlisted one), a step leaves it so (log 1). -/
def Obligations.MemoryStaysCanonical : Prop :=
  ∀ s t : State, Memory.wf s.mem = true → step s = .next t → Memory.wf t.mem = true
end

