-- ==== Sys2Proof/Laws/Codec.lean ====
section
/-! SUPPORT. Lemmas of the encodings: a word and its fields are one thing, and each operand field reads a value exactly when it is
that value's code. -/

namespace Sys2Proof.Laws

/-! ### Parts of a concatenation -/

theorem extract_skip {m n : Nat} (a : BitVec m) (b : BitVec n) (s l : Nat) (h : n ≤ s) :
    (a ++ b).extractLsb' s l = a.extractLsb' (s - n) l := by
  ext i hi
  simp only [BitVec.getElem_extractLsb', BitVec.getLsbD_append]
  rw [if_neg (by omega)]
  congr 1
  omega

theorem extract_low {m n : Nat} (a : BitVec m) (b : BitVec n) : (a ++ b).extractLsb' 0 n = b := by
  ext i hi
  simp [BitVec.getLsbD_append, hi]

theorem extract_all {n : Nat} (a : BitVec n) : a.extractLsb' 0 n = a := by
  ext i hi
  simp

theorem extract_high {m n : Nat} (a : BitVec m) (b : BitVec n) : (a ++ b).extractLsb' n m = a :=
  (extract_skip a b n m (Nat.le_refl n)).trans (by rw [Nat.sub_self]; exact extract_all a)

theorem bit_skip {m n : Nat} (a : BitVec m) (b : BitVec n) (k : Nat) (h : n ≤ k) :
    (a ++ b).getLsbD k = a.getLsbD (k - n) := by
  rw [BitVec.getLsbD_append, if_neg (by omega)]

theorem bit_low {m : Nat} (a : BitVec m) (b : Bool) : (a ++ BitVec.ofBool b).getLsbD 0 = b := by
  rw [BitVec.getLsbD_append, if_pos Nat.one_pos]
  cases b <;> rfl

theorem extract_bit {n : Nat} (w : BitVec n) (s : Nat) : w.extractLsb' s 1 = BitVec.ofBool (w.getLsbD s) := by
  apply BitVec.eq_of_getLsbD_eq
  intro i hi
  obtain rfl : i = 0 := by omega
  rw [BitVec.getLsbD_extractLsb']
  simp

/-- A part is its own high part followed by its low part. -/
theorem cut {k : Nat} (w : BitVec k) (s m n : Nat) :
    w.extractLsb' s (m + n) = w.extractLsb' (s + n) m ++ w.extractLsb' s n := by
  apply BitVec.eq_of_getLsbD_eq
  intro i hi
  rw [BitVec.getLsbD_append]
  simp only [BitVec.getLsbD_extractLsb']
  split
  · simp [*]
  · have h1 : i - n < m := by omega
    have h2 : s + n + (i - n) = s + i := by omega
    simp [hi, h1, h2]

/-- A vector is its high part followed by its low part. -/
theorem join_parts {m n : Nat} (o : BitVec (m + n)) : o.extractLsb' n m ++ o.extractLsb' 0 n = o := by
  have h := cut o 0 m n
  rw [extract_all, Nat.zero_add] at h
  exact h.symm

/-- The high part is h and the low part is l exactly when the vector is h followed by l. -/
theorem eq_append_iff {m n : Nat} (o : BitVec (m + n)) (h : BitVec m) (l : BitVec n) :
    o = h ++ l ↔ o.extractLsb' n m = h ∧ o.extractLsb' 0 n = l := by
  constructor
  · rintro rfl
    exact ⟨extract_high h l, extract_low h l⟩
  · rintro ⟨rfl, rfl⟩
    exact (join_parts o).symm

/-! ### Words and fields (03 R81) -/

theorem join_opc (f : Fields) : (joinWord f).extractLsb' 88 8 = f.opc := by
  unfold joinWord
  iterate 12 refine (extract_skip _ _ _ _ (by decide)).trans ?_
  exact extract_all _

theorem join_sub (f : Fields) : (joinWord f).extractLsb' 82 6 = f.sub := by
  unfold joinWord
  iterate 11 refine (extract_skip _ _ _ _ (by decide)).trans ?_
  exact extract_low _ _

theorem join_mod (f : Fields) : (joinWord f).extractLsb' 76 6 = f.mod := by
  unfold joinWord
  iterate 10 refine (extract_skip _ _ _ _ (by decide)).trans ?_
  exact extract_low _ _

theorem join_ginv (f : Fields) : (joinWord f).getLsbD 75 = f.ginv := by
  unfold joinWord
  iterate 9 refine (bit_skip _ _ _ (by decide)).trans ?_
  exact bit_low _ _

theorem join_gpred (f : Fields) : (joinWord f).extractLsb' 68 7 = f.gpred := by
  unfold joinWord
  iterate 8 refine (extract_skip _ _ _ _ (by decide)).trans ?_
  exact extract_low _ _

theorem join_yld (f : Fields) : (joinWord f).getLsbD 67 = f.yld := by
  unfold joinWord
  iterate 7 refine (bit_skip _ _ _ (by decide)).trans ?_
  exact bit_low _ _

theorem join_la (f : Fields) : (joinWord f).getLsbD 66 = f.la := by
  unfold joinWord
  iterate 6 refine (bit_skip _ _ _ (by decide)).trans ?_
  exact bit_low _ _

theorem join_lb (f : Fields) : (joinWord f).getLsbD 65 = f.lb := by
  unfold joinWord
  iterate 5 refine (bit_skip _ _ _ (by decide)).trans ?_
  exact bit_low _ _

theorem join_prio (f : Fields) : (joinWord f).extractLsb' 63 2 = f.prio := by
  unfold joinWord
  iterate 4 refine (extract_skip _ _ _ _ (by decide)).trans ?_
  exact extract_low _ _

theorem join_rsv (f : Fields) : (joinWord f).extractLsb' 60 3 = f.rsv := by
  unfold joinWord
  iterate 3 refine (extract_skip _ _ _ _ (by decide)).trans ?_
  exact extract_low _ _

theorem join_d (f : Fields) : (joinWord f).extractLsb' 40 20 = f.d := by
  unfold joinWord
  iterate 2 refine (extract_skip _ _ _ _ (by decide)).trans ?_
  exact extract_low _ _

theorem join_a (f : Fields) : (joinWord f).extractLsb' 20 20 = f.a := by
  unfold joinWord
  refine (extract_skip _ _ _ _ (by decide)).trans ?_
  exact extract_low _ _

theorem join_b (f : Fields) : (joinWord f).extractLsb' 0 20 = f.b := extract_low _ _

/-- Splitting the word of some fields gives the fields back. -/
theorem split_join (f : Fields) : splitWord (joinWord f) = f := by
  unfold splitWord
  rw [join_opc, join_sub, join_mod, join_ginv, join_gpred, join_yld, join_la, join_lb, join_prio, join_rsv, join_d, join_a, join_b]

/-- Joining the fields of a word gives the word back. -/
theorem join_split (w : IWord) : joinWord (splitWord w) = w := by
  have e : w.extractLsb' 0 96 = w := extract_all w
  rw [cut w 0 76 20, cut w 20 56 20, cut w 40 36 20, cut w 60 33 3, cut w 63 31 2, cut w 65 30 1, cut w 66 29 1, cut w 67 28 1,
    cut w 68 21 7, cut w 75 20 1, cut w 76 14 6, cut w 82 8 6, extract_bit, extract_bit, extract_bit, extract_bit] at e
  exact e

end Sys2Proof.Laws
end

