-- ==== Sys2Proof/Laws/SMap.lean ====
section
/-! SUPPORT. Lemmas of the sparse maps: what a write leaves and changes, and that it keeps the canonical form. -/

namespace Sys2Proof.Machine

variable {α : Type}

@[simp] theorem mget_nil (d : α) (k : Nat) : mget d [] k = d := rfl

theorem mget_mput_same (d : α) (m : SMap α) (k : Nat) (v : α) : mget d (mput m k v) k = v := by
  induction m with
  | nil => simp [mput, mget]
  | cons e r ih =>
    obtain ⟨k', v'⟩ := e
    unfold mput
    split
    · simp [mget]
    · split
      · simp [mget]
      · simp [mget, *]

theorem mget_mput_ne (d : α) (m : SMap α) (k j : Nat) (v : α) (h : j ≠ k) : mget d (mput m k v) j = mget d m j := by
  have h' : k ≠ j := fun e => h e.symm
  induction m with
  | nil => simp [mput, mget, h']
  | cons e r ih =>
    obtain ⟨k', v'⟩ := e
    unfold mput
    split
    · simp [mget, h']
    · split
      · subst_vars
        simp [mget, h']
      · simp [mget, ih]

@[simp] theorem mget_mput (d : α) (m : SMap α) (k j : Nat) (v : α) :
    mget d (mput m k v) j = if j = k then v else mget d m j := by
  split
  · subst_vars
    exact mget_mput_same d m _ v
  · exact mget_mput_ne d m k j v (by assumption)

@[simp] theorem mget_mdel (d : α) (m : SMap α) (k j : Nat) : mget d (mdel m k) j = if j = k then d else mget d m j := by
  induction m with
  | nil => simp [mdel]
  | cons e r ih =>
    obtain ⟨k', v'⟩ := e
    unfold mdel
    split
    · rw [ih]
      split
      · rfl
      · rename_i h1 h2
        subst h1
        simp [mget, Ne.symm h2]
    · simp only [mget, ih]
      split
      · split
        · subst_vars
          contradiction
        · rfl
      · rfl

@[simp] theorem mget_mset [DecidableEq α] (d : α) (m : SMap α) (k j : Nat) (v : α) :
    mget d (mset d m k v) j = if j = k then v else mget d m j := by
  unfold mset
  split
  · subst_vars
    exact mget_mdel _ m k j
  · exact mget_mput d m k j v

/-! ### The canonical form -/

/-- Every key of m is above k. -/
def above (k : Nat) (m : SMap α) : Prop := ∀ e ∈ m, k < e.1

theorem rising_cons {k : Nat} {v : α} {m : SMap α} : mrising ((k, v) :: m) = true ↔ above k m ∧ mrising m = true := by
  induction m generalizing k v with
  | nil => simp [mrising, above]
  | cons e r ih =>
    obtain ⟨k', v'⟩ := e
    have h : mrising ((k, v) :: (k', v') :: r) = (decide (k < k') && mrising ((k', v') :: r)) := rfl
    rw [h, Bool.and_eq_true, decide_eq_true_iff]
    constructor
    · rintro ⟨h1, h2⟩
      refine ⟨?_, h2⟩
      intro e he
      rcases List.mem_cons.1 he with rfl | he
      · exact h1
      · exact Nat.lt_trans h1 ((ih.1 h2).1 e he)
    · rintro ⟨h1, h2⟩
      exact ⟨h1 _ List.mem_cons_self, h2⟩

theorem mem_mput {m : SMap α} {k : Nat} {v : α} {e : Nat × α} (h : e ∈ mput m k v) : e = (k, v) ∨ e ∈ m := by
  induction m with
  | nil => simpa [mput] using h
  | cons f r ih =>
    obtain ⟨k', v'⟩ := f
    unfold mput at h
    split at h
    · exact List.mem_cons.1 h
    · split at h
      · rcases List.mem_cons.1 h with h | h
        · exact .inl h
        · exact .inr (List.mem_cons_of_mem _ h)
      · rcases List.mem_cons.1 h with rfl | h
        · exact .inr List.mem_cons_self
        · exact (ih h).imp id (List.mem_cons_of_mem _)

theorem rising_mput {m : SMap α} (k : Nat) (v : α) (h : mrising m = true) : mrising (mput m k v) = true := by
  induction m with
  | nil => rfl
  | cons e r ih =>
    obtain ⟨k', v'⟩ := e
    have ⟨h1, h2⟩ := rising_cons.1 h
    unfold mput
    split
    · rename_i hk
      exact rising_cons.2 ⟨fun e he => by
        rcases List.mem_cons.1 he with rfl | he
        · exact hk
        · exact Nat.lt_trans hk (h1 e he), h⟩
    · split
      · subst_vars
        exact rising_cons.2 ⟨h1, h2⟩
      · exact rising_cons.2 ⟨fun e he => by
          rcases mem_mput he with rfl | he
          · exact Nat.lt_of_le_of_ne (Nat.le_of_not_lt (by assumption)) (by assumption)
          · exact h1 e he, ih h2⟩

theorem mem_mdel {m : SMap α} {k : Nat} {e : Nat × α} (h : e ∈ mdel m k) : e ∈ m := by
  induction m with
  | nil => exact h
  | cons f r ih =>
    obtain ⟨k', v'⟩ := f
    unfold mdel at h
    split at h
    · exact List.mem_cons_of_mem _ (ih h)
    · rcases List.mem_cons.1 h with rfl | h
      · exact List.mem_cons_self
      · exact List.mem_cons_of_mem _ (ih h)

theorem rising_mdel {m : SMap α} (k : Nat) (h : mrising m = true) : mrising (mdel m k) = true := by
  induction m with
  | nil => rfl
  | cons e r ih =>
    obtain ⟨k', v'⟩ := e
    have ⟨h1, h2⟩ := rising_cons.1 h
    unfold mdel
    split
    · exact ih h2
    · exact rising_cons.2 ⟨fun e he => h1 e (mem_mdel he), ih h2⟩

theorem wf_iff [DecidableEq α] {d : α} {m : SMap α} : mwf d m = true ↔ mrising m = true ∧ ∀ e ∈ m, e.2 ≠ d := by
  simp [mwf, List.all_eq_true]

/-- A write keeps the canonical form. -/
theorem wf_mset [DecidableEq α] {d : α} {m : SMap α} (k : Nat) (v : α) (h : mwf d m = true) : mwf d (mset d m k v) = true := by
  have ⟨h1, h2⟩ := wf_iff.1 h
  unfold mset
  split
  · exact wf_iff.2 ⟨rising_mdel k h1, fun e he => h2 e (mem_mdel he)⟩
  · refine wf_iff.2 ⟨rising_mput k v h1, fun e he => ?_⟩
    rcases mem_mput he with rfl | he
    · assumption
    · exact h2 e he

theorem rising_filter {m : SMap α} (f : Nat × α → Bool) (h : mrising m = true) : mrising (m.filter f) = true := by
  induction m with
  | nil => rfl
  | cons e r ih =>
    obtain ⟨k', v'⟩ := e
    have ⟨h1, h2⟩ := rising_cons.1 h
    rw [List.filter_cons]
    split
    · exact rising_cons.2 ⟨fun e he => h1 e ((List.mem_filter.1 he).1), ih h2⟩
    · exact ih h2

/-- Dropping entries keeps the canonical form. -/
theorem wf_filter [DecidableEq α] {d : α} {m : SMap α} (f : Nat × α → Bool) (h : mwf d m = true) : mwf d (m.filter f) = true :=
  have ⟨h1, h2⟩ := wf_iff.1 h
  wf_iff.2 ⟨rising_filter f h1, fun e he => h2 e ((List.mem_filter.1 he).1)⟩

/-- Maps in canonical form that read alike are one list. -/
theorem wf_ext [DecidableEq α] {d : α} {m n : SMap α} (hm : mwf d m = true) (hn : mwf d n = true)
    (h : ∀ k, mget d m k = mget d n k) : m = n := by
  have look : ∀ {r : SMap α} {k : Nat}, above k r → mget d r k = d := by
    intro r
    induction r with
    | nil => intros; rfl
    | cons e r ih =>
      intro k hk
      obtain ⟨k', v'⟩ := e
      have h1 := hk _ List.mem_cons_self
      have h2 : ¬ k' = k := by simp only at h1; omega
      simp only [mget, h2, if_false]
      exact ih fun e he => hk e (List.mem_cons_of_mem _ he)
  induction m generalizing n with
  | nil =>
    cases n with
    | nil => rfl
    | cons e r =>
      obtain ⟨k, v⟩ := e
      have := h k
      simp only [mget, if_true] at this
      exact absurd this.symm ((wf_iff.1 hn).2 _ List.mem_cons_self)
  | cons e r ih =>
    obtain ⟨k, v⟩ := e
    have ⟨hm1, hm2⟩ := wf_iff.1 hm
    have ⟨ha, hr⟩ := rising_cons.1 hm1
    cases n with
    | nil =>
      have := h k
      simp only [mget, if_true] at this
      exact absurd this (hm2 _ List.mem_cons_self)
    | cons f q =>
      obtain ⟨j, w⟩ := f
      have ⟨hn1, hn2⟩ := wf_iff.1 hn
      have ⟨hb, hq⟩ := rising_cons.1 hn1
      have hkj : k = j := by
        rcases Nat.lt_trichotomy k j with hlt | rfl | hlt
        · have := h k
          simp only [mget, if_true] at this
          rw [if_neg (by omega), look fun e he => Nat.lt_trans hlt (hb e he)] at this
          exact absurd this (hm2 _ List.mem_cons_self)
        · rfl
        · have := h j
          simp only [mget, if_true] at this
          rw [if_neg (by omega), look fun e he => Nat.lt_trans hlt (ha e he)] at this
          exact absurd this.symm (hn2 _ List.mem_cons_self)
      subst hkj
      have hv : v = w := by simpa [mget] using h k
      subst hv
      rw [ih (wf_iff.2 ⟨hr, fun e he => hm2 e (List.mem_cons_of_mem _ he)⟩)
        (wf_iff.2 ⟨hq, fun e he => hn2 e (List.mem_cons_of_mem _ he)⟩) fun i => ?_]
      have := h i
      simp only [mget] at this
      split at this
      · subst_vars
        rw [look ha, look hb]
      · exact this

end Sys2Proof.Machine
end

