-- ==== Sys2Proof/Laws/Memory.lean ====
section
/-! SUPPORT. What each memory operation reads, writes and leaves, and that every one of them keeps the canonical form of memory. -/

namespace Sys2Proof.Machine

@[simp] theorem length_readBytes (m : List Host.Cell) (a n : Nat) : (readBytes m a n).length = n := by
  induction n generalizing a with
  | zero => rfl
  | succ n ih => simp [readBytes, ih]

theorem getElem_readBytes (m : List Host.Cell) (a n i : Nat) (h : i < (readBytes m a n).length) : (readBytes m a n)[i] = mget 0 m (a + i) := by
  induction n generalizing a i with
  | zero => simp at h
  | succ n ih =>
    cases i with
    | zero => rfl
    | succ i =>
      simp only [readBytes, List.getElem_cons_succ]
      rw [ih, Nat.add_assoc, Nat.add_comm 1]

/-- A write of bytes at a: a byte outside it reads as before. -/
theorem mget_writeBytes_out (m : List Host.Cell) (a : Nat) (bs : List Byte) (x : Nat) (h : x < a ∨ a + bs.length ≤ x) :
    mget 0 (writeBytes m a bs) x = mget 0 m x := by
  induction bs generalizing m a with
  | nil => rfl
  | cons b r ih =>
    simp only [List.length_cons] at h
    rw [writeBytes, ih _ _ (by omega), mget_mset, if_neg (by omega)]

/-- A write of bytes at a: byte i of it reads back. -/
theorem mget_writeBytes_in (m : List Host.Cell) (a : Nat) (bs : List Byte) (i : Nat) (h : i < bs.length) :
    mget 0 (writeBytes m a bs) (a + i) = bs[i] := by
  induction bs generalizing m a i with
  | nil => simp at h
  | cons b r ih =>
    cases i with
    | zero => rw [writeBytes, mget_writeBytes_out _ _ _ _ (by omega)]; simp
    | succ i =>
      rw [writeBytes, show a + (i + 1) = a + 1 + i by omega, ih]
      rfl

/-- A read of the bytes a write wrote gives them. -/
theorem readBytes_writeBytes (m : List Host.Cell) (a : Nat) (bs : List Byte) : readBytes (writeBytes m a bs) a bs.length = bs := by
  refine List.ext_getElem (by simp) fun i h _ => ?_
  rw [getElem_readBytes, mget_writeBytes_in _ _ _ _ (by simpa using h)]

/-- A read that meets no byte of a write gives what it gave. -/
theorem readBytes_writeBytes_out (m : List Host.Cell) (a : Nat) (bs : List Byte) (x n : Nat) (h : x + n ≤ a ∨ a + bs.length ≤ x) :
    readBytes (writeBytes m a bs) x n = readBytes m x n := by
  refine List.ext_getElem (by simp) fun i hi _ => ?_
  simp only [length_readBytes] at hi
  rw [getElem_readBytes, getElem_readBytes, mget_writeBytes_out _ _ _ _ (by omega)]

theorem wf_writeBytes (m : List Host.Cell) (a : Nat) (bs : List Byte) (h : Memory.wf m = true) : Memory.wf (writeBytes m a bs) = true := by
  induction bs generalizing m a with
  | nil => exact h
  | cons b r ih => exact ih _ _ (wf_mset a b h)

/-! ### The operations that write memory: these are all of them -/

theorem State.pokeRaw_wf (s : State) (a : Nat) (bs : List Byte) (h : Memory.wf s.mem = true) : Memory.wf (s.pokeRaw a bs).mem = true :=
  wf_writeBytes _ a bs h

theorem State.poke_wf (s : State) (a : Nat) (bs : List Byte) (h : Memory.wf s.mem = true) : Memory.wf (s.poke a bs).mem = true :=
  wf_writeBytes _ a bs h

theorem State.poke64_wf (s : State) (a : Nat) (v : W64) (h : Memory.wf s.mem = true) : Memory.wf (s.poke64 a v).mem = true :=
  wf_writeBytes _ a _ h

theorem State.pokeMasked_wf (s : State) (a : Nat) (bs : List Byte) (m : List (BitVec 2)) (h : Memory.wf s.mem = true) :
    Memory.wf (s.pokeMasked a bs m).mem = true := wf_writeBytes _ a _ h

theorem State.cleared_wf (s : State) (h : Memory.wf s.mem = true) : Memory.wf s.cleared.mem = true := wf_filter _ h

theorem State.unpowered_wf (s : State) (h : Memory.wf s.mem = true) : Memory.wf s.unpowered.mem = true := wf_filter _ h

theorem State.withFetchWord_wf (s : State) (n w : Nat) (h : Memory.wf s.mem = true) : Memory.wf (s.withFetchWord n w).mem = true :=
  wf_writeBytes _ _ _ h

theorem State.reset_wf : Memory.wf State.reset.mem = true := rfl

/-! ### What a write of memory leaves, byte by byte -/

theorem State.byte_pokeRaw_out (s : State) (a : Nat) (bs : List Byte) (x : Nat) (h : x < a ∨ a + bs.length ≤ x) :
    (s.pokeRaw a bs).byte x = s.byte x := mget_writeBytes_out _ a bs x h

theorem State.byte_poke_out (s : State) (a : Nat) (bs : List Byte) (x : Nat) (h : x < a ∨ a + bs.length ≤ x) :
    (s.poke a bs).byte x = s.byte x := mget_writeBytes_out _ a bs x h

theorem State.byte_poke_in (s : State) (a : Nat) (bs : List Byte) (i : Nat) (h : i < bs.length) : (s.poke a bs).byte (a + i) = bs[i] :=
  mget_writeBytes_in _ a bs i h

theorem State.peek_poke (s : State) (a : Nat) (bs : List Byte) : (s.poke a bs).peek a bs.length = bs := readBytes_writeBytes _ a bs

theorem State.peek_poke_out (s : State) (a : Nat) (bs : List Byte) (x n : Nat) (h : x + n ≤ a ∨ a + bs.length ≤ x) :
    (s.poke a bs).peek x n = s.peek x n := readBytes_writeBytes_out _ a bs x n h

/-- Two states whose memories are in canonical form and read alike hold the same memory. -/
theorem State.mem_ext (s t : State) (hs : Memory.wf s.mem = true) (ht : Memory.wf t.mem = true) (h : ∀ x, s.byte x = t.byte x) : s.mem = t.mem :=
  wf_ext hs ht h

end Sys2Proof.Machine
end

