-- ==== Sys2Proof/Laws/Operand.lean ====
section
/-! SUPPORT. Each operand field of 03 R83 answers a value exactly when the field is that value's code: what decoding reads is what
encoding wrote, and nothing else. -/

namespace Sys2Proof.Laws

/-- A part of the low half of a concatenation. -/
theorem extract_tag {m n : Nat} (a : BitVec m) (b : BitVec n) (s l : Nat) (h : s + l ≤ n) (v : BitVec l)
    (e : b.extractLsb' s l = v) : (a ++ b).extractLsb' s l = v := by
  rw [← e]
  apply BitVec.eq_of_getLsbD_eq
  intro k hk
  simp only [BitVec.getLsbD_extractLsb', BitVec.getLsbD_append]
  rw [if_pos (by omega)]

theorem bind_ok {α β : Type} (x : Except IllAt α) (f : α → Except IllAt β) (b : β) :
    (x >>= f) = .ok b ↔ ∃ a, x = .ok a ∧ f a = .ok b := by
  cases x with
  | error e => simp [bind, Except.bind]
  | ok a => simp [bind, Except.bind]

theorem pure_ok {α : Type} (a b : α) : (pure a : Except IllAt α) = .ok b ↔ a = b := by
  simp [pure, Except.pure]

theorem fieldIf_ok (i : BitVec 2) (b : Bool) (u : Unit) : fieldIf i b = .ok u ↔ b = true := by
  cases b <;> simp [fieldIf, illField]

theorem modIf_ok (b : Bool) (u : Unit) : modIf b = .ok u ↔ b = true := by
  cases b <;> simp [modIf]

theorem sub0_ok (f : Fields) (u : Unit) : sub0 f = .ok u ↔ f.sub = 0 := by
  unfold sub0
  split
  · simp [*]
  · rename_i h
    exact ⟨fun e => (by cases e), fun e => absurd e h⟩

theorem opNone_ok (i : BitVec 2) (o : BitVec 20) (u : Unit) : opNone i o = .ok u ↔ o = 0 := by
  rw [opNone, fieldIf_ok, decide_eq_true_iff]

theorem opX_ok (i : BitVec 2) (o : BitVec 20) (r : XReg) : opX i o = .ok r ↔ o = encX r := by
  refine Iff.trans ?_ (eq_append_iff (m := 15) (n := 5) o 0 r).symm
  unfold opX opBits
  split <;> simp_all [illField]

theorem opV_ok (i : BitVec 2) (o : BitVec 20) (r : VReg) : opV i o = .ok r ↔ o = encV r := by
  refine Iff.trans ?_ (eq_append_iff (m := 14) (n := 6) o 0x0800 r).symm
  unfold opV opBits
  split <;> simp_all [illField]

theorem opK_ok (i : BitVec 2) (o : BitVec 20) (r : KReg) : opK i o = .ok r ↔ o = encK r := by
  refine Iff.trans ?_ (eq_append_iff (m := 16) (n := 4) o 0x6000 r).symm
  unfold opK opBits
  split <;> simp_all [illField]

theorem opG_ok (i : BitVec 2) (o : BitVec 20) (r : GReg) : opG i o = .ok r ↔ o = encG r := by
  refine Iff.trans ?_ (eq_append_iff (m := 16) (n := 4) o 0x6004 r).symm
  unfold opG opBits
  split <;> simp_all [illField]

theorem opM_ok (i : BitVec 2) (o : BitVec 20) (r : MReg) : opM i o = .ok r ↔ o = encM r := by
  refine Iff.trans ?_ (eq_append_iff (m := 18) (n := 2) o 0x18008 r).symm
  unfold opM opBits
  split <;> simp_all [illField]

theorem opW_ok (i : BitVec 2) (o : BitVec 20) (r : WReg) : opW i o = .ok r ↔ o = encW r := by
  refine Iff.trans ?_ (eq_append_iff (m := 17) (n := 3) o 0xC00C r).symm
  unfold opW opBits
  split <;> simp_all [illField]

theorem opCR_ok (i : BitVec 2) (o : BitVec 20) (r : CReg) : opCR i o = .ok r ↔ o = encCR r := by
  refine Iff.trans ?_ (eq_append_iff (m := 8) (n := 12) o 0xA0 r).symm
  unfold opCR opBits
  split <;> simp_all [illField]

theorem opP_ok (i : BitVec 2) (o : BitVec 20) (r : PReg) : opP i o = .ok r ↔ o = encP r ∧ pOk r = true := by
  have h : ∀ r, opBits 7 (0x0800 : BitVec 13) i o = .ok r ↔ o = encP r := fun r => by
    refine Iff.trans ?_ (eq_append_iff (m := 13) (n := 7) o 0x0800 r).symm
    unfold opBits
    split <;> simp_all [illField]
  unfold opP
  simp only [bind_ok, pure_ok, h, fieldIf_ok]
  constructor
  · rintro ⟨a, h1, _, h2, rfl⟩
    exact ⟨h1, h2⟩
  · rintro ⟨h1, h2⟩
    exact ⟨r, h1, (), h2, rfl⟩

theorem opMem_ok (i : BitVec 2) (o : BitVec 20) (m : MemOp) : opMem i o = .ok m ↔ o = encMem m := by
  have h := eq_append_iff (m := 8) (n := 12) o ((7 : BitVec 3) ++ m.base) m.off
  have h2 := eq_append_iff (m := 3) (n := 5) (o.extractLsb' 12 8) 7 m.base
  have e1 : (o.extractLsb' 12 8).extractLsb' 5 3 = o.extractLsb' 17 3 := by
    apply BitVec.eq_of_getLsbD_eq
    intro k hk
    simp only [BitVec.getLsbD_extractLsb']
    have : 5 + k < 8 := by omega
    simp [hk, this, ← Nat.add_assoc]
  have e2 : (o.extractLsb' 12 8).extractLsb' 0 5 = o.extractLsb' 12 5 := by
    apply BitVec.eq_of_getLsbD_eq
    intro k hk
    simp only [BitVec.getLsbD_extractLsb']
    have : k < 8 := by omega
    simp [hk, this]
  rw [h2, e1, e2] at h
  refine Iff.trans ?_ h.symm
  unfold opMem
  obtain ⟨b, f⟩ := m
  split <;> simp_all [illField]

theorem enc_setWidth {n : Nat} (h : n ≤ 17) (o : BitVec 20) (v : BitVec n) :
    o = encU v ↔ o.extractLsb' 17 3 = 4 ∧ o.extractLsb' n (17 - n) = 0 ∧ o.extractLsb' 0 n = v := by
  refine Iff.trans (eq_append_iff (m := 3) (n := 17) o 4 (v.setWidth 17)) ?_
  refine and_congr_right fun _ => ?_
  constructor
  · intro e
    constructor
    · apply BitVec.eq_of_getLsbD_eq
      intro k hk
      have := congrArg (fun x => x.getLsbD (n + k)) e
      simp only [BitVec.getLsbD_extractLsb', BitVec.getLsbD_setWidth, Nat.zero_add] at this ⊢
      have h1 : n + k < 17 := by omega
      have h2 : v.getLsbD (n + k) = false := BitVec.getLsbD_of_ge _ _ (by omega)
      simp [h1] at this
      simp [hk, this]
    · apply BitVec.eq_of_getLsbD_eq
      intro k hk
      have := congrArg (fun x => x.getLsbD k) e
      simp only [BitVec.getLsbD_extractLsb', BitVec.getLsbD_setWidth, Nat.zero_add] at this ⊢
      have h1 : k < 17 := by omega
      simp [h1] at this
      simp [hk, this]
  · rintro ⟨e1, e2⟩
    apply BitVec.eq_of_getLsbD_eq
    intro k hk
    simp only [BitVec.getLsbD_extractLsb', BitVec.getLsbD_setWidth, Nat.zero_add]
    by_cases hn : k < n
    · have := congrArg (fun x => x.getLsbD k) e2
      simp only [BitVec.getLsbD_extractLsb', Nat.zero_add] at this
      simp only [hn, decide_true, Bool.true_and] at this
      simp [hk, this]
    · have := congrArg (fun x => x.getLsbD (k - n)) e1
      simp only [BitVec.getLsbD_extractLsb'] at this
      have h1 : k - n < 17 - n := by omega
      have h2 : n + (k - n) = k := by omega
      have h3 : v.getLsbD k = false := BitVec.getLsbD_of_ge _ _ (by omega)
      simp [h1, h2] at this
      simp [hk, this, h3]

theorem opU_ok {n : Nat} (h : n ≤ 17) (i : BitVec 2) (o : BitVec 20) (v : BitVec n) :
    opU n i o = .ok v ↔ o = encU v := by
  rw [enc_setWidth h]
  unfold opU
  split
  · split <;> simp_all [illField]
  · simp_all [illField]

theorem encX_class (r : XReg) : (encX r).extractLsb' 17 3 = 0 :=
  (extract_skip (0 : BitVec 15) r 17 3 (by decide)).trans (by decide)

theorem encV_class (r : VReg) : (encV r).extractLsb' 17 3 = 1 :=
  (extract_skip (0x0800 : BitVec 14) r 17 3 (by decide)).trans (by decide)

theorem encG_class (r : GReg) : (encG r).extractLsb' 17 3 = 3 :=
  (extract_skip (0x6004 : BitVec 16) r 17 3 (by decide)).trans (by decide)

theorem encU_class {n : Nat} (v : BitVec n) : (encU v).extractLsb' 17 3 = 4 := extract_high (4 : BitVec 3) (v.setWidth 17)

theorem opXU_ok {n : Nat} (h : n ≤ 17) (i : BitVec 2) (o : BitVec 20) (v : XU n) :
    opXU n i o = .ok v ↔ o = encXU v := by
  unfold opXU
  split
  · simp only [bind_ok, pure_ok, opX_ok]
    constructor
    · rintro ⟨r, rfl, rfl⟩
      rfl
    · rintro rfl
      cases v with
      | x r => exact ⟨r, rfl, rfl⟩
      | i v => rename_i h1; simp [encXU, encU_class] at h1
  · simp only [bind_ok, pure_ok, opU_ok h]
    constructor
    · rintro ⟨r, rfl, rfl⟩
      rfl
    · rintro rfl
      cases v with
      | x r => rename_i h1; exact absurd (encX_class r) h1
      | i v => exact ⟨v, rfl, rfl⟩

theorem opVXI_ok (i : BitVec 2) (o : BitVec 20) (v : VXI) : opVXI i o = .ok v ↔ o = encVXI v := by
  have cX := encX_class
  have cV := encV_class
  have cU := @encU_class 17
  unfold opVXI
  split
  · simp only [bind_ok, pure_ok, opV_ok]
    constructor
    · rintro ⟨r, rfl, rfl⟩
      rfl
    · rintro rfl
      cases v <;> simp_all [encVXI]
  · split
    · simp only [bind_ok, pure_ok, opX_ok]
      constructor
      · rintro ⟨r, rfl, rfl⟩
        rfl
      · rintro rfl
        cases v <;> simp_all [encVXI]
    · simp only [bind_ok, pure_ok, opU_ok (Nat.le_refl 17)]
      constructor
      · rintro ⟨r, rfl, rfl⟩
        rfl
      · rintro rfl
        cases v <;> simp_all [encVXI]

theorem opX1_ok (i : BitVec 2) (o : BitVec 20) (r : XReg) :
    opX1 i o = .ok r ↔ o = encX r ∧ decide (r ≠ 0) = true := by
  unfold opX1
  simp only [bind_ok, pure_ok, opX_ok, fieldIf_ok]
  constructor
  · rintro ⟨a, h1, _, h2, rfl⟩
    exact ⟨h1, h2⟩
  · rintro ⟨h1, h2⟩
    exact ⟨r, h1, (), h2, rfl⟩

theorem opXe_ok (i : BitVec 2) (o : BitVec 20) (r : XReg) :
    opXe i o = .ok r ↔ o = encX r ∧ (!r.getLsbD 0) = true := by
  unfold opXe
  simp only [bind_ok, pure_ok, opX_ok, fieldIf_ok]
  constructor
  · rintro ⟨a, h1, _, h2, rfl⟩
    exact ⟨h1, h2⟩
  · rintro ⟨h1, h2⟩
    exact ⟨r, h1, (), h2, rfl⟩

theorem opXe1_ok (i : BitVec 2) (o : BitVec 20) (r : XReg) :
    opXe1 i o = .ok r ↔ o = encX r ∧ (decide (r ≠ 0) && !r.getLsbD 0) = true := by
  unfold opXe1
  simp only [bind_ok, pure_ok, opX_ok, fieldIf_ok]
  constructor
  · rintro ⟨a, h1, _, h2, rfl⟩
    exact ⟨h1, h2⟩
  · rintro ⟨h1, h2⟩
    exact ⟨r, h1, (), h2, rfl⟩

theorem opStreamRaw_ok (i : BitVec 2) (o : BitVec 20) (v : Stream) : opStreamRaw i o = .ok v ↔ o = encStream v := by
  have h := eq_append_iff (m := 16) (n := 4) o ((0x6000 : BitVec 15) ++ BitVec.ofBool v.last) v.slot
  have h2 := eq_append_iff (m := 15) (n := 1) (o.extractLsb' 4 16) 0x6000 (BitVec.ofBool v.last)
  have e1 : (o.extractLsb' 4 16).extractLsb' 1 15 = o.extractLsb' 5 15 := by
    apply BitVec.eq_of_getLsbD_eq
    intro k hk
    simp only [BitVec.getLsbD_extractLsb']
    have : 1 + k < 16 := by omega
    simp [hk, this, ← Nat.add_assoc]
  have e2 : (o.extractLsb' 4 16).extractLsb' 0 1 = BitVec.ofBool (o.getLsbD 4) := by
    rw [← extract_bit]
    apply BitVec.eq_of_getLsbD_eq
    intro k hk
    simp only [BitVec.getLsbD_extractLsb']
    have : k < 16 := by omega
    simp [hk, this]
  rw [h2, e1, e2] at h
  refine Iff.trans ?_ h.symm
  have e3 : ∀ a b : Bool, BitVec.ofBool a = BitVec.ofBool b ↔ a = b := by decide
  unfold opStreamRaw
  obtain ⟨b, f⟩ := v
  rw [e3]
  split
  · simp_all [and_comm]
  · simp_all [illField]

theorem encStream_ne (v : Stream) : encStream v ≠ 0 := by
  intro e
  have h := congrArg (fun x => x.extractLsb' 5 15) e
  simp only [encStream] at h
  have := ((extract_skip ((0x6000 : BitVec 15) ++ BitVec.ofBool v.last) v.slot 5 15 (by decide)).trans
    (extract_high (0x6000 : BitVec 15) (BitVec.ofBool v.last))).symm.trans h
  exact absurd this (by decide)

theorem encP_ne (r : PReg) : encP r ≠ 0 := by
  intro e
  have h := congrArg (fun x => x.extractLsb' 7 13) e
  exact absurd ((extract_high (0x0800 : BitVec 13) r).symm.trans h) (by decide)

theorem opStreamOpt_ok (i : BitVec 2) (o : BitVec 20) (v : Option Stream) :
    opStreamOpt i o = .ok v ↔ o = encStreamOpt v := by
  unfold opStreamOpt
  split
  · cases v with
    | none => simp_all [encStreamOpt]
    | some w =>
      have h := Ne.symm (encStream_ne w)
      simp_all [encStreamOpt]
  · simp only [bind_ok, pure_ok, opStreamRaw_ok]
    constructor
    · rintro ⟨r, rfl, rfl⟩
      rfl
    · rintro rfl
      cases v <;> simp_all [encStreamOpt]

theorem opPOpt_ok (i : BitVec 2) (o : BitVec 20) (v : Option PReg) :
    opPOpt i o = .ok v ↔ o = encPOpt v ∧ pOptOk v = true := by
  unfold opPOpt
  split
  · cases v with
    | none => simp_all [encPOpt, pOptOk]
    | some w =>
      have h := Ne.symm (encP_ne w)
      simp_all [encPOpt]
  · simp only [bind_ok, pure_ok, opP_ok]
    constructor
    · rintro ⟨r, ⟨rfl, h⟩, rfl⟩
      exact ⟨rfl, h⟩
    · rintro ⟨rfl, h⟩
      cases v <;> simp_all [encPOpt, pOptOk]

theorem opStream_ok (i : BitVec 2) (o : BitVec 20) (v : Stream) :
    opStream i o = .ok v ↔ o = encStream v ∧ streamOk v = true := by
  unfold opStream
  simp only [bind_ok, pure_ok, opStreamRaw_ok, fieldIf_ok]
  constructor
  · rintro ⟨a, h1, _, h2, rfl⟩
    exact ⟨h1, h2⟩
  · rintro ⟨h1, h2⟩
    exact ⟨v, h1, (), h2, rfl⟩

theorem opSlot_ok (i : BitVec 2) (o : BitVec 20) (v : BitVec 4) :
    opSlot i o = .ok v ↔ o = encSlot v ∧ decide (v ≠ 0) = true := by
  have h : ∀ r, opBits 4 (0xC000 : BitVec 16) i o = .ok r ↔ o = encSlot r := fun r => by
    refine Iff.trans ?_ (eq_append_iff (m := 16) (n := 4) o 0xC000 r).symm
    unfold opBits
    split <;> simp_all [illField]
  unfold opSlot
  simp only [bind_ok, pure_ok, h, fieldIf_ok]
  constructor
  · rintro ⟨a, h1, _, h2, rfl⟩
    exact ⟨h1, h2⟩
  · rintro ⟨h1, h2⟩
    exact ⟨v, h1, (), h2, rfl⟩

theorem opW2_ok (i : BitVec 2) (o : BitVec 20) (v : BitVec 2) :
    opW2 i o = .ok v ↔ o = encW2 v ∧ decide (v ≠ 3) = true := by
  unfold opW2
  simp only [bind_ok, pure_ok, opU_ok (show 2 ≤ 17 by decide), fieldIf_ok]
  constructor
  · rintro ⟨a, h1, _, h2, rfl⟩
    exact ⟨h1, h2⟩
  · rintro ⟨h1, h2⟩
    exact ⟨v, h1, (), h2, rfl⟩

theorem opShfl_ok (i : BitVec 2) (o : BitVec 20) (v : XI) :
    opShfl i o = .ok v ↔ o = encXU v ∧ shflOk v = true := by
  unfold opShfl
  simp only [bind_ok, pure_ok, opXU_ok (Nat.le_refl 17), fieldIf_ok]
  constructor
  · rintro ⟨a, h1, _, h2, rfl⟩
    exact ⟨h1, h2⟩
  · rintro ⟨h1, h2⟩
    exact ⟨v, h1, (), h2, rfl⟩

theorem opCvt_ok (i : BitVec 2) (o : BitVec 20) (v : XI) :
    opCvt i o = .ok v ↔ o = encXU v ∧ mcvtOk v = true := by
  unfold opCvt
  simp only [bind_ok, pure_ok, opXU_ok (Nat.le_refl 17), fieldIf_ok]
  constructor
  · rintro ⟨a, h1, _, h2, rfl⟩
    exact ⟨h1, h2⟩
  · rintro ⟨h1, h2⟩
    exact ⟨v, h1, (), h2, rfl⟩

theorem opRc_ok (i : BitVec 2) (o : BitVec 20) (v : XU 2) : opRc i o = .ok v ↔ o = encRc v := by
  have four : ∀ w : BitVec 2, w = 0 ∨ w = 1 ∨ w = 2 ∨ w = 3 := by decide
  unfold opRc
  split
  · rename_i h0
    simp only [bind_ok, pure_ok, opX_ok]
    constructor
    · rintro ⟨r, rfl, rfl⟩
      rfl
    · rintro rfl
      cases v with
      | x r => exact ⟨r, rfl, rfl⟩
      | i w =>
        obtain rfl | rfl | rfl | rfl := four w <;> exact absurd h0 (by decide)
  · rename_i h0
    constructor
    · intro h
      split at h
      · cases h; assumption
      · split at h
        · cases h; assumption
        · split at h
          · cases h; assumption
          · split at h
            · cases h; assumption
            · simp [illField] at h
    · rintro rfl
      cases v with
      | x r => exact absurd (encX_class r) h0
      | i w => obtain rfl | rfl | rfl | rfl := four w <;> rfl

theorem fmtOfCode_iff : ∀ (c : BitVec 5) (f : Fmt), fmtOfCode c = some f ↔ c = fmtCode f := by
  intro c f
  constructor
  · revert c
    cases f <;> decide
  · rintro rfl
    cases f <;> rfl

theorem opFmt_ok (ok : Fmt → Bool) (i : BitVec 2) (o : BitVec 20) (f : Fmt) :
    opFmt ok i o = .ok f ↔ o = encFmt f ∧ ok f = true := by
  unfold opFmt
  simp only [bind_ok, opU_ok (show 5 ≤ 17 by decide)]
  constructor
  · rintro ⟨c, rfl, h⟩
    split at h
    · rename_i g hg
      split at h
      · cases h
        exact ⟨by rw [encFmt, (fmtOfCode_iff _ _).1 hg], by assumption⟩
      · simp [illField] at h
    · simp [illField] at h
  · rintro ⟨rfl, h⟩
    exact ⟨_, rfl, by rw [(fmtOfCode_iff _ _).2 rfl]; simp [h]⟩

/-- The five parts of a tag operand. -/
theorem encTag_iff (o : BitVec 20) (t : TagOp) :
    o = encTag t ↔ o.extractLsb' 16 4 = 8 ∧ o.extractLsb' 11 5 = fmtCode t.fmt ∧ o.extractLsb' 9 2 = t.grp
      ∧ o.extractLsb' 5 4 = t.scl ∧ o.extractLsb' 0 5 = 0 := by
  constructor
  · rintro rfl
    refine ⟨extract_high _ _, ?_, ?_, ?_, ?_⟩
    · unfold encTag tagBits
      exact extract_tag _ _ 11 5 (by decide) _ (extract_skip ((fmtCode t.fmt ++ t.grp) ++ t.scl) 0 11 5 (by decide) |>.trans
        ((extract_skip (fmtCode t.fmt ++ t.grp) t.scl 6 5 (by decide)).trans (extract_high (fmtCode t.fmt) t.grp)))
    · unfold encTag tagBits
      exact extract_tag _ _ 9 2 (by decide) _ (extract_skip ((fmtCode t.fmt ++ t.grp) ++ t.scl) 0 9 2 (by decide) |>.trans
        ((extract_skip (fmtCode t.fmt ++ t.grp) t.scl 4 2 (by decide)).trans (extract_low (fmtCode t.fmt) t.grp)))
    · unfold encTag tagBits
      exact extract_tag _ _ 5 4 (by decide) _ (extract_skip ((fmtCode t.fmt ++ t.grp) ++ t.scl) 0 5 4 (by decide) |>.trans
        (extract_low (fmtCode t.fmt ++ t.grp) t.scl))
    · unfold encTag tagBits
      exact extract_tag _ _ 0 5 (by decide) _ (extract_low ((fmtCode t.fmt ++ t.grp) ++ t.scl) 0)
  · rintro ⟨h1, h2, h3, h4, h5⟩
    have e : o.extractLsb' 0 20 = o := extract_all o
    rw [cut o 0 4 16, cut o 0 11 5, cut o 5 7 4, cut o 9 5 2] at e
    rw [h1, h2, h3, h4, h5] at e
    exact e.symm

theorem illTag_not (wr : Bool) (i : BitVec 2) (t : TagOp) : illTag wr i = .ok t ↔ False := by
  cases wr <;> simp [illTag, illField]

theorem opTag_ok (wr : Bool) (ok : TagOp → Bool) (i : BitVec 2) (o : BitVec 20) (t : TagOp) :
    opTag wr ok i o = .ok t ↔ o = encTag t ∧ tagOk ok t = true := by
  rw [encTag_iff]
  unfold opTag
  constructor
  · intro h
    split at h
    · split at h
      · split at h
        · rename_i f hf
          split at h
          · cases h
            exact ⟨⟨by assumption, (fmtOfCode_iff _ _).1 hf, rfl, rfl, by assumption⟩, by assumption⟩
          · exact ((illTag_not _ _ _).1 h).elim
        · exact ((illTag_not _ _ _).1 h).elim
      · simp [illField] at h
    · simp [illField] at h
  · rintro ⟨⟨h1, h2, h3, h4, h5⟩, h⟩
    obtain ⟨f, g, c⟩ := t
    simp only at h2 h3 h4
    subst h3 h4
    rw [if_pos h1, if_pos h5, (fmtOfCode_iff _ _).2 h2]
    simp [h]

theorem tagLate_ok (m : Bool) (l : LateIll) (x : Except IllAt TagOp) (t : TagOp) : tagLate m l x = .ok t ↔ x = .ok t := by
  cases x <;> simp [tagLate]

theorem ok_iff_toOption {α : Type} (x : Except IllAt α) (a : α) : x = .ok a ↔ x.toOption = some a := by
  cases x <;> simp [Except.toOption]

theorem opCond_ok (s : BitVec 6) (k : Cond) : opCond s = .ok k ↔ s = encCond k := by
  rw [ok_iff_toOption]
  revert s
  cases k <;> decide

theorem opVCond_ok (s : BitVec 6) (k : VCond) : opVCond s = .ok k ↔ s = encVCond k := by
  rw [ok_iff_toOption]
  revert s
  cases k with
  | uo => decide
  | base c => cases c <;> decide

theorem opRed_ok (s : BitVec 6) (k : RedOp) : opRed s = .ok k ↔ s = encRed k := by
  rw [ok_iff_toOption]
  revert s
  cases k <;> decide

theorem opFence_ok (s : BitVec 6) (k : FKind) (c : Scope) : opFence s = .ok (k, c) ↔ s = encFence k c := by
  rw [ok_iff_toOption]
  revert s
  cases k <;> cases c <;> decide

end Sys2Proof.Laws
end

