-- ==== Sys2Proof/Laws/PerInstr.lean ====
section
/-! SUPPORT. The family RoundTrip: the fields an instruction encodes to decode to that instruction. -/

namespace Sys2Proof.Laws

theorem ok_bind {α β : Type} {x : Except IllAt α} {a : α} {f : α → Except IllAt β} {b : β} (h : x = .ok a)
    (h2 : f a = .ok b) : (x >>= f) = .ok b := (bind_ok x f b).2 ⟨a, h, h2⟩

/-- Decoding reads back every operand that encoding wrote. -/
def RoundTrip.Statement (i : Instr) : Prop :=
  ∀ f, encodeFields i = some f → i.wf = true → decodeFields f = .ok i

theorem RoundTrip.add (c : Ctl) (d : XReg) (a : XReg) (b : XI) : RoundTrip.Statement (.add c d a b) := by
  intro f h w
  cases h
  exact ok_bind ((sub0_ok _ ()).2 rfl) <|
    ok_bind ((opX_ok _ _ d).2 rfl) <|
    ok_bind ((opX_ok _ _ a).2 rfl) <|
    ok_bind ((opXU_ok (by decide) _ _ b).2 rfl) <|
    rfl

theorem RoundTrip.sub (c : Ctl) (d : XReg) (a : XReg) (b : XI) : RoundTrip.Statement (.sub c d a b) := by
  intro f h w
  cases h
  exact ok_bind ((sub0_ok _ ()).2 rfl) <|
    ok_bind ((opX_ok _ _ d).2 rfl) <|
    ok_bind ((opX_ok _ _ a).2 rfl) <|
    ok_bind ((opXU_ok (by decide) _ _ b).2 rfl) <|
    rfl

theorem RoundTrip.mul (c : Ctl) (d : XReg) (a : XReg) (b : XI) : RoundTrip.Statement (.mul c d a b) := by
  intro f h w
  cases h
  exact ok_bind ((sub0_ok _ ()).2 rfl) <|
    ok_bind ((opX_ok _ _ d).2 rfl) <|
    ok_bind ((opX_ok _ _ a).2 rfl) <|
    ok_bind ((opXU_ok (by decide) _ _ b).2 rfl) <|
    rfl

theorem RoundTrip.mulh (c : Ctl) (d : XReg) (a : XReg) (b : XI) : RoundTrip.Statement (.mulh c d a b) := by
  intro f h w
  cases h
  exact ok_bind ((sub0_ok _ ()).2 rfl) <|
    ok_bind ((opX_ok _ _ d).2 rfl) <|
    ok_bind ((opX_ok _ _ a).2 rfl) <|
    ok_bind ((opXU_ok (by decide) _ _ b).2 rfl) <|
    rfl

theorem RoundTrip.div (c : Ctl) (d : XReg) (a : XReg) (b : XI) : RoundTrip.Statement (.div c d a b) := by
  intro f h w
  cases h
  exact ok_bind ((sub0_ok _ ()).2 rfl) <|
    ok_bind ((opX_ok _ _ d).2 rfl) <|
    ok_bind ((opX_ok _ _ a).2 rfl) <|
    ok_bind ((opXU_ok (by decide) _ _ b).2 rfl) <|
    rfl

theorem RoundTrip.rem (c : Ctl) (d : XReg) (a : XReg) (b : XI) : RoundTrip.Statement (.rem c d a b) := by
  intro f h w
  cases h
  exact ok_bind ((sub0_ok _ ()).2 rfl) <|
    ok_bind ((opX_ok _ _ d).2 rfl) <|
    ok_bind ((opX_ok _ _ a).2 rfl) <|
    ok_bind ((opXU_ok (by decide) _ _ b).2 rfl) <|
    rfl

theorem RoundTrip.and (c : Ctl) (d : XReg) (a : XReg) (b : XI) : RoundTrip.Statement (.and c d a b) := by
  intro f h w
  cases h
  exact ok_bind ((opX_ok _ _ d).2 rfl) <|
    ok_bind ((opX_ok _ _ a).2 rfl) <|
    ok_bind ((opXU_ok (by decide) _ _ b).2 rfl) <|
    rfl

theorem RoundTrip.or (c : Ctl) (d : XReg) (a : XReg) (b : XI) : RoundTrip.Statement (.or c d a b) := by
  intro f h w
  cases h
  exact ok_bind ((opX_ok _ _ d).2 rfl) <|
    ok_bind ((opX_ok _ _ a).2 rfl) <|
    ok_bind ((opXU_ok (by decide) _ _ b).2 rfl) <|
    rfl

theorem RoundTrip.xor (c : Ctl) (d : XReg) (a : XReg) (b : XI) : RoundTrip.Statement (.xor c d a b) := by
  intro f h w
  cases h
  exact ok_bind ((opX_ok _ _ d).2 rfl) <|
    ok_bind ((opX_ok _ _ a).2 rfl) <|
    ok_bind ((opXU_ok (by decide) _ _ b).2 rfl) <|
    rfl

theorem RoundTrip.andn (c : Ctl) (d : XReg) (a : XReg) (b : XI) : RoundTrip.Statement (.andn c d a b) := by
  intro f h w
  cases h
  exact ok_bind ((opX_ok _ _ d).2 rfl) <|
    ok_bind ((opX_ok _ _ a).2 rfl) <|
    ok_bind ((opXU_ok (by decide) _ _ b).2 rfl) <|
    rfl

theorem RoundTrip.orn (c : Ctl) (d : XReg) (a : XReg) (b : XI) : RoundTrip.Statement (.orn c d a b) := by
  intro f h w
  cases h
  exact ok_bind ((opX_ok _ _ d).2 rfl) <|
    ok_bind ((opX_ok _ _ a).2 rfl) <|
    ok_bind ((opXU_ok (by decide) _ _ b).2 rfl) <|
    rfl

theorem RoundTrip.shl (c : Ctl) (d : XReg) (a : XReg) (b : XI) : RoundTrip.Statement (.shl c d a b) := by
  intro f h w
  cases h
  exact ok_bind ((opX_ok _ _ d).2 rfl) <|
    ok_bind ((opX_ok _ _ a).2 rfl) <|
    ok_bind ((opXU_ok (by decide) _ _ b).2 rfl) <|
    rfl

theorem RoundTrip.shr (c : Ctl) (d : XReg) (a : XReg) (b : XI) : RoundTrip.Statement (.shr c d a b) := by
  intro f h w
  cases h
  exact ok_bind ((opX_ok _ _ d).2 rfl) <|
    ok_bind ((opX_ok _ _ a).2 rfl) <|
    ok_bind ((opXU_ok (by decide) _ _ b).2 rfl) <|
    rfl

theorem RoundTrip.sha (c : Ctl) (d : XReg) (a : XReg) (b : XI) : RoundTrip.Statement (.sha c d a b) := by
  intro f h w
  cases h
  exact ok_bind ((opX_ok _ _ d).2 rfl) <|
    ok_bind ((opX_ok _ _ a).2 rfl) <|
    ok_bind ((opXU_ok (by decide) _ _ b).2 rfl) <|
    rfl

theorem RoundTrip.rot (c : Ctl) (d : XReg) (a : XReg) (b : XI) : RoundTrip.Statement (.rot c d a b) := by
  intro f h w
  cases h
  exact ok_bind ((opX_ok _ _ d).2 rfl) <|
    ok_bind ((opX_ok _ _ a).2 rfl) <|
    ok_bind ((opXU_ok (by decide) _ _ b).2 rfl) <|
    rfl

theorem RoundTrip.min (c : Ctl) (d : XReg) (a : XReg) (b : XI) : RoundTrip.Statement (.min c d a b) := by
  intro f h w
  cases h
  exact ok_bind ((opX_ok _ _ d).2 rfl) <|
    ok_bind ((opX_ok _ _ a).2 rfl) <|
    ok_bind ((opXU_ok (by decide) _ _ b).2 rfl) <|
    rfl

theorem RoundTrip.max (c : Ctl) (d : XReg) (a : XReg) (b : XI) : RoundTrip.Statement (.max c d a b) := by
  intro f h w
  cases h
  exact ok_bind ((opX_ok _ _ d).2 rfl) <|
    ok_bind ((opX_ok _ _ a).2 rfl) <|
    ok_bind ((opXU_ok (by decide) _ _ b).2 rfl) <|
    rfl

theorem RoundTrip.abs (c : Ctl) (d : XReg) (a : XReg) : RoundTrip.Statement (.abs c d a) := by
  intro f h w
  cases h
  exact ok_bind ((opX_ok _ _ d).2 rfl) <|
    ok_bind ((opX_ok _ _ a).2 rfl) <|
    ok_bind ((opNone_ok _ _ ()).2 rfl) <|
    rfl

theorem RoundTrip.neg (c : Ctl) (d : XReg) (a : XReg) : RoundTrip.Statement (.neg c d a) := by
  intro f h w
  cases h
  exact ok_bind ((opX_ok _ _ d).2 rfl) <|
    ok_bind ((opX_ok _ _ a).2 rfl) <|
    ok_bind ((opNone_ok _ _ ()).2 rfl) <|
    rfl

theorem RoundTrip.clz (c : Ctl) (d : XReg) (a : XReg) : RoundTrip.Statement (.clz c d a) := by
  intro f h w
  cases h
  exact ok_bind ((opX_ok _ _ d).2 rfl) <|
    ok_bind ((opX_ok _ _ a).2 rfl) <|
    ok_bind ((opNone_ok _ _ ()).2 rfl) <|
    rfl

theorem RoundTrip.ctz (c : Ctl) (d : XReg) (a : XReg) : RoundTrip.Statement (.ctz c d a) := by
  intro f h w
  cases h
  exact ok_bind ((opX_ok _ _ d).2 rfl) <|
    ok_bind ((opX_ok _ _ a).2 rfl) <|
    ok_bind ((opNone_ok _ _ ()).2 rfl) <|
    rfl

theorem RoundTrip.popc (c : Ctl) (d : XReg) (a : XReg) : RoundTrip.Statement (.popc c d a) := by
  intro f h w
  cases h
  exact ok_bind ((opX_ok _ _ d).2 rfl) <|
    ok_bind ((opX_ok _ _ a).2 rfl) <|
    ok_bind ((opNone_ok _ _ ()).2 rfl) <|
    rfl

theorem RoundTrip.brev (c : Ctl) (d : XReg) (a : XReg) : RoundTrip.Statement (.brev c d a) := by
  intro f h w
  cases h
  exact ok_bind ((opX_ok _ _ d).2 rfl) <|
    ok_bind ((opX_ok _ _ a).2 rfl) <|
    ok_bind ((opNone_ok _ _ ()).2 rfl) <|
    rfl

theorem RoundTrip.bswap (c : Ctl) (d : XReg) (a : XReg) : RoundTrip.Statement (.bswap c d a) := by
  intro f h w
  cases h
  exact ok_bind ((opX_ok _ _ d).2 rfl) <|
    ok_bind ((opX_ok _ _ a).2 rfl) <|
    ok_bind ((opNone_ok _ _ ()).2 rfl) <|
    rfl

theorem RoundTrip.ext (c : Ctl) (d : XReg) (a : XReg) (b : XU 12) : RoundTrip.Statement (.ext c d a b) := by
  intro f h w
  cases h
  exact ok_bind ((opX_ok _ _ d).2 rfl) <|
    ok_bind ((opX_ok _ _ a).2 rfl) <|
    ok_bind ((opXU_ok (by decide) _ _ b).2 rfl) <|
    rfl

theorem RoundTrip.ins (c : Ctl) (d : XReg) (a : XReg) (b : XU 12) : RoundTrip.Statement (.ins c d a b) := by
  intro f h w
  cases h
  exact ok_bind ((opX_ok _ _ d).2 rfl) <|
    ok_bind ((opX_ok _ _ a).2 rfl) <|
    ok_bind ((opXU_ok (by decide) _ _ b).2 rfl) <|
    rfl

theorem RoundTrip.sext (c : Ctl) (d : XReg) (a : XReg) (b : XU 6) : RoundTrip.Statement (.sext c d a b) := by
  intro f h w
  cases h
  exact ok_bind ((opX_ok _ _ d).2 rfl) <|
    ok_bind ((opX_ok _ _ a).2 rfl) <|
    ok_bind ((opXU_ok (by decide) _ _ b).2 rfl) <|
    rfl

theorem RoundTrip.zext (c : Ctl) (d : XReg) (a : XReg) (b : XU 6) : RoundTrip.Statement (.zext c d a b) := by
  intro f h w
  cases h
  exact ok_bind ((opX_ok _ _ d).2 rfl) <|
    ok_bind ((opX_ok _ _ a).2 rfl) <|
    ok_bind ((opXU_ok (by decide) _ _ b).2 rfl) <|
    rfl

theorem RoundTrip.setc (c : Ctl) (k : Cond) (d : XReg) (a : XReg) (b : XI) : RoundTrip.Statement (.setc c k d a b) := by
  intro f h w
  cases h
  exact ok_bind ((opCond_ok _ k).2 rfl) <|
    ok_bind ((opX_ok _ _ d).2 rfl) <|
    ok_bind ((opX_ok _ _ a).2 rfl) <|
    ok_bind ((opXU_ok (by decide) _ _ b).2 rfl) <|
    rfl

theorem RoundTrip.sel (c : Ctl) (d : XReg) (a : XReg) (b : XI) : RoundTrip.Statement (.sel c d a b) := by
  intro f h w
  cases h
  exact ok_bind ((sub0_ok _ ()).2 rfl) <|
    ok_bind ((opX_ok _ _ d).2 rfl) <|
    ok_bind ((opX_ok _ _ a).2 rfl) <|
    ok_bind ((opXU_ok (by decide) _ _ b).2 rfl) <|
    rfl

theorem RoundTrip.li (c : Ctl) (d : XReg) (v : BitVec 40) : RoundTrip.Statement (.li c d v) := by
  intro f h w
  cases h
  have e : v.extractLsb' 20 20 ++ v.extractLsb' 0 20 = v := join_parts (m := 20) (n := 20) v
  refine ok_bind ((sub0_ok _ ()).2 rfl) <| ok_bind ((opX_ok _ _ d).2 rfl) <| ok_bind ((modIf_ok _ ()).2 w) ?_
  change Except.ok (Instr.li c d (v.extractLsb' 20 20 ++ v.extractLsb' 0 20)) = _
  rw [e]

theorem RoundTrip.lih (c : Ctl) (d : XReg) (v : BitVec 24) : RoundTrip.Statement (.lih c d v) := by
  intro f h w
  cases h
  have e : v.extractLsb' 20 4 ++ v.extractLsb' 0 20 = v := join_parts (m := 4) (n := 20) v
  refine ok_bind ((sub0_ok _ ()).2 rfl) <| ok_bind ((opX_ok _ _ d).2 rfl) <|
    ok_bind ((fieldIf_ok _ _ ()).2 (decide_eq_true (extract_high _ _))) <| ok_bind ((modIf_ok _ ()).2 w) ?_
  change Except.ok (Instr.lih c d ((0#16 ++ v.extractLsb' 20 4).extractLsb' 0 4 ++ v.extractLsb' 0 20)) = _
  rw [extract_low, e]

theorem RoundTrip.lea (c : Ctl) (d : XReg) (a : MemOp) (b : XReg) : RoundTrip.Statement (.lea c d a b) := by
  intro f h w
  cases h
  exact ok_bind ((sub0_ok _ ()).2 rfl) <|
    ok_bind ((opX_ok _ _ d).2 rfl) <|
    ok_bind ((opMem_ok _ _ a).2 rfl) <|
    ok_bind ((opX_ok _ _ b).2 rfl) <|
    rfl

theorem RoundTrip.addpc (c : Ctl) (d : XReg) (a : Imm) : RoundTrip.Statement (.addpc c d a) := by
  intro f h w
  cases h
  exact ok_bind ((sub0_ok _ ()).2 rfl) <|
    ok_bind ((opX_ok _ _ d).2 rfl) <|
    ok_bind ((opU_ok (by decide) _ _ a).2 rfl) <|
    ok_bind ((opNone_ok _ _ ()).2 rfl) <|
    rfl

theorem RoundTrip.bCond (c : Ctl) (k : Cond) (d : XReg) (a : XI) (b : Imm) : RoundTrip.Statement (.bCond c k d a b) := by
  intro f h w
  cases h
  exact ok_bind ((opCond_ok _ k).2 rfl) <|
    ok_bind ((opX_ok _ _ d).2 rfl) <|
    ok_bind ((opXU_ok (by decide) _ _ a).2 rfl) <|
    ok_bind ((opU_ok (by decide) _ _ b).2 rfl) <|
    rfl

theorem RoundTrip.bz (c : Ctl) (d : XReg) (a : Imm) : RoundTrip.Statement (.bz c d a) := by
  intro f h w
  cases h
  exact ok_bind ((sub0_ok _ ()).2 rfl) <|
    ok_bind ((opX_ok _ _ d).2 rfl) <|
    ok_bind ((opU_ok (by decide) _ _ a).2 rfl) <|
    ok_bind ((opNone_ok _ _ ()).2 rfl) <|
    rfl

theorem RoundTrip.bnz (c : Ctl) (d : XReg) (a : Imm) : RoundTrip.Statement (.bnz c d a) := by
  intro f h w
  cases h
  exact ok_bind ((sub0_ok _ ()).2 rfl) <|
    ok_bind ((opX_ok _ _ d).2 rfl) <|
    ok_bind ((opU_ok (by decide) _ _ a).2 rfl) <|
    ok_bind ((opNone_ok _ _ ()).2 rfl) <|
    rfl

theorem RoundTrip.j (c : Ctl) (d : Imm) : RoundTrip.Statement (.j c d) := by
  intro f h w
  cases h
  exact ok_bind ((sub0_ok _ ()).2 rfl) <|
    ok_bind ((opU_ok (by decide) _ _ d).2 rfl) <|
    ok_bind ((opNone_ok _ _ ()).2 rfl) <|
    ok_bind ((opNone_ok _ _ ()).2 rfl) <|
    rfl

theorem RoundTrip.jal (c : Ctl) (d : XReg) (a : Imm) : RoundTrip.Statement (.jal c d a) := by
  intro f h w
  cases h
  exact ok_bind ((sub0_ok _ ()).2 rfl) <|
    ok_bind ((opX_ok _ _ d).2 rfl) <|
    ok_bind ((opU_ok (by decide) _ _ a).2 rfl) <|
    ok_bind ((opNone_ok _ _ ()).2 rfl) <|
    rfl

theorem RoundTrip.jr (c : Ctl) (d : XReg) (a : XReg) (b : XI) : RoundTrip.Statement (.jr c d a b) := by
  intro f h w
  cases h
  exact ok_bind ((sub0_ok _ ()).2 rfl) <|
    ok_bind ((opX_ok _ _ d).2 rfl) <|
    ok_bind ((opX_ok _ _ a).2 rfl) <|
    ok_bind ((opXU_ok (by decide) _ _ b).2 rfl) <|
    rfl

theorem RoundTrip.loop (c : Ctl) (d : XReg) (a : Imm) : RoundTrip.Statement (.loop c d a) := by
  intro f h w
  cases h
  exact ok_bind ((sub0_ok _ ()).2 rfl) <|
    ok_bind ((opX1_ok _ _ d).2 ⟨rfl, w⟩) <|
    ok_bind ((opU_ok (by decide) _ _ a).2 rfl) <|
    ok_bind ((opNone_ok _ _ ()).2 rfl) <|
    rfl

theorem RoundTrip.setvl (c : Ctl) (d : XReg) (a : XReg) (b : Fmt) : RoundTrip.Statement (.setvl c d a b) := by
  intro f h w
  cases h
  exact ok_bind ((sub0_ok _ ()).2 rfl) <|
    ok_bind ((opX_ok _ _ d).2 rfl) <|
    ok_bind ((opX_ok _ _ a).2 rfl) <|
    ok_bind ((opFmt_ok _ _ _ b).2 ⟨rfl, w⟩) <|
    rfl

theorem RoundTrip.setvli (c : Ctl) (d : XReg) (a : BitVec 16) (b : Fmt) : RoundTrip.Statement (.setvli c d a b) := by
  intro f h w
  cases h
  exact ok_bind ((sub0_ok _ ()).2 rfl) <|
    ok_bind ((opX_ok _ _ d).2 rfl) <|
    ok_bind ((opU_ok (by decide) _ _ a).2 rfl) <|
    ok_bind ((opFmt_ok _ _ _ b).2 ⟨rfl, w⟩) <|
    rfl

theorem RoundTrip.setrc (c : Ctl) (d : XReg) (a : XU 2) : RoundTrip.Statement (.setrc c d a) := by
  intro f h w
  cases h
  exact ok_bind ((sub0_ok _ ()).2 rfl) <|
    ok_bind ((opX_ok _ _ d).2 rfl) <|
    ok_bind ((opRc_ok _ _ a).2 rfl) <|
    ok_bind ((opNone_ok _ _ ()).2 rfl) <|
    rfl

theorem RoundTrip.nop (c : Ctl) : RoundTrip.Statement (.nop c) := by
  intro f h w
  cases h
  exact ok_bind ((sub0_ok _ ()).2 rfl) <|
    ok_bind ((opNone_ok _ _ ()).2 rfl) <|
    ok_bind ((opNone_ok _ _ ()).2 rfl) <|
    ok_bind ((opNone_ok _ _ ()).2 rfl) <|
    rfl

theorem RoundTrip.yield (c : Ctl) : RoundTrip.Statement (.yield c) := by
  intro f h w
  cases h
  exact ok_bind ((sub0_ok _ ()).2 rfl) <|
    ok_bind ((opNone_ok _ _ ()).2 rfl) <|
    ok_bind ((opNone_ok _ _ ()).2 rfl) <|
    ok_bind ((opNone_ok _ _ ()).2 rfl) <|
    rfl

theorem RoundTrip.pause (c : Ctl) (d : BitVec 16) : RoundTrip.Statement (.pause c d) := by
  intro f h w
  cases h
  exact ok_bind ((sub0_ok _ ()).2 rfl) <|
    ok_bind ((opU_ok (by decide) _ _ d).2 rfl) <|
    ok_bind ((opNone_ok _ _ ()).2 rfl) <|
    ok_bind ((opNone_ok _ _ ()).2 rfl) <|
    rfl

theorem RoundTrip.trap (c : Ctl) (d : Imm) : RoundTrip.Statement (.trap c d) := by
  intro f h w
  cases h
  exact ok_bind ((sub0_ok _ ()).2 rfl) <|
    ok_bind ((opU_ok (by decide) _ _ d).2 rfl) <|
    ok_bind ((opNone_ok _ _ ()).2 rfl) <|
    ok_bind ((opNone_ok _ _ ()).2 rfl) <|
    rfl

theorem RoundTrip.brk (c : Ctl) (d : Imm) : RoundTrip.Statement (.brk c d) := by
  intro f h w
  cases h
  exact ok_bind ((sub0_ok _ ()).2 rfl) <|
    ok_bind ((opU_ok (by decide) _ _ d).2 rfl) <|
    ok_bind ((opNone_ok _ _ ()).2 rfl) <|
    ok_bind ((opNone_ok _ _ ()).2 rfl) <|
    rfl

theorem RoundTrip.tret (c : Ctl) : RoundTrip.Statement (.tret c) := by
  intro f h w
  cases h
  exact ok_bind ((sub0_ok _ ()).2 rfl) <|
    ok_bind ((opNone_ok _ _ ()).2 rfl) <|
    ok_bind ((opNone_ok _ _ ()).2 rfl) <|
    ok_bind ((opNone_ok _ _ ()).2 rfl) <|
    rfl

theorem RoundTrip.crd (c : Ctl) (d : XReg) (a : CReg) : RoundTrip.Statement (.crd c d a) := by
  intro f h w
  cases h
  exact ok_bind ((sub0_ok _ ()).2 rfl) <|
    ok_bind ((opX_ok _ _ d).2 rfl) <|
    ok_bind ((opCR_ok _ _ a).2 rfl) <|
    ok_bind ((opNone_ok _ _ ()).2 rfl) <|
    rfl

theorem RoundTrip.cwr (c : Ctl) (d : CReg) (a : XI) : RoundTrip.Statement (.cwr c d a) := by
  intro f h w
  cases h
  exact ok_bind ((sub0_ok _ ()).2 rfl) <|
    ok_bind ((opCR_ok _ _ d).2 rfl) <|
    ok_bind ((opXU_ok (by decide) _ _ a).2 rfl) <|
    ok_bind ((opNone_ok _ _ ()).2 rfl) <|
    rfl

theorem RoundTrip.cset (c : Ctl) (d : CReg) (a : XI) : RoundTrip.Statement (.cset c d a) := by
  intro f h w
  cases h
  exact ok_bind ((sub0_ok _ ()).2 rfl) <|
    ok_bind ((opCR_ok _ _ d).2 rfl) <|
    ok_bind ((opXU_ok (by decide) _ _ a).2 rfl) <|
    ok_bind ((opNone_ok _ _ ()).2 rfl) <|
    rfl

theorem RoundTrip.cclr (c : Ctl) (d : CReg) (a : XI) : RoundTrip.Statement (.cclr c d a) := by
  intro f h w
  cases h
  exact ok_bind ((sub0_ok _ ()).2 rfl) <|
    ok_bind ((opCR_ok _ _ d).2 rfl) <|
    ok_bind ((opXU_ok (by decide) _ _ a).2 rfl) <|
    ok_bind ((opNone_ok _ _ ()).2 rfl) <|
    rfl

theorem RoundTrip.isync (c : Ctl) : RoundTrip.Statement (.isync c) := by
  intro f h w
  cases h
  exact ok_bind ((sub0_ok _ ()).2 rfl) <|
    ok_bind ((opNone_ok _ _ ()).2 rfl) <|
    ok_bind ((opNone_ok _ _ ()).2 rfl) <|
    ok_bind ((opNone_ok _ _ ()).2 rfl) <|
    rfl

theorem RoundTrip.gate (c : Ctl) (d : BitVec 8) : RoundTrip.Statement (.gate c d) := by
  intro f h w
  cases h
  exact ok_bind ((sub0_ok _ ()).2 rfl) <|
    ok_bind ((opU_ok (by decide) _ _ d).2 rfl) <|
    ok_bind ((opNone_ok _ _ ()).2 rfl) <|
    ok_bind ((opNone_ok _ _ ()).2 rfl) <|
    rfl

theorem RoundTrip.gret (c : Ctl) : RoundTrip.Statement (.gret c) := by
  intro f h w
  cases h
  exact ok_bind ((sub0_ok _ ()).2 rfl) <|
    ok_bind ((opNone_ok _ _ ()).2 rfl) <|
    ok_bind ((opNone_ok _ _ ()).2 rfl) <|
    ok_bind ((opNone_ok _ _ ()).2 rfl) <|
    rfl

theorem RoundTrip.halt (c : Ctl) : RoundTrip.Statement (.halt c) := by
  intro f h w
  cases h
  exact ok_bind ((sub0_ok _ ()).2 rfl) <|
    ok_bind ((opNone_ok _ _ ()).2 rfl) <|
    ok_bind ((opNone_ok _ _ ()).2 rfl) <|
    ok_bind ((opNone_ok _ _ ()).2 rfl) <|
    rfl

theorem RoundTrip.step (c : Ctl) : RoundTrip.Statement (.step c) := by
  intro f h w
  cases h
  exact ok_bind ((sub0_ok _ ()).2 rfl) <|
    ok_bind ((opNone_ok _ _ ()).2 rfl) <|
    ok_bind ((opNone_ok _ _ ()).2 rfl) <|
    ok_bind ((opNone_ok _ _ ()).2 rfl) <|
    rfl

theorem RoundTrip.timewait (c : Ctl) (d : XReg) (a : XI) : RoundTrip.Statement (.timewait c d a) := by
  intro f h w
  cases h
  exact ok_bind ((sub0_ok _ ()).2 rfl) <|
    ok_bind ((opX_ok _ _ d).2 rfl) <|
    ok_bind ((opXU_ok (by decide) _ _ a).2 rfl) <|
    ok_bind ((opNone_ok _ _ ()).2 rfl) <|
    rfl

theorem RoundTrip.vadd (c : Ctl) (d : VReg) (a : VReg) (b : VXI) : RoundTrip.Statement (.vadd c d a b) := by
  intro f h w
  cases h
  exact ok_bind ((sub0_ok _ ()).2 rfl) <|
    ok_bind ((opV_ok _ _ d).2 rfl) <|
    ok_bind ((opV_ok _ _ a).2 rfl) <|
    ok_bind ((opVXI_ok _ _ b).2 rfl) <|
    ok_bind ((modIf_ok _ ()).2 w) <|
    rfl

theorem RoundTrip.vsub (c : Ctl) (d : VReg) (a : VReg) (b : VXI) : RoundTrip.Statement (.vsub c d a b) := by
  intro f h w
  cases h
  exact ok_bind ((sub0_ok _ ()).2 rfl) <|
    ok_bind ((opV_ok _ _ d).2 rfl) <|
    ok_bind ((opV_ok _ _ a).2 rfl) <|
    ok_bind ((opVXI_ok _ _ b).2 rfl) <|
    ok_bind ((modIf_ok _ ()).2 w) <|
    rfl

theorem RoundTrip.vmul (c : Ctl) (d : VReg) (a : VReg) (b : VXI) : RoundTrip.Statement (.vmul c d a b) := by
  intro f h w
  cases h
  exact ok_bind ((sub0_ok _ ()).2 rfl) <|
    ok_bind ((opV_ok _ _ d).2 rfl) <|
    ok_bind ((opV_ok _ _ a).2 rfl) <|
    ok_bind ((opVXI_ok _ _ b).2 rfl) <|
    ok_bind ((modIf_ok _ ()).2 w) <|
    rfl

theorem RoundTrip.vmad (c : Ctl) (d : VReg) (a : VReg) (b : VXI) : RoundTrip.Statement (.vmad c d a b) := by
  intro f h w
  cases h
  exact ok_bind ((sub0_ok _ ()).2 rfl) <|
    ok_bind ((opV_ok _ _ d).2 rfl) <|
    ok_bind ((opV_ok _ _ a).2 rfl) <|
    ok_bind ((opVXI_ok _ _ b).2 rfl) <|
    ok_bind ((modIf_ok _ ()).2 w) <|
    rfl

theorem RoundTrip.vmsb (c : Ctl) (d : VReg) (a : VReg) (b : VXI) : RoundTrip.Statement (.vmsb c d a b) := by
  intro f h w
  cases h
  exact ok_bind ((sub0_ok _ ()).2 rfl) <|
    ok_bind ((opV_ok _ _ d).2 rfl) <|
    ok_bind ((opV_ok _ _ a).2 rfl) <|
    ok_bind ((opVXI_ok _ _ b).2 rfl) <|
    ok_bind ((modIf_ok _ ()).2 w) <|
    rfl

theorem RoundTrip.vnmad (c : Ctl) (d : VReg) (a : VReg) (b : VXI) : RoundTrip.Statement (.vnmad c d a b) := by
  intro f h w
  cases h
  exact ok_bind ((sub0_ok _ ()).2 rfl) <|
    ok_bind ((opV_ok _ _ d).2 rfl) <|
    ok_bind ((opV_ok _ _ a).2 rfl) <|
    ok_bind ((opVXI_ok _ _ b).2 rfl) <|
    ok_bind ((modIf_ok _ ()).2 w) <|
    rfl

theorem RoundTrip.vdiv (c : Ctl) (d : VReg) (a : VReg) (b : VXI) : RoundTrip.Statement (.vdiv c d a b) := by
  intro f h w
  cases h
  exact ok_bind ((sub0_ok _ ()).2 rfl) <|
    ok_bind ((opV_ok _ _ d).2 rfl) <|
    ok_bind ((opV_ok _ _ a).2 rfl) <|
    ok_bind ((opVXI_ok _ _ b).2 rfl) <|
    ok_bind ((modIf_ok _ ()).2 w) <|
    rfl

theorem RoundTrip.vsqrt (c : Ctl) (d : VReg) (a : VReg) : RoundTrip.Statement (.vsqrt c d a) := by
  intro f h w
  cases h
  exact ok_bind ((sub0_ok _ ()).2 rfl) <|
    ok_bind ((opV_ok _ _ d).2 rfl) <|
    ok_bind ((opV_ok _ _ a).2 rfl) <|
    ok_bind ((opNone_ok _ _ ()).2 rfl) <|
    ok_bind ((modIf_ok _ ()).2 w) <|
    rfl

theorem RoundTrip.vrcp (c : Ctl) (d : VReg) (a : VReg) : RoundTrip.Statement (.vrcp c d a) := by
  intro f h w
  cases h
  exact ok_bind ((sub0_ok _ ()).2 rfl) <|
    ok_bind ((opV_ok _ _ d).2 rfl) <|
    ok_bind ((opV_ok _ _ a).2 rfl) <|
    ok_bind ((opNone_ok _ _ ()).2 rfl) <|
    ok_bind ((modIf_ok _ ()).2 w) <|
    rfl

theorem RoundTrip.vrsq (c : Ctl) (d : VReg) (a : VReg) : RoundTrip.Statement (.vrsq c d a) := by
  intro f h w
  cases h
  exact ok_bind ((sub0_ok _ ()).2 rfl) <|
    ok_bind ((opV_ok _ _ d).2 rfl) <|
    ok_bind ((opV_ok _ _ a).2 rfl) <|
    ok_bind ((opNone_ok _ _ ()).2 rfl) <|
    ok_bind ((modIf_ok _ ()).2 w) <|
    rfl

theorem RoundTrip.vexp2 (c : Ctl) (d : VReg) (a : VReg) : RoundTrip.Statement (.vexp2 c d a) := by
  intro f h w
  cases h
  exact ok_bind ((sub0_ok _ ()).2 rfl) <|
    ok_bind ((opV_ok _ _ d).2 rfl) <|
    ok_bind ((opV_ok _ _ a).2 rfl) <|
    ok_bind ((opNone_ok _ _ ()).2 rfl) <|
    ok_bind ((modIf_ok _ ()).2 w) <|
    rfl

theorem RoundTrip.vlog2 (c : Ctl) (d : VReg) (a : VReg) : RoundTrip.Statement (.vlog2 c d a) := by
  intro f h w
  cases h
  exact ok_bind ((sub0_ok _ ()).2 rfl) <|
    ok_bind ((opV_ok _ _ d).2 rfl) <|
    ok_bind ((opV_ok _ _ a).2 rfl) <|
    ok_bind ((opNone_ok _ _ ()).2 rfl) <|
    ok_bind ((modIf_ok _ ()).2 w) <|
    rfl

theorem RoundTrip.vmin (c : Ctl) (d : VReg) (a : VReg) (b : VXI) : RoundTrip.Statement (.vmin c d a b) := by
  intro f h w
  cases h
  exact ok_bind ((sub0_ok _ ()).2 rfl) <|
    ok_bind ((opV_ok _ _ d).2 rfl) <|
    ok_bind ((opV_ok _ _ a).2 rfl) <|
    ok_bind ((opVXI_ok _ _ b).2 rfl) <|
    rfl

theorem RoundTrip.vmax (c : Ctl) (d : VReg) (a : VReg) (b : VXI) : RoundTrip.Statement (.vmax c d a b) := by
  intro f h w
  cases h
  exact ok_bind ((sub0_ok _ ()).2 rfl) <|
    ok_bind ((opV_ok _ _ d).2 rfl) <|
    ok_bind ((opV_ok _ _ a).2 rfl) <|
    ok_bind ((opVXI_ok _ _ b).2 rfl) <|
    rfl

theorem RoundTrip.vabs (c : Ctl) (d : VReg) (a : VReg) : RoundTrip.Statement (.vabs c d a) := by
  intro f h w
  cases h
  exact ok_bind ((sub0_ok _ ()).2 rfl) <|
    ok_bind ((opV_ok _ _ d).2 rfl) <|
    ok_bind ((opV_ok _ _ a).2 rfl) <|
    ok_bind ((opNone_ok _ _ ()).2 rfl) <|
    rfl

theorem RoundTrip.vneg (c : Ctl) (d : VReg) (a : VReg) : RoundTrip.Statement (.vneg c d a) := by
  intro f h w
  cases h
  exact ok_bind ((sub0_ok _ ()).2 rfl) <|
    ok_bind ((opV_ok _ _ d).2 rfl) <|
    ok_bind ((opV_ok _ _ a).2 rfl) <|
    ok_bind ((opNone_ok _ _ ()).2 rfl) <|
    rfl

theorem RoundTrip.vand (c : Ctl) (d : VReg) (a : VReg) (b : VXI) : RoundTrip.Statement (.vand c d a b) := by
  intro f h w
  cases h
  exact ok_bind ((sub0_ok _ ()).2 rfl) <|
    ok_bind ((opV_ok _ _ d).2 rfl) <|
    ok_bind ((opV_ok _ _ a).2 rfl) <|
    ok_bind ((opVXI_ok _ _ b).2 rfl) <|
    rfl

theorem RoundTrip.vor (c : Ctl) (d : VReg) (a : VReg) (b : VXI) : RoundTrip.Statement (.vor c d a b) := by
  intro f h w
  cases h
  exact ok_bind ((sub0_ok _ ()).2 rfl) <|
    ok_bind ((opV_ok _ _ d).2 rfl) <|
    ok_bind ((opV_ok _ _ a).2 rfl) <|
    ok_bind ((opVXI_ok _ _ b).2 rfl) <|
    rfl

theorem RoundTrip.vxor (c : Ctl) (d : VReg) (a : VReg) (b : VXI) : RoundTrip.Statement (.vxor c d a b) := by
  intro f h w
  cases h
  exact ok_bind ((sub0_ok _ ()).2 rfl) <|
    ok_bind ((opV_ok _ _ d).2 rfl) <|
    ok_bind ((opV_ok _ _ a).2 rfl) <|
    ok_bind ((opVXI_ok _ _ b).2 rfl) <|
    rfl

theorem RoundTrip.vnot (c : Ctl) (d : VReg) (a : VReg) : RoundTrip.Statement (.vnot c d a) := by
  intro f h w
  cases h
  exact ok_bind ((sub0_ok _ ()).2 rfl) <|
    ok_bind ((opV_ok _ _ d).2 rfl) <|
    ok_bind ((opV_ok _ _ a).2 rfl) <|
    ok_bind ((opNone_ok _ _ ()).2 rfl) <|
    rfl

theorem RoundTrip.vshl (c : Ctl) (d : VReg) (a : VReg) (b : VXI) : RoundTrip.Statement (.vshl c d a b) := by
  intro f h w
  cases h
  exact ok_bind ((sub0_ok _ ()).2 rfl) <|
    ok_bind ((opV_ok _ _ d).2 rfl) <|
    ok_bind ((opV_ok _ _ a).2 rfl) <|
    ok_bind ((opVXI_ok _ _ b).2 rfl) <|
    rfl

theorem RoundTrip.vshr (c : Ctl) (d : VReg) (a : VReg) (b : VXI) : RoundTrip.Statement (.vshr c d a b) := by
  intro f h w
  cases h
  exact ok_bind ((sub0_ok _ ()).2 rfl) <|
    ok_bind ((opV_ok _ _ d).2 rfl) <|
    ok_bind ((opV_ok _ _ a).2 rfl) <|
    ok_bind ((opVXI_ok _ _ b).2 rfl) <|
    rfl

theorem RoundTrip.vsha (c : Ctl) (d : VReg) (a : VReg) (b : VXI) : RoundTrip.Statement (.vsha c d a b) := by
  intro f h w
  cases h
  exact ok_bind ((sub0_ok _ ()).2 rfl) <|
    ok_bind ((opV_ok _ _ d).2 rfl) <|
    ok_bind ((opV_ok _ _ a).2 rfl) <|
    ok_bind ((opVXI_ok _ _ b).2 rfl) <|
    rfl

theorem RoundTrip.vcmp (c : Ctl) (k : VCond) (d : PReg) (a : VReg) (b : VXI) : RoundTrip.Statement (.vcmp c k d a b) := by
  intro f h w
  cases h
  exact ok_bind ((opVCond_ok _ k).2 rfl) <|
    ok_bind ((opP_ok _ _ d).2 ⟨rfl, w⟩) <|
    ok_bind ((opV_ok _ _ a).2 rfl) <|
    ok_bind ((opVXI_ok _ _ b).2 rfl) <|
    rfl

theorem RoundTrip.vsel (c : Ctl) (d : VReg) (a : VReg) (b : VXI) : RoundTrip.Statement (.vsel c d a b) := by
  intro f h w
  cases h
  exact ok_bind ((sub0_ok _ ()).2 rfl) <|
    ok_bind ((opV_ok _ _ d).2 rfl) <|
    ok_bind ((opV_ok _ _ a).2 rfl) <|
    ok_bind ((opVXI_ok _ _ b).2 rfl) <|
    rfl

theorem RoundTrip.vclass (c : Ctl) (d : PReg) (a : VReg) (b : BitVec 10) : RoundTrip.Statement (.vclass c d a b) := by
  intro f h w
  cases h
  exact ok_bind ((sub0_ok _ ()).2 rfl) <|
    ok_bind ((opP_ok _ _ d).2 ⟨rfl, w⟩) <|
    ok_bind ((opV_ok _ _ a).2 rfl) <|
    ok_bind ((opU_ok (by decide) _ _ b).2 rfl) <|
    rfl

theorem RoundTrip.vcvt (c : Ctl) (d : VReg) (a : VReg) (b : Fmt) : RoundTrip.Statement (.vcvt c d a b) := by
  intro f h w
  cases h
  have w := Bool.and_eq_true_iff.1 w
  exact ok_bind ((sub0_ok _ ()).2 rfl) <|
    ok_bind ((opV_ok _ _ d).2 rfl) <|
    ok_bind ((opV_ok _ _ a).2 rfl) <|
    ok_bind ((opFmt_ok _ _ _ b).2 ⟨rfl, w.1⟩) <|
    ok_bind ((modIf_ok _ ()).2 w.2) <|
    rfl

theorem RoundTrip.vqnt (c : Ctl) (d : VReg) (a : VReg) (b : TagOp) : RoundTrip.Statement (.vqnt c d a b) := by
  intro f h w
  cases h
  have w := Bool.and_eq_true_iff.1 w
  exact ok_bind ((sub0_ok _ ()).2 rfl) <|
    ok_bind ((opV_ok _ _ d).2 rfl) <|
    ok_bind ((opV_ok _ _ a).2 rfl) <|
    ok_bind ((tagLate_ok _ _ _ b).2 ((opTag_ok _ _ _ _ b).2 ⟨rfl, w.1⟩)) <|
    ok_bind ((modIf_ok _ ()).2 w.2) <|
    rfl

theorem RoundTrip.vdqnt (c : Ctl) (d : VReg) (a : VReg) (b : Fmt) : RoundTrip.Statement (.vdqnt c d a b) := by
  intro f h w
  cases h
  have w := Bool.and_eq_true_iff.1 w
  exact ok_bind ((sub0_ok _ ()).2 rfl) <|
    ok_bind ((opV_ok _ _ d).2 rfl) <|
    ok_bind ((opV_ok _ _ a).2 rfl) <|
    ok_bind ((opFmt_ok _ _ _ b).2 ⟨rfl, w.1⟩) <|
    ok_bind ((modIf_ok _ ()).2 w.2) <|
    rfl

theorem RoundTrip.vsmax (c : Ctl) (d : GReg) (a : VReg) (b : TagOp) : RoundTrip.Statement (.vsmax c d a b) := by
  intro f h w
  cases h
  exact ok_bind ((sub0_ok _ ()).2 rfl) <|
    ok_bind ((opG_ok _ _ d).2 rfl) <|
    ok_bind ((opV_ok _ _ a).2 rfl) <|
    ok_bind ((opTag_ok _ _ _ _ b).2 ⟨rfl, w⟩) <|
    rfl

theorem RoundTrip.vtag (c : Ctl) (d : VReg) (a : VReg) (b : TagOp) : RoundTrip.Statement (.vtag c d a b) := by
  intro f h w
  cases h
  exact ok_bind ((sub0_ok _ ()).2 rfl) <|
    ok_bind ((opV_ok _ _ d).2 rfl) <|
    ok_bind ((opV_ok _ _ a).2 rfl) <|
    ok_bind ((tagLate_ok _ _ _ b).2 ((opTag_ok _ _ _ _ b).2 ⟨rfl, w⟩)) <|
    rfl

theorem RoundTrip.vsplat (c : Ctl) (d : VReg) (a : XI) (b : Fmt) : RoundTrip.Statement (.vsplat c d a b) := by
  intro f h w
  cases h
  have w := Bool.and_eq_true_iff.1 w
  exact ok_bind ((sub0_ok _ ()).2 rfl) <|
    ok_bind ((opV_ok _ _ d).2 rfl) <|
    ok_bind ((opXU_ok (by decide) _ _ a).2 rfl) <|
    ok_bind ((opFmt_ok _ _ _ b).2 ⟨rfl, w.1⟩) <|
    ok_bind ((modIf_ok _ ()).2 w.2) <|
    rfl

theorem RoundTrip.vmovV (c : Ctl) (d : VReg) (a : VReg) : RoundTrip.Statement (.vmovV c d a) := by
  intro f h w
  cases h
  exact ok_bind ((sub0_ok _ ()).2 rfl) <| (if_pos (encV_class d)).trans <|
    ok_bind ((opV_ok _ _ d).2 rfl) <| (if_pos (encV_class a)).trans <|
    ok_bind ((opV_ok _ _ a).2 rfl) <| ok_bind ((opNone_ok _ _ ()).2 rfl) rfl

theorem RoundTrip.vmovGFromV (c : Ctl) (d : GReg) (a : VReg) : RoundTrip.Statement (.vmovGFromV c d a) := by
  intro f h w
  cases h
  exact ok_bind ((sub0_ok _ ()).2 rfl) <|
    (if_neg (fun e => absurd ((encG_class d).symm.trans e) (by decide))).trans <|
    ok_bind ((opG_ok _ _ d).2 rfl) <| ok_bind ((opV_ok _ _ a).2 rfl) <| ok_bind ((opNone_ok _ _ ()).2 rfl) rfl

theorem RoundTrip.vmovVFromG (c : Ctl) (d : VReg) (a : GReg) : RoundTrip.Statement (.vmovVFromG c d a) := by
  intro f h w
  cases h
  exact ok_bind ((sub0_ok _ ()).2 rfl) <| (if_pos (encV_class d)).trans <|
    ok_bind ((opV_ok _ _ d).2 rfl) <|
    (if_neg (fun e => absurd ((encG_class a).symm.trans e) (by decide))).trans <|
    ok_bind ((opG_ok _ _ a).2 rfl) <| ok_bind ((opNone_ok _ _ ()).2 rfl) rfl

theorem RoundTrip.viota (c : Ctl) (d : VReg) (a : XI) (b : Fmt) : RoundTrip.Statement (.viota c d a b) := by
  intro f h w
  cases h
  exact ok_bind ((sub0_ok _ ()).2 rfl) <|
    ok_bind ((opV_ok _ _ d).2 rfl) <|
    ok_bind ((opXU_ok (by decide) _ _ a).2 rfl) <|
    ok_bind ((opFmt_ok _ _ _ b).2 ⟨rfl, w⟩) <|
    rfl

theorem RoundTrip.vext (c : Ctl) (d : XReg) (a : VReg) (b : XI) : RoundTrip.Statement (.vext c d a b) := by
  intro f h w
  cases h
  exact ok_bind ((sub0_ok _ ()).2 rfl) <|
    ok_bind ((opX_ok _ _ d).2 rfl) <|
    ok_bind ((opV_ok _ _ a).2 rfl) <|
    ok_bind ((opXU_ok (by decide) _ _ b).2 rfl) <|
    rfl

theorem RoundTrip.vins (c : Ctl) (d : VReg) (a : XReg) (b : XI) : RoundTrip.Statement (.vins c d a b) := by
  intro f h w
  cases h
  exact ok_bind ((sub0_ok _ ()).2 rfl) <|
    ok_bind ((opV_ok _ _ d).2 rfl) <|
    ok_bind ((opX_ok _ _ a).2 rfl) <|
    ok_bind ((opXU_ok (by decide) _ _ b).2 rfl) <|
    rfl

theorem RoundTrip.vred (c : Ctl) (k : RedOp) (d : VReg) (a : VReg) : RoundTrip.Statement (.vred c k d a) := by
  intro f h w
  cases h
  exact ok_bind ((opRed_ok _ k).2 rfl) <|
    ok_bind ((opV_ok _ _ d).2 rfl) <|
    ok_bind ((opV_ok _ _ a).2 rfl) <|
    ok_bind ((opNone_ok _ _ ()).2 rfl) <|
    ok_bind ((modIf_ok _ ()).2 w) <|
    rfl

theorem RoundTrip.vscan (c : Ctl) (k : RedOp) (d : VReg) (a : VReg) : RoundTrip.Statement (.vscan c k d a) := by
  intro f h w
  cases h
  exact ok_bind ((opRed_ok _ k).2 rfl) <|
    ok_bind ((opV_ok _ _ d).2 rfl) <|
    ok_bind ((opV_ok _ _ a).2 rfl) <|
    ok_bind ((opNone_ok _ _ ()).2 rfl) <|
    ok_bind ((modIf_ok _ ()).2 w) <|
    rfl

theorem RoundTrip.vdot (c : Ctl) (d : VReg) (a : VReg) (b : VReg) : RoundTrip.Statement (.vdot c d a b) := by
  intro f h w
  cases h
  exact ok_bind ((sub0_ok _ ()).2 rfl) <|
    ok_bind ((opV_ok _ _ d).2 rfl) <|
    ok_bind ((opV_ok _ _ a).2 rfl) <|
    ok_bind ((opV_ok _ _ b).2 rfl) <|
    ok_bind ((modIf_ok _ ()).2 w) <|
    rfl

theorem RoundTrip.vtopk (c : Ctl) (d : VReg) (a : VReg) (b : XU 12) : RoundTrip.Statement (.vtopk c d a b) := by
  intro f h w
  cases h
  exact ok_bind ((sub0_ok _ ()).2 rfl) <|
    ok_bind ((opV_ok _ _ d).2 rfl) <|
    ok_bind ((opV_ok _ _ a).2 rfl) <|
    ok_bind ((opXU_ok (by decide) _ _ b).2 rfl) <|
    rfl

theorem RoundTrip.vsort (c : Ctl) (d : VReg) (a : VReg) (b : XReg) : RoundTrip.Statement (.vsort c d a b) := by
  intro f h w
  cases h
  exact ok_bind ((sub0_ok _ ()).2 rfl) <|
    ok_bind ((opV_ok _ _ d).2 rfl) <|
    ok_bind ((opV_ok _ _ a).2 rfl) <|
    ok_bind ((opX_ok _ _ b).2 rfl) <|
    rfl

theorem RoundTrip.pand (c : Ctl) (d : PReg) (a : PReg) (b : PReg) : RoundTrip.Statement (.pand c d a b) := by
  intro f h w
  cases h
  have w := Bool.and_eq_true_iff.1 w
  have u := Bool.and_eq_true_iff.1 w.1
  exact ok_bind ((opP_ok _ _ d).2 ⟨rfl, u.1⟩) <|
    ok_bind ((opP_ok _ _ a).2 ⟨rfl, u.2⟩) <|
    ok_bind ((opP_ok _ _ b).2 ⟨rfl, w.2⟩) <|
    rfl

theorem RoundTrip.por (c : Ctl) (d : PReg) (a : PReg) (b : PReg) : RoundTrip.Statement (.por c d a b) := by
  intro f h w
  cases h
  have w := Bool.and_eq_true_iff.1 w
  have u := Bool.and_eq_true_iff.1 w.1
  exact ok_bind ((opP_ok _ _ d).2 ⟨rfl, u.1⟩) <|
    ok_bind ((opP_ok _ _ a).2 ⟨rfl, u.2⟩) <|
    ok_bind ((opP_ok _ _ b).2 ⟨rfl, w.2⟩) <|
    rfl

theorem RoundTrip.pxor (c : Ctl) (d : PReg) (a : PReg) (b : PReg) : RoundTrip.Statement (.pxor c d a b) := by
  intro f h w
  cases h
  have w := Bool.and_eq_true_iff.1 w
  have u := Bool.and_eq_true_iff.1 w.1
  exact ok_bind ((opP_ok _ _ d).2 ⟨rfl, u.1⟩) <|
    ok_bind ((opP_ok _ _ a).2 ⟨rfl, u.2⟩) <|
    ok_bind ((opP_ok _ _ b).2 ⟨rfl, w.2⟩) <|
    rfl

theorem RoundTrip.pandn (c : Ctl) (d : PReg) (a : PReg) (b : PReg) : RoundTrip.Statement (.pandn c d a b) := by
  intro f h w
  cases h
  have w := Bool.and_eq_true_iff.1 w
  have u := Bool.and_eq_true_iff.1 w.1
  exact ok_bind ((opP_ok _ _ d).2 ⟨rfl, u.1⟩) <|
    ok_bind ((opP_ok _ _ a).2 ⟨rfl, u.2⟩) <|
    ok_bind ((opP_ok _ _ b).2 ⟨rfl, w.2⟩) <|
    rfl

theorem RoundTrip.pnot (c : Ctl) (d : PReg) (a : PReg) : RoundTrip.Statement (.pnot c d a) := by
  intro f h w
  cases h
  have w := Bool.and_eq_true_iff.1 w
  exact ok_bind ((opP_ok _ _ d).2 ⟨rfl, w.1⟩) <|
    ok_bind ((opP_ok _ _ a).2 ⟨rfl, w.2⟩) <|
    ok_bind ((opNone_ok _ _ ()).2 rfl) <|
    rfl

theorem RoundTrip.pmov (c : Ctl) (d : PReg) (a : PReg) : RoundTrip.Statement (.pmov c d a) := by
  intro f h w
  cases h
  have w := Bool.and_eq_true_iff.1 w
  exact ok_bind ((opP_ok _ _ d).2 ⟨rfl, w.1⟩) <|
    ok_bind ((opP_ok _ _ a).2 ⟨rfl, w.2⟩) <|
    ok_bind ((opNone_ok _ _ ()).2 rfl) <|
    rfl

theorem RoundTrip.pcnt (c : Ctl) (d : XReg) (a : PReg) : RoundTrip.Statement (.pcnt c d a) := by
  intro f h w
  cases h
  exact ok_bind ((sub0_ok _ ()).2 rfl) <|
    ok_bind ((opX_ok _ _ d).2 rfl) <|
    ok_bind ((opP_ok _ _ a).2 ⟨rfl, w⟩) <|
    ok_bind ((opNone_ok _ _ ()).2 rfl) <|
    rfl

theorem RoundTrip.pfirst (c : Ctl) (d : XReg) (a : PReg) : RoundTrip.Statement (.pfirst c d a) := by
  intro f h w
  cases h
  exact ok_bind ((sub0_ok _ ()).2 rfl) <|
    ok_bind ((opX_ok _ _ d).2 rfl) <|
    ok_bind ((opP_ok _ _ a).2 ⟨rfl, w⟩) <|
    ok_bind ((opNone_ok _ _ ()).2 rfl) <|
    rfl

theorem RoundTrip.plast (c : Ctl) (d : XReg) (a : PReg) : RoundTrip.Statement (.plast c d a) := by
  intro f h w
  cases h
  exact ok_bind ((sub0_ok _ ()).2 rfl) <|
    ok_bind ((opX_ok _ _ d).2 rfl) <|
    ok_bind ((opP_ok _ _ a).2 ⟨rfl, w⟩) <|
    ok_bind ((opNone_ok _ _ ()).2 rfl) <|
    rfl

theorem RoundTrip.psetn (c : Ctl) (d : PReg) (a : XI) : RoundTrip.Statement (.psetn c d a) := by
  intro f h w
  cases h
  exact ok_bind ((sub0_ok _ ()).2 rfl) <|
    ok_bind ((opP_ok _ _ d).2 ⟨rfl, w⟩) <|
    ok_bind ((opXU_ok (by decide) _ _ a).2 rfl) <|
    ok_bind ((opNone_ok _ _ ()).2 rfl) <|
    rfl

theorem RoundTrip.pclr (c : Ctl) (d : PReg) : RoundTrip.Statement (.pclr c d) := by
  intro f h w
  cases h
  exact ok_bind ((sub0_ok _ ()).2 rfl) <|
    ok_bind ((opP_ok _ _ d).2 ⟨rfl, w⟩) <|
    ok_bind ((opNone_ok _ _ ()).2 rfl) <|
    ok_bind ((opNone_ok _ _ ()).2 rfl) <|
    rfl

theorem RoundTrip.pld (c : Ctl) (d : PReg) (a : MemOp) : RoundTrip.Statement (.pld c d a) := by
  intro f h w
  cases h
  exact ok_bind ((sub0_ok _ ()).2 rfl) <|
    ok_bind ((opP_ok _ _ d).2 ⟨rfl, w⟩) <|
    ok_bind ((opMem_ok _ _ a).2 rfl) <|
    ok_bind ((opNone_ok _ _ ()).2 rfl) <|
    rfl

theorem RoundTrip.pst (c : Ctl) (d : MemOp) (a : PReg) : RoundTrip.Statement (.pst c d a) := by
  intro f h w
  cases h
  exact ok_bind ((sub0_ok _ ()).2 rfl) <|
    ok_bind ((opMem_ok _ _ d).2 rfl) <|
    ok_bind ((opP_ok _ _ a).2 ⟨rfl, w⟩) <|
    ok_bind ((opNone_ok _ _ ()).2 rfl) <|
    rfl

theorem RoundTrip.vslide (c : Ctl) (d : VReg) (a : VReg) (b : XI) : RoundTrip.Statement (.vslide c d a b) := by
  intro f h w
  cases h
  exact ok_bind ((sub0_ok _ ()).2 rfl) <|
    ok_bind ((opV_ok _ _ d).2 rfl) <|
    ok_bind ((opV_ok _ _ a).2 rfl) <|
    ok_bind ((opXU_ok (by decide) _ _ b).2 rfl) <|
    rfl

theorem RoundTrip.vperm (c : Ctl) (d : VReg) (a : VReg) (b : VReg) : RoundTrip.Statement (.vperm c d a b) := by
  intro f h w
  cases h
  exact ok_bind ((sub0_ok _ ()).2 rfl) <|
    ok_bind ((opV_ok _ _ d).2 rfl) <|
    ok_bind ((opV_ok _ _ a).2 rfl) <|
    ok_bind ((opV_ok _ _ b).2 rfl) <|
    rfl

theorem RoundTrip.vshfl (c : Ctl) (d : VReg) (a : VReg) (b : XI) : RoundTrip.Statement (.vshfl c d a b) := by
  intro f h w
  cases h
  exact ok_bind ((sub0_ok _ ()).2 rfl) <|
    ok_bind ((opV_ok _ _ d).2 rfl) <|
    ok_bind ((opV_ok _ _ a).2 rfl) <|
    ok_bind ((opShfl_ok _ _ b).2 ⟨rfl, w⟩) <|
    rfl

theorem RoundTrip.vbcast (c : Ctl) (d : VReg) (a : VReg) (b : XI) : RoundTrip.Statement (.vbcast c d a b) := by
  intro f h w
  cases h
  exact ok_bind ((sub0_ok _ ()).2 rfl) <|
    ok_bind ((opV_ok _ _ d).2 rfl) <|
    ok_bind ((opV_ok _ _ a).2 rfl) <|
    ok_bind ((opXU_ok (by decide) _ _ b).2 rfl) <|
    rfl

theorem RoundTrip.vcomp (c : Ctl) (d : VReg) (a : VReg) : RoundTrip.Statement (.vcomp c d a) := by
  intro f h w
  cases h
  exact ok_bind ((sub0_ok _ ()).2 rfl) <|
    ok_bind ((opV_ok _ _ d).2 rfl) <|
    ok_bind ((opV_ok _ _ a).2 rfl) <|
    ok_bind ((opNone_ok _ _ ()).2 rfl) <|
    rfl

theorem RoundTrip.vexpd (c : Ctl) (d : VReg) (a : VReg) : RoundTrip.Statement (.vexpd c d a) := by
  intro f h w
  cases h
  exact ok_bind ((sub0_ok _ ()).2 rfl) <|
    ok_bind ((opV_ok _ _ d).2 rfl) <|
    ok_bind ((opV_ok _ _ a).2 rfl) <|
    ok_bind ((opNone_ok _ _ ()).2 rfl) <|
    rfl

theorem RoundTrip.tshape (c : Ctl) (d : XReg) (a : XReg) (b : Fmt) : RoundTrip.Statement (.tshape c d a b) := by
  intro f h w
  cases h
  exact ok_bind ((sub0_ok _ ()).2 rfl) <|
    ok_bind ((opX_ok _ _ d).2 rfl) <|
    ok_bind ((opX_ok _ _ a).2 rfl) <|
    ok_bind ((opFmt_ok _ _ _ b).2 ⟨rfl, w⟩) <|
    rfl

theorem RoundTrip.macq (c : Ctl) (d : MReg) : RoundTrip.Statement (.macq c d) := by
  intro f h w
  cases h
  exact ok_bind ((sub0_ok _ ()).2 rfl) <|
    ok_bind ((opM_ok _ _ d).2 rfl) <|
    ok_bind ((opNone_ok _ _ ()).2 rfl) <|
    ok_bind ((opNone_ok _ _ ()).2 rfl) <|
    rfl

theorem RoundTrip.mrel (c : Ctl) (d : MReg) : RoundTrip.Statement (.mrel c d) := by
  intro f h w
  cases h
  exact ok_bind ((sub0_ok _ ()).2 rfl) <|
    ok_bind ((opM_ok _ _ d).2 rfl) <|
    ok_bind ((opNone_ok _ _ ()).2 rfl) <|
    ok_bind ((opNone_ok _ _ ()).2 rfl) <|
    rfl

theorem RoundTrip.mzero (c : Ctl) (d : MReg) : RoundTrip.Statement (.mzero c d) := by
  intro f h w
  cases h
  exact ok_bind ((sub0_ok _ ()).2 rfl) <|
    ok_bind ((opM_ok _ _ d).2 rfl) <|
    ok_bind ((opNone_ok _ _ ()).2 rfl) <|
    ok_bind ((opNone_ok _ _ ()).2 rfl) <|
    rfl

theorem RoundTrip.mma (c : Ctl) (d : MReg) (a : VReg) (b : VReg) : RoundTrip.Statement (.mma c d a b) := by
  intro f h w
  cases h
  exact ok_bind ((sub0_ok _ ()).2 rfl) <|
    ok_bind ((opM_ok _ _ d).2 rfl) <|
    ok_bind ((opV_ok _ _ a).2 rfl) <|
    ok_bind ((opV_ok _ _ b).2 rfl) <|
    rfl

theorem RoundTrip.mrank (c : Ctl) (d : MReg) (a : VReg) (b : VReg) : RoundTrip.Statement (.mrank c d a b) := by
  intro f h w
  cases h
  exact ok_bind ((sub0_ok _ ()).2 rfl) <|
    ok_bind ((opM_ok _ _ d).2 rfl) <|
    ok_bind ((opV_ok _ _ a).2 rfl) <|
    ok_bind ((opV_ok _ _ b).2 rfl) <|
    rfl

theorem RoundTrip.mwait (c : Ctl) (d : MReg) : RoundTrip.Statement (.mwait c d) := by
  intro f h w
  cases h
  exact ok_bind ((sub0_ok _ ()).2 rfl) <|
    ok_bind ((opM_ok _ _ d).2 rfl) <|
    ok_bind ((opNone_ok _ _ ()).2 rfl) <|
    ok_bind ((opNone_ok _ _ ()).2 rfl) <|
    rfl

theorem RoundTrip.mrd (c : Ctl) (d : VReg) (a : MReg) (b : XU 4) : RoundTrip.Statement (.mrd c d a b) := by
  intro f h w
  cases h
  exact ok_bind ((sub0_ok _ ()).2 rfl) <|
    ok_bind ((opV_ok _ _ d).2 rfl) <|
    ok_bind ((opM_ok _ _ a).2 rfl) <|
    ok_bind ((opXU_ok (by decide) _ _ b).2 rfl) <|
    rfl

theorem RoundTrip.mwr (c : Ctl) (d : MReg) (a : VReg) (b : XU 4) : RoundTrip.Statement (.mwr c d a b) := by
  intro f h w
  cases h
  exact ok_bind ((sub0_ok _ ()).2 rfl) <|
    ok_bind ((opM_ok _ _ d).2 rfl) <|
    ok_bind ((opV_ok _ _ a).2 rfl) <|
    ok_bind ((opXU_ok (by decide) _ _ b).2 rfl) <|
    rfl

theorem RoundTrip.mcvt (c : Ctl) (d : VReg) (a : MReg) (b : XI) : RoundTrip.Statement (.mcvt c d a b) := by
  intro f h w
  cases h
  have w := Bool.and_eq_true_iff.1 w
  exact ok_bind ((sub0_ok _ ()).2 rfl) <|
    ok_bind ((opV_ok _ _ d).2 rfl) <|
    ok_bind ((opM_ok _ _ a).2 rfl) <|
    ok_bind ((opCvt_ok _ _ b).2 ⟨rfl, w.1⟩) <|
    ok_bind ((modIf_ok _ ()).2 w.2) <|
    rfl

theorem RoundTrip.mstat (c : Ctl) (d : XReg) (a : MReg) : RoundTrip.Statement (.mstat c d a) := by
  intro f h w
  cases h
  exact ok_bind ((sub0_ok _ ()).2 rfl) <|
    ok_bind ((opX_ok _ _ d).2 rfl) <|
    ok_bind ((opM_ok _ _ a).2 rfl) <|
    ok_bind ((opNone_ok _ _ ()).2 rfl) <|
    rfl

theorem RoundTrip.ld (c : Ctl) (d : XReg) (a : MemOp) : RoundTrip.Statement (.ld c d a) := by
  intro f h w
  cases h
  exact ok_bind ((sub0_ok _ ()).2 rfl) <|
    ok_bind ((opX_ok _ _ d).2 rfl) <|
    ok_bind ((opMem_ok _ _ a).2 rfl) <|
    ok_bind ((opNone_ok _ _ ()).2 rfl) <|
    rfl

theorem RoundTrip.st (c : Ctl) (d : MemOp) (a : XI) (b : Option Stream) : RoundTrip.Statement (.st c d a b) := by
  intro f h w
  cases h
  exact ok_bind ((sub0_ok _ ()).2 rfl) <|
    ok_bind ((opMem_ok _ _ d).2 rfl) <|
    ok_bind ((opXU_ok (by decide) _ _ a).2 rfl) <|
    ok_bind ((opStreamOpt_ok _ _ b).2 rfl) <|
    rfl

theorem RoundTrip.lda (c : Ctl) (d : XReg) (a : MemOp) : RoundTrip.Statement (.lda c d a) := by
  intro f h w
  cases h
  exact ok_bind ((sub0_ok _ ()).2 rfl) <|
    ok_bind ((opX_ok _ _ d).2 rfl) <|
    ok_bind ((opMem_ok _ _ a).2 rfl) <|
    ok_bind ((opNone_ok _ _ ()).2 rfl) <|
    ok_bind ((modIf_ok _ ()).2 w) <|
    rfl

theorem RoundTrip.stl (c : Ctl) (d : MemOp) (a : XI) : RoundTrip.Statement (.stl c d a) := by
  intro f h w
  cases h
  exact ok_bind ((sub0_ok _ ()).2 rfl) <|
    ok_bind ((opMem_ok _ _ d).2 rfl) <|
    ok_bind ((opXU_ok (by decide) _ _ a).2 rfl) <|
    ok_bind ((opNone_ok _ _ ()).2 rfl) <|
    ok_bind ((modIf_ok _ ()).2 w) <|
    rfl

theorem RoundTrip.rld (c : Ctl) (d : XReg) (a : MemOp) : RoundTrip.Statement (.rld c d a) := by
  intro f h w
  cases h
  exact ok_bind ((sub0_ok _ ()).2 rfl) <|
    ok_bind ((opX_ok _ _ d).2 rfl) <|
    ok_bind ((opMem_ok _ _ a).2 rfl) <|
    ok_bind ((opNone_ok _ _ ()).2 rfl) <|
    rfl

theorem RoundTrip.rst (c : Ctl) (d : MemOp) (a : XI) (b : Option Stream) : RoundTrip.Statement (.rst c d a b) := by
  intro f h w
  cases h
  exact ok_bind ((sub0_ok _ ()).2 rfl) <|
    ok_bind ((opMem_ok _ _ d).2 rfl) <|
    ok_bind ((opXU_ok (by decide) _ _ a).2 rfl) <|
    ok_bind ((opStreamOpt_ok _ _ b).2 rfl) <|
    rfl

theorem RoundTrip.vld (c : Ctl) (d : VReg) (a : MemOp) (b : TagOp) : RoundTrip.Statement (.vld c d a b) := by
  intro f h w
  cases h
  exact ok_bind ((sub0_ok _ ()).2 rfl) <|
    ok_bind ((opV_ok _ _ d).2 rfl) <|
    ok_bind ((opMem_ok _ _ a).2 rfl) <|
    ok_bind ((tagLate_ok _ _ _ b).2 ((opTag_ok _ _ _ _ b).2 ⟨rfl, w⟩)) <|
    rfl

theorem RoundTrip.vst (c : Ctl) (d : MemOp) (a : VReg) (b : Option Stream) : RoundTrip.Statement (.vst c d a b) := by
  intro f h w
  cases h
  exact ok_bind ((sub0_ok _ ()).2 rfl) <|
    ok_bind ((opMem_ok _ _ d).2 rfl) <|
    ok_bind ((opV_ok _ _ a).2 rfl) <|
    ok_bind ((opStreamOpt_ok _ _ b).2 rfl) <|
    rfl

theorem RoundTrip.vlds (c : Ctl) (d : VReg) (a : MemOp) (b : XI) : RoundTrip.Statement (.vlds c d a b) := by
  intro f h w
  cases h
  exact ok_bind ((sub0_ok _ ()).2 rfl) <|
    ok_bind ((opV_ok _ _ d).2 rfl) <|
    ok_bind ((opMem_ok _ _ a).2 rfl) <|
    ok_bind ((opXU_ok (by decide) _ _ b).2 rfl) <|
    ok_bind ((modIf_ok _ ()).2 w) <|
    rfl

theorem RoundTrip.vsts (c : Ctl) (d : MemOp) (a : VReg) (b : XI) : RoundTrip.Statement (.vsts c d a b) := by
  intro f h w
  cases h
  exact ok_bind ((sub0_ok _ ()).2 rfl) <|
    ok_bind ((opMem_ok _ _ d).2 rfl) <|
    ok_bind ((opV_ok _ _ a).2 rfl) <|
    ok_bind ((opXU_ok (by decide) _ _ b).2 rfl) <|
    rfl

theorem RoundTrip.vgath (c : Ctl) (d : VReg) (a : MemOp) (b : VReg) : RoundTrip.Statement (.vgath c d a b) := by
  intro f h w
  cases h
  exact ok_bind ((sub0_ok _ ()).2 rfl) <|
    ok_bind ((opV_ok _ _ d).2 rfl) <|
    ok_bind ((opMem_ok _ _ a).2 rfl) <|
    ok_bind ((opV_ok _ _ b).2 rfl) <|
    ok_bind ((modIf_ok _ ()).2 w) <|
    rfl

theorem RoundTrip.vscat (c : Ctl) (d : MemOp) (a : VReg) (b : VReg) : RoundTrip.Statement (.vscat c d a b) := by
  intro f h w
  cases h
  exact ok_bind ((sub0_ok _ ()).2 rfl) <|
    ok_bind ((opMem_ok _ _ d).2 rfl) <|
    ok_bind ((opV_ok _ _ a).2 rfl) <|
    ok_bind ((opV_ok _ _ b).2 rfl) <|
    rfl

theorem RoundTrip.rvst (c : Ctl) (d : MemOp) (a : VReg) (b : Option Stream) : RoundTrip.Statement (.rvst c d a b) := by
  intro f h w
  cases h
  exact ok_bind ((sub0_ok _ ()).2 rfl) <|
    ok_bind ((opMem_ok _ _ d).2 rfl) <|
    ok_bind ((opV_ok _ _ a).2 rfl) <|
    ok_bind ((opStreamOpt_ok _ _ b).2 rfl) <|
    rfl

theorem RoundTrip.vresume (c : Ctl) (d : VReg) : RoundTrip.Statement (.vresume c d) := by
  intro f h w
  cases h
  exact ok_bind ((sub0_ok _ ()).2 rfl) <|
    ok_bind ((opV_ok _ _ d).2 rfl) <|
    ok_bind ((opNone_ok _ _ ()).2 rfl) <|
    ok_bind ((opNone_ok _ _ ()).2 rfl) <|
    rfl

theorem RoundTrip.piwait (c : Ctl) (d : VReg) : RoundTrip.Statement (.piwait c d) := by
  intro f h w
  cases h
  exact ok_bind ((sub0_ok _ ()).2 rfl) <|
    ok_bind ((opV_ok _ _ d).2 rfl) <|
    ok_bind ((opNone_ok _ _ ()).2 rfl) <|
    ok_bind ((opNone_ok _ _ ()).2 rfl) <|
    rfl

theorem RoundTrip.stopen (c : Ctl) (d : BitVec 4) (a : XReg) (b : XU 8) : RoundTrip.Statement (.stopen c d a b) := by
  intro f h w
  cases h
  exact ok_bind ((sub0_ok _ ()).2 rfl) <|
    ok_bind ((opSlot_ok _ _ d).2 ⟨rfl, w⟩) <|
    ok_bind ((opX_ok _ _ a).2 rfl) <|
    ok_bind ((opXU_ok (by decide) _ _ b).2 rfl) <|
    rfl

theorem RoundTrip.stclose (c : Ctl) (d : BitVec 4) : RoundTrip.Statement (.stclose c d) := by
  intro f h w
  cases h
  exact ok_bind ((sub0_ok _ ()).2 rfl) <|
    ok_bind ((opSlot_ok _ _ d).2 ⟨rfl, w⟩) <|
    ok_bind ((opNone_ok _ _ ()).2 rfl) <|
    ok_bind ((opNone_ok _ _ ()).2 rfl) <|
    rfl

theorem RoundTrip.sfence (c : Ctl) (d : Stream) : RoundTrip.Statement (.sfence c d) := by
  intro f h w
  cases h
  exact ok_bind ((sub0_ok _ ()).2 rfl) <|
    ok_bind ((opStream_ok _ _ d).2 ⟨rfl, w⟩) <|
    ok_bind ((opNone_ok _ _ ()).2 rfl) <|
    ok_bind ((opNone_ok _ _ ()).2 rfl) <|
    rfl

theorem RoundTrip.fenceRel (c : Ctl) (k : Scope) : RoundTrip.Statement (.fenceRel c k) := by
  intro f h w
  cases h
  exact ok_bind ((opFence_ok _ .rel k).2 rfl) <| ok_bind ((opNone_ok _ _ ()).2 rfl) <|
    ok_bind ((opNone_ok _ _ ()).2 rfl) <| ok_bind ((opNone_ok _ _ ()).2 rfl) rfl

theorem RoundTrip.fenceAcq (c : Ctl) (k : Scope) : RoundTrip.Statement (.fenceAcq c k) := by
  intro f h w
  cases h
  exact ok_bind ((opFence_ok _ .acq k).2 rfl) <| ok_bind ((opNone_ok _ _ ()).2 rfl) <|
    ok_bind ((opNone_ok _ _ ()).2 rfl) <| ok_bind ((opNone_ok _ _ ()).2 rfl) rfl

theorem RoundTrip.fenceAr (c : Ctl) (k : Scope) : RoundTrip.Statement (.fenceAr c k) := by
  intro f h w
  cases h
  exact ok_bind ((opFence_ok _ .ar k).2 rfl) <| ok_bind ((opNone_ok _ _ ()).2 rfl) <|
    ok_bind ((opNone_ok _ _ ()).2 rfl) <| ok_bind ((opNone_ok _ _ ()).2 rfl) rfl

theorem RoundTrip.jrd (c : Ctl) (d : XReg) (a : XU 7) (b : BitVec 2) : RoundTrip.Statement (.jrd c d a b) := by
  intro f h w
  cases h
  exact ok_bind ((sub0_ok _ ()).2 rfl) <|
    ok_bind ((opX_ok _ _ d).2 rfl) <|
    ok_bind ((opXU_ok (by decide) _ _ a).2 rfl) <|
    ok_bind ((opW2_ok _ _ b).2 ⟨rfl, w⟩) <|
    rfl

theorem RoundTrip.jrepost (c : Ctl) (d : XU 7) : RoundTrip.Statement (.jrepost c d) := by
  intro f h w
  cases h
  exact ok_bind ((sub0_ok _ ()).2 rfl) <|
    ok_bind ((opXU_ok (by decide) _ _ d).2 rfl) <|
    ok_bind ((opNone_ok _ _ ()).2 rfl) <|
    ok_bind ((opNone_ok _ _ ()).2 rfl) <|
    rfl

theorem RoundTrip.jdrop (c : Ctl) (d : XU 7) : RoundTrip.Statement (.jdrop c d) := by
  intro f h w
  cases h
  exact ok_bind ((sub0_ok _ ()).2 rfl) <|
    ok_bind ((opXU_ok (by decide) _ _ d).2 rfl) <|
    ok_bind ((opNone_ok _ _ ()).2 rfl) <|
    ok_bind ((opNone_ok _ _ ()).2 rfl) <|
    rfl

theorem RoundTrip.amoadd (c : Ctl) (d : XReg) (a : MemOp) (b : XI) : RoundTrip.Statement (.amoadd c d a b) := by
  intro f h w
  cases h
  exact ok_bind ((sub0_ok _ ()).2 rfl) <|
    ok_bind ((opX_ok _ _ d).2 rfl) <|
    ok_bind ((opMem_ok _ _ a).2 rfl) <|
    ok_bind ((opXU_ok (by decide) _ _ b).2 rfl) <|
    ok_bind ((modIf_ok _ ()).2 w) <|
    rfl

theorem RoundTrip.amoand (c : Ctl) (d : XReg) (a : MemOp) (b : XI) : RoundTrip.Statement (.amoand c d a b) := by
  intro f h w
  cases h
  exact ok_bind ((sub0_ok _ ()).2 rfl) <|
    ok_bind ((opX_ok _ _ d).2 rfl) <|
    ok_bind ((opMem_ok _ _ a).2 rfl) <|
    ok_bind ((opXU_ok (by decide) _ _ b).2 rfl) <|
    ok_bind ((modIf_ok _ ()).2 w) <|
    rfl

theorem RoundTrip.amoor (c : Ctl) (d : XReg) (a : MemOp) (b : XI) : RoundTrip.Statement (.amoor c d a b) := by
  intro f h w
  cases h
  exact ok_bind ((sub0_ok _ ()).2 rfl) <|
    ok_bind ((opX_ok _ _ d).2 rfl) <|
    ok_bind ((opMem_ok _ _ a).2 rfl) <|
    ok_bind ((opXU_ok (by decide) _ _ b).2 rfl) <|
    ok_bind ((modIf_ok _ ()).2 w) <|
    rfl

theorem RoundTrip.amoxor (c : Ctl) (d : XReg) (a : MemOp) (b : XI) : RoundTrip.Statement (.amoxor c d a b) := by
  intro f h w
  cases h
  exact ok_bind ((sub0_ok _ ()).2 rfl) <|
    ok_bind ((opX_ok _ _ d).2 rfl) <|
    ok_bind ((opMem_ok _ _ a).2 rfl) <|
    ok_bind ((opXU_ok (by decide) _ _ b).2 rfl) <|
    ok_bind ((modIf_ok _ ()).2 w) <|
    rfl

theorem RoundTrip.amomin (c : Ctl) (d : XReg) (a : MemOp) (b : XI) : RoundTrip.Statement (.amomin c d a b) := by
  intro f h w
  cases h
  exact ok_bind ((sub0_ok _ ()).2 rfl) <|
    ok_bind ((opX_ok _ _ d).2 rfl) <|
    ok_bind ((opMem_ok _ _ a).2 rfl) <|
    ok_bind ((opXU_ok (by decide) _ _ b).2 rfl) <|
    ok_bind ((modIf_ok _ ()).2 w) <|
    rfl

theorem RoundTrip.amomax (c : Ctl) (d : XReg) (a : MemOp) (b : XI) : RoundTrip.Statement (.amomax c d a b) := by
  intro f h w
  cases h
  exact ok_bind ((sub0_ok _ ()).2 rfl) <|
    ok_bind ((opX_ok _ _ d).2 rfl) <|
    ok_bind ((opMem_ok _ _ a).2 rfl) <|
    ok_bind ((opXU_ok (by decide) _ _ b).2 rfl) <|
    ok_bind ((modIf_ok _ ()).2 w) <|
    rfl

theorem RoundTrip.amoswp (c : Ctl) (d : XReg) (a : MemOp) (b : XI) : RoundTrip.Statement (.amoswp c d a b) := by
  intro f h w
  cases h
  exact ok_bind ((sub0_ok _ ()).2 rfl) <|
    ok_bind ((opX_ok _ _ d).2 rfl) <|
    ok_bind ((opMem_ok _ _ a).2 rfl) <|
    ok_bind ((opXU_ok (by decide) _ _ b).2 rfl) <|
    ok_bind ((modIf_ok _ ()).2 w) <|
    rfl

theorem RoundTrip.cas (c : Ctl) (d : XReg) (a : MemOp) (b : XI) : RoundTrip.Statement (.cas c d a b) := by
  intro f h w
  cases h
  exact ok_bind ((sub0_ok _ ()).2 rfl) <|
    ok_bind ((opX_ok _ _ d).2 rfl) <|
    ok_bind ((opMem_ok _ _ a).2 rfl) <|
    ok_bind ((opXU_ok (by decide) _ _ b).2 rfl) <|
    ok_bind ((modIf_ok _ ()).2 w) <|
    rfl

theorem RoundTrip.cas128 (c : Ctl) (d : XReg) (a : MemOp) (b : XReg) : RoundTrip.Statement (.cas128 c d a b) := by
  intro f h w
  cases h
  have w := Bool.and_eq_true_iff.1 w
  have u := Bool.and_eq_true_iff.1 w.1
  exact ok_bind ((sub0_ok _ ()).2 rfl) <|
    ok_bind ((opXe1_ok _ _ d).2 ⟨rfl, u.1⟩) <|
    ok_bind ((opMem_ok _ _ a).2 rfl) <|
    ok_bind ((opXe_ok _ _ b).2 ⟨rfl, u.2⟩) <|
    ok_bind ((modIf_ok _ ()).2 w.2) <|
    rfl

theorem RoundTrip.faddx (c : Ctl) (d : MemOp) (a : XReg) : RoundTrip.Statement (.faddx c d a) := by
  intro f h w
  cases h
  exact ok_bind ((sub0_ok _ ()).2 rfl) <|
    ok_bind ((opMem_ok _ _ d).2 rfl) <|
    ok_bind ((opX_ok _ _ a).2 rfl) <|
    ok_bind ((opNone_ok _ _ ()).2 rfl) <|
    ok_bind ((modIf_ok _ ()).2 w) <|
    rfl

theorem RoundTrip.fcell (c : Ctl) (d : XReg) (a : MemOp) : RoundTrip.Statement (.fcell c d a) := by
  intro f h w
  cases h
  exact ok_bind ((sub0_ok _ ()).2 rfl) <|
    ok_bind ((opX_ok _ _ d).2 rfl) <|
    ok_bind ((opMem_ok _ _ a).2 rfl) <|
    ok_bind ((opNone_ok _ _ ()).2 rfl) <|
    ok_bind ((modIf_ok _ ()).2 w) <|
    rfl

theorem RoundTrip.fclr (c : Ctl) (d : MemOp) : RoundTrip.Statement (.fclr c d) := by
  intro f h w
  cases h
  exact ok_bind ((sub0_ok _ ()).2 rfl) <|
    ok_bind ((opMem_ok _ _ d).2 rfl) <|
    ok_bind ((opNone_ok _ _ ()).2 rfl) <|
    ok_bind ((opNone_ok _ _ ()).2 rfl) <|
    ok_bind ((modIf_ok _ ()).2 w) <|
    rfl

theorem RoundTrip.send (c : Ctl) (d : KReg) (a : XI) : RoundTrip.Statement (.send c d a) := by
  intro f h w
  cases h
  exact ok_bind ((sub0_ok _ ()).2 rfl) <|
    ok_bind ((opK_ok _ _ d).2 rfl) <|
    ok_bind ((opXU_ok (by decide) _ _ a).2 rfl) <|
    ok_bind ((opNone_ok _ _ ()).2 rfl) <|
    rfl

theorem RoundTrip.recv (c : Ctl) (d : XReg) (a : KReg) (b : Option PReg) : RoundTrip.Statement (.recv c d a b) := by
  intro f h w
  cases h
  exact ok_bind ((sub0_ok _ ()).2 rfl) <|
    ok_bind ((opX_ok _ _ d).2 rfl) <|
    ok_bind ((opK_ok _ _ a).2 rfl) <|
    ok_bind ((opPOpt_ok _ _ b).2 ⟨rfl, w⟩) <|
    rfl

theorem RoundTrip.vsend (c : Ctl) (d : KReg) (a : VReg) : RoundTrip.Statement (.vsend c d a) := by
  intro f h w
  cases h
  exact ok_bind ((sub0_ok _ ()).2 rfl) <|
    ok_bind ((opK_ok _ _ d).2 rfl) <|
    ok_bind ((opV_ok _ _ a).2 rfl) <|
    ok_bind ((opNone_ok _ _ ()).2 rfl) <|
    rfl

theorem RoundTrip.vrecv (c : Ctl) (d : VReg) (a : KReg) (b : Option PReg) : RoundTrip.Statement (.vrecv c d a b) := by
  intro f h w
  cases h
  exact ok_bind ((sub0_ok _ ()).2 rfl) <|
    ok_bind ((opV_ok _ _ d).2 rfl) <|
    ok_bind ((opK_ok _ _ a).2 rfl) <|
    ok_bind ((opPOpt_ok _ _ b).2 ⟨rfl, w⟩) <|
    rfl

theorem RoundTrip.cend (c : Ctl) (d : KReg) : RoundTrip.Statement (.cend c d) := by
  intro f h w
  cases h
  exact ok_bind ((sub0_ok _ ()).2 rfl) <|
    ok_bind ((opK_ok _ _ d).2 rfl) <|
    ok_bind ((opNone_ok _ _ ()).2 rfl) <|
    ok_bind ((opNone_ok _ _ ()).2 rfl) <|
    rfl

theorem RoundTrip.cpgo (c : Ctl) (d : XReg) (a : WReg) : RoundTrip.Statement (.cpgo c d a) := by
  intro f h w
  cases h
  exact ok_bind ((sub0_ok _ ()).2 rfl) <|
    ok_bind ((opX_ok _ _ d).2 rfl) <|
    ok_bind ((opW_ok _ _ a).2 rfl) <|
    ok_bind ((opNone_ok _ _ ()).2 rfl) <|
    rfl

theorem RoundTrip.cpstat (c : Ctl) (d : XReg) (a : XU 16) : RoundTrip.Statement (.cpstat c d a) := by
  intro f h w
  cases h
  exact ok_bind ((sub0_ok _ ()).2 rfl) <|
    ok_bind ((opX_ok _ _ d).2 rfl) <|
    ok_bind ((opXU_ok (by decide) _ _ a).2 rfl) <|
    ok_bind ((opNone_ok _ _ ()).2 rfl) <|
    rfl

theorem RoundTrip.wait (c : Ctl) (d : XU 8) : RoundTrip.Statement (.wait c d) := by
  intro f h w
  cases h
  exact ok_bind ((sub0_ok _ ()).2 rfl) <|
    ok_bind ((opXU_ok (by decide) _ _ d).2 rfl) <|
    ok_bind ((opNone_ok _ _ ()).2 rfl) <|
    ok_bind ((opNone_ok _ _ ()).2 rfl) <|
    rfl

theorem RoundTrip.binit (c : Ctl) (d : MemOp) (a : XU 16) : RoundTrip.Statement (.binit c d a) := by
  intro f h w
  cases h
  exact ok_bind ((sub0_ok _ ()).2 rfl) <|
    ok_bind ((opMem_ok _ _ d).2 rfl) <|
    ok_bind ((opXU_ok (by decide) _ _ a).2 rfl) <|
    ok_bind ((opNone_ok _ _ ()).2 rfl) <|
    rfl

theorem RoundTrip.bara (c : Ctl) (d : MemOp) (a : XU 16) : RoundTrip.Statement (.bara c d a) := by
  intro f h w
  cases h
  exact ok_bind ((sub0_ok _ ()).2 rfl) <|
    ok_bind ((opMem_ok _ _ d).2 rfl) <|
    ok_bind ((opXU_ok (by decide) _ _ a).2 rfl) <|
    ok_bind ((opNone_ok _ _ ()).2 rfl) <|
    ok_bind ((modIf_ok _ ()).2 w) <|
    rfl

theorem RoundTrip.bwait (c : Ctl) (d : XReg) (a : MemOp) : RoundTrip.Statement (.bwait c d a) := by
  intro f h w
  cases h
  exact ok_bind ((sub0_ok _ ()).2 rfl) <|
    ok_bind ((opX_ok _ _ d).2 rfl) <|
    ok_bind ((opMem_ok _ _ a).2 rfl) <|
    ok_bind ((opNone_ok _ _ ()).2 rfl) <|
    rfl

theorem RoundTrip.refuseTrap (hart : Nat) : RoundTrip.Statement (.refuseTrap hart) := by
  intro f h
  cases h

theorem RoundTrip.entryRefused (p : Nat) : RoundTrip.Statement (.entryRefused p) := by
  intro f h
  cases h

theorem RoundTrip.journalAck (p : Nat) : RoundTrip.Statement (.journalAck p) := by
  intro f h
  cases h

theorem RoundTrip.postedWriteArrival (p : Nat) : RoundTrip.Statement (.postedWriteArrival p) := by
  intro f h
  cases h

theorem RoundTrip.streamMemberCommit (ep : Nat) (sender : Nat) (num : Nat) : RoundTrip.Statement (.streamMemberCommit ep sender num) := by
  intro f h
  cases h

theorem RoundTrip.streamSkip (p : Nat) : RoundTrip.Statement (.streamSkip p) := by
  intro f h
  cases h

theorem RoundTrip.remoteReadPerformed (p : Nat) : RoundTrip.Statement (.remoteReadPerformed p) := by
  intro f h
  cases h

theorem RoundTrip.loadReply (p : Nat) : RoundTrip.Statement (.loadReply p) := by
  intro f h
  cases h

theorem RoundTrip.loadGroupLands (hart : Nat) (v : VReg) (g : Nat) : RoundTrip.Statement (.loadGroupLands hart v g) := by
  intro f h
  cases h

theorem RoundTrip.atomicPerformed (p : Nat) : RoundTrip.Statement (.atomicPerformed p) := by
  intro f h
  cases h

theorem RoundTrip.atomicReply (p : Nat) : RoundTrip.Statement (.atomicReply p) := by
  intro f h
  cases h

theorem RoundTrip.baraPerformed (p : Nat) : RoundTrip.Statement (.baraPerformed p) := by
  intro f h
  cases h

theorem RoundTrip.faddxPerformed (p : Nat) : RoundTrip.Statement (.faddxPerformed p) := by
  intro f h
  cases h

theorem RoundTrip.tokenArrival (p : Nat) : RoundTrip.Statement (.tokenArrival p) := by
  intro f h
  cases h

theorem RoundTrip.slotReturn (p : Nat) : RoundTrip.Statement (.slotReturn p) := by
  intro f h
  cases h

theorem RoundTrip.growthGrant (p : Nat) : RoundTrip.Statement (.growthGrant p) := by
  intro f h
  cases h

theorem RoundTrip.stationPairRequest (part : Nat) (pair : Nat) : RoundTrip.Statement (.stationPairRequest part pair) := by
  intro f h
  cases h

theorem RoundTrip.copyTransferStart (tile : Nat) : RoundTrip.Statement (.copyTransferStart tile) := by
  intro f h
  cases h

theorem RoundTrip.copyPiece (tile : Nat) : RoundTrip.Statement (.copyPiece tile) := by
  intro f h
  cases h

theorem RoundTrip.copyTransferComplete (tile : Nat) : RoundTrip.Statement (.copyTransferComplete tile) := by
  intro f h
  cases h

theorem RoundTrip.matrixUnitStart (tile : Nat) : RoundTrip.Statement (.matrixUnitStart tile) := by
  intro f h
  cases h

theorem RoundTrip.matrixOpComplete (tile : Nat) : RoundTrip.Statement (.matrixOpComplete tile) := by
  intro f h
  cases h

theorem RoundTrip.vectorSequencerPick (tile : Nat) : RoundTrip.Statement (.vectorSequencerPick tile) := by
  intro f h
  cases h

theorem RoundTrip.sequencerPeriodEnd (tile : Nat) : RoundTrip.Statement (.sequencerPeriodEnd tile) := by
  intro f h
  cases h

theorem RoundTrip.budgetPeriodEnd (ep : Nat) : RoundTrip.Statement (.budgetPeriodEnd ep) := by
  intro f h
  cases h

theorem RoundTrip.pauseExpiry (hart : Nat) : RoundTrip.Statement (.pauseExpiry hart) := by
  intro f h
  cases h

theorem RoundTrip.timewaitExpiry (hart : Nat) : RoundTrip.Statement (.timewaitExpiry hart) := by
  intro f h
  cases h

theorem RoundTrip.outputPortGrant (tile : Nat) (port : Nat) : RoundTrip.Statement (.outputPortGrant tile port) := by
  intro f h
  cases h

theorem RoundTrip.signalBoxSweep (part : Nat) : RoundTrip.Statement (.signalBoxSweep part) := by
  intro f h
  cases h

theorem RoundTrip.supervisorReportTrap (part : Nat) : RoundTrip.Statement (.supervisorReportTrap part) := by
  intro f h
  cases h

theorem RoundTrip.watchdogExpiry (part : Nat) : RoundTrip.Statement (.watchdogExpiry part) := by
  intro f h
  cases h

theorem RoundTrip.gangSwitchStop (part : Nat) : RoundTrip.Statement (.gangSwitchStop part) := by
  intro f h
  cases h

theorem RoundTrip.switchStopped (part : Nat) : RoundTrip.Statement (.switchStopped part) := by
  intro f h
  cases h

theorem RoundTrip.swctlSave (part : Nat) : RoundTrip.Statement (.swctlSave part) := by
  intro f h
  cases h

theorem RoundTrip.swctlLoad (part : Nat) : RoundTrip.Statement (.swctlLoad part) := by
  intro f h
  cases h

theorem RoundTrip.swctlGo (part : Nat) : RoundTrip.Statement (.swctlGo part) := by
  intro f h
  cases h

theorem RoundTrip.hartsReleased (part : Nat) : RoundTrip.Statement (.hartsReleased part) := by
  intro f h
  cases h

theorem RoundTrip.checkpointDue (part : Nat) : RoundTrip.Statement (.checkpointDue part) := by
  intro f h
  cases h

theorem RoundTrip.checkpointManifest (part : Nat) : RoundTrip.Statement (.checkpointManifest part) := by
  intro f h
  cases h

theorem RoundTrip.ckreqGo (part : Nat) : RoundTrip.Statement (.ckreqGo part) := by
  intro f h
  cases h

theorem RoundTrip.translationFill (station : Nat) (walk : Nat) : RoundTrip.Statement (.translationFill station walk) := by
  intro f h
  cases h

theorem RoundTrip.speculativeWalk (station : Nat) (asid : BitVec 16) (va : BitVec 43) : RoundTrip.Statement (.speculativeWalk station asid va) := by
  intro f h
  cases h

theorem RoundTrip.fatalContextHold (hart : Nat) : RoundTrip.Statement (.fatalContextHold hart) := by
  intro f h
  cases h

theorem RoundTrip.xlinvWrite (v : W64) : RoundTrip.Statement (.xlinvWrite v) := by
  intro f h
  cases h

theorem RoundTrip.stationShootdown (station : Nat) : RoundTrip.Statement (.stationShootdown station) := by
  intro f h
  cases h

theorem RoundTrip.shootdownAck (station : Nat) : RoundTrip.Statement (.shootdownAck station) := by
  intro f h
  cases h

theorem RoundTrip.specdropRead (station : Nat) : RoundTrip.Statement (.specdropRead station) := by
  intro f h
  cases h

theorem RoundTrip.rtbankWrite (v : W64) : RoundTrip.Statement (.rtbankWrite v) := by
  intro f h
  cases h

theorem RoundTrip.routingEntryWrite (junction : Bool) (n : Nat) (bank : Bool) (e : Nat) (v : Byte) : RoundTrip.Statement (.routingEntryWrite junction n bank e v) := by
  intro f h
  cases h

theorem RoundTrip.tschedWrite (tile : Nat) (v : W64) : RoundTrip.Statement (.tschedWrite tile v) := by
  intro f h
  cases h

theorem RoundTrip.jarbWrite (tile : Nat) (v : W64) : RoundTrip.Statement (.jarbWrite tile v) := by
  intro f h
  cases h

theorem RoundTrip.jinjWrite (tile : Nat) (v : W64) : RoundTrip.Statement (.jinjWrite tile v) := by
  intro f h
  cases h

theorem RoundTrip.gframeWrite (hart : Nat) (v : W64) : RoundTrip.Statement (.gframeWrite hart v) := by
  intro f h
  cases h

theorem RoundTrip.xlbaseWrite (v : W64) : RoundTrip.Statement (.xlbaseWrite v) := by
  intro f h
  cases h

theorem RoundTrip.govctlWrite (v : W64) : RoundTrip.Statement (.govctlWrite v) := by
  intro f h
  cases h

theorem RoundTrip.hdmaWrite (n : Nat) (b : Bool) (v : W64) : RoundTrip.Statement (.hdmaWrite n b v) := by
  intro f h
  cases h

theorem RoundTrip.bridgeRegisterWrite (off : Nat) (v : W64) : RoundTrip.Statement (.bridgeRegisterWrite off v) := by
  intro f h
  cases h

theorem RoundTrip.illegalWord (why : IllAt) : RoundTrip.Statement (.illegalWord why) := by
  intro f h
  cases h

theorem RoundTrip.instructionFetchTrap : RoundTrip.Statement (.instructionFetchTrap) := by
  intro f h
  cases h

theorem RoundTrip.launch : RoundTrip.Statement (.launch) := by
  intro f h
  cases h

theorem RoundTrip.loadCancel (part : Nat) : RoundTrip.Statement (.loadCancel part) := by
  intro f h
  cases h

theorem RoundTrip.linkFlitSend (l : Nat) : RoundTrip.Statement (.linkFlitSend l) := by
  intro f h
  cases h

theorem RoundTrip.moduleReset : RoundTrip.Statement (.moduleReset) := by
  intro f h
  cases h

theorem RoundTrip.powerLoss : RoundTrip.Statement (.powerLoss) := by
  intro f h
  cases h

theorem RoundTrip.hctokWrite (n : Nat) (v : W64) : RoundTrip.Statement (.hctokWrite n v) := by
  intro f h
  cases h

theorem RoundTrip.hctokRead (n : Nat) : RoundTrip.Statement (.hctokRead n) := by
  intro f h
  cases h

theorem RoundTrip.hcendWrite (n : Nat) (v : W64) : RoundTrip.Statement (.hcendWrite n v) := by
  intro f h
  cases h

theorem RoundTrip.hcendRead (n : Nat) : RoundTrip.Statement (.hcendRead n) := by
  intro f h
  cases h

theorem RoundTrip.hcstatWrite (n : Nat) (v : W64) : RoundTrip.Statement (.hcstatWrite n v) := by
  intro f h
  cases h

theorem RoundTrip.hostBar2Access (off : Nat) (len : Nat) (data : Option (List Byte)) : RoundTrip.Statement (.hostBar2Access off len data) := by
  intro f h
  cases h

theorem RoundTrip.linkFlitReceive (l : Nat) (f : LinkFlit) : RoundTrip.Statement (.linkFlitReceive l f) := by
  intro f h
  cases h

theorem RoundTrip.linkNakReceive (l : Nat) (f : LinkFlit) : RoundTrip.Statement (.linkNakReceive l f) := by
  intro f h
  cases h

theorem RoundTrip.linkRetrain (l : Nat) (k : Agreement) : RoundTrip.Statement (.linkRetrain l k) := by
  intro f h
  cases h

theorem RoundTrip.keyAgreementComplete (l : Nat) (k : Agreement) : RoundTrip.Statement (.keyAgreementComplete l k) := by
  intro f h
  cases h

theorem RoundTrip.timestampExchange (l : Nat) (offset : Int) (isParent : Bool) (root : Bool) : RoundTrip.Statement (.timestampExchange l offset isParent root) := by
  intro f h
  cases h

theorem RoundTrip.governorTick (pnow : BitVec 16) (temp : BitVec 8) : RoundTrip.Statement (.governorTick pnow temp) := by
  intro f h
  cases h

theorem RoundTrip.thermalShutdown (temp : BitVec 8) : RoundTrip.Statement (.thermalShutdown temp) := by
  intro f h
  cases h

theorem RoundTrip.softError (u : ErrUnit) (correctable : Bool) : RoundTrip.Statement (.softError u correctable) := by
  intro f h
  cases h

theorem RoundTrip.pldmMonitorRequest (sensor : Nat) : RoundTrip.Statement (.pldmMonitorRequest sensor) := by
  intro f h
  cases h

theorem RoundTrip.pldmFirmwareUpdate (image : List Byte) : RoundTrip.Statement (.pldmFirmwareUpdate image) := by
  intro f h
  cases h

theorem RoundTrip.spdmRequest (nonce : List Byte) : RoundTrip.Statement (.spdmRequest nonce) := by
  intro f h
  cases h

end Sys2Proof.Laws
end

