-- ==== Sys2Proof/Laws/State.lean ====
section
/-! SUPPORT. What each update of a component leaves alone and what it changes, one lemma per field and update. -/

namespace Sys2Proof.Machine

@[simp] theorem State.setHart_cur (s : State) (h : Nat) (a : Hart) : (s.setHart h a).cur = s.cur := rfl
@[simp] theorem State.setHart_sched (s : State) (h : Nat) (a : Hart) : (s.setHart h a).sched = s.sched := rfl
@[simp] theorem State.setHart_tick (s : State) (h : Nat) (a : Hart) : (s.setHart h a).tick = s.tick := rfl
@[simp] theorem State.setHart_tiles (s : State) (h : Nat) (a : Hart) : (s.setHart h a).tiles = s.tiles := rfl
@[simp] theorem State.setHart_parts (s : State) (h : Nat) (a : Hart) : (s.setHart h a).parts = s.parts := rfl
@[simp] theorem State.setHart_stations (s : State) (h : Nat) (a : Hart) : (s.setHart h a).stations = s.stations := rfl
@[simp] theorem State.setHart_links (s : State) (h : Nat) (a : Hart) : (s.setHart h a).links = s.links := rfl
@[simp] theorem State.setHart_mem (s : State) (h : Nat) (a : Hart) : (s.setHart h a).mem = s.mem := rfl
@[simp] theorem State.setHart_poison (s : State) (h : Nat) (a : Hart) : (s.setHart h a).poison = s.poison := rfl
@[simp] theorem State.setHart_stlog (s : State) (h : Nat) (a : Hart) : (s.setHart h a).stlog = s.stlog := rfl
@[simp] theorem State.setHart_arrived (s : State) (h : Nat) (a : Hart) : (s.setHart h a).arrived = s.arrived := rfl
@[simp] theorem State.setHart_nextPkt (s : State) (h : Nat) (a : Hart) : (s.setHart h a).nextPkt = s.nextPkt := rfl
@[simp] theorem State.setHart_nextReq (s : State) (h : Nat) (a : Hart) : (s.setHart h a).nextReq = s.nextReq := rfl
@[simp] theorem State.setHart_nextStamp (s : State) (h : Nat) (a : Hart) : (s.setHart h a).nextStamp = s.nextStamp := rfl
@[simp] theorem State.setHart_time (s : State) (h : Nat) (a : Hart) : (s.setHart h a).time = s.time := rfl
@[simp] theorem State.setHart_main (s : State) (h : Nat) (a : Hart) : (s.setHart h a).main = s.main := rfl
@[simp] theorem State.setHart_bootstat (s : State) (h : Nat) (a : Hart) : (s.setHart h a).bootstat = s.bootstat := rfl
@[simp] theorem State.setHart_mhz (s : State) (h : Nat) (a : Hart) : (s.setHart h a).mhz = s.mhz := rfl
@[simp] theorem State.setHart_keyLimit (s : State) (h : Nat) (a : Hart) : (s.setHart h a).keyLimit = s.keyLimit := rfl
@[simp] theorem State.setHart_keyTest (s : State) (h : Nat) (a : Hart) : (s.setHart h a).keyTest = s.keyTest := rfl
@[simp] theorem State.setHart_keyLock (s : State) (h : Nat) (a : Hart) : (s.setHart h a).keyLock = s.keyLock := rfl
@[simp] theorem State.setHart_inj (s : State) (h : Nat) (a : Hart) : (s.setHart h a).inj = s.inj := rfl
@[simp] theorem State.setHart_xlBase (s : State) (h : Nat) (a : Hart) : (s.setHart h a).xlBase = s.xlBase := rfl
@[simp] theorem State.setHart_xlLock (s : State) (h : Nat) (a : Hart) : (s.setHart h a).xlLock = s.xlLock := rfl
@[simp] theorem State.setHart_xlBusy (s : State) (h : Nat) (a : Hart) : (s.setHart h a).xlBusy = s.xlBusy := rfl
@[simp] theorem State.setHart_xlKind (s : State) (h : Nat) (a : Hart) : (s.setHart h a).xlKind = s.xlKind := rfl
@[simp] theorem State.setHart_xlAsid (s : State) (h : Nat) (a : Hart) : (s.setHart h a).xlAsid = s.xlAsid := rfl
@[simp] theorem State.setHart_xlVa (s : State) (h : Nat) (a : Hart) : (s.setHart h a).xlVa = s.xlVa := rfl
@[simp] theorem State.setHart_plimit (s : State) (h : Nat) (a : Hart) : (s.setHart h a).plimit = s.plimit := rfl
@[simp] theorem State.setHart_thr (s : State) (h : Nat) (a : Hart) : (s.setHart h a).thr = s.thr := rfl
@[simp] theorem State.setHart_temp (s : State) (h : Nat) (a : Hart) : (s.setHart h a).temp = s.temp := rfl
@[simp] theorem State.setHart_pnow (s : State) (h : Nat) (a : Hart) : (s.setHart h a).pnow = s.pnow := rfl
@[simp] theorem State.setHart_hdmaA (s : State) (h : Nat) (a : Hart) : (s.setHart h a).hdmaA = s.hdmaA := rfl
@[simp] theorem State.setHart_hdmaB (s : State) (h : Nat) (a : Hart) : (s.setHart h a).hdmaB = s.hdmaB := rfl
@[simp] theorem State.setHart_host (s : State) (h : Nat) (a : Hart) : (s.setHart h a).host = s.host := rfl
@[simp] theorem State.setHart_launchq (s : State) (h : Nat) (a : Hart) : (s.setHart h a).launchq = s.launchq := rfl
@[simp] theorem State.setHart_replyq (s : State) (h : Nat) (a : Hart) : (s.setHart h a).replyq = s.replyq := rfl
@[simp] theorem State.setHart_launchIn (s : State) (h : Nat) (a : Hart) : (s.setHart h a).launchIn = s.launchIn := rfl
@[simp] theorem State.setHart_romRing (s : State) (h : Nat) (a : Hart) : (s.setHart h a).romRing = s.romRing := rfl
@[simp] theorem State.setHart_wilnilLog (s : State) (h : Nat) (a : Hart) : (s.setHart h a).wilnilLog = s.wilnilLog := rfl
@[simp] theorem State.setHart_faultLog (s : State) (h : Nat) (a : Hart) : (s.setHart h a).faultLog = s.faultLog := rfl
@[simp] theorem State.setHart_bridgeRefused (s : State) (h : Nat) (a : Hart) : (s.setHart h a).bridgeRefused = s.bridgeRefused := rfl
@[simp] theorem State.setHart_corrected (s : State) (h : Nat) (a : Hart) : (s.setHart h a).corrected = s.corrected := rfl
@[simp] theorem State.setHart_uncorrected (s : State) (h : Nat) (a : Hart) : (s.setHart h a).uncorrected = s.uncorrected := rfl
@[simp] theorem State.setHart_hopLost (s : State) (h : Nat) (a : Hart) : (s.setHart h a).hopLost = s.hopLost := rfl
@[simp] theorem State.setHart_flashA (s : State) (h : Nat) (a : Hart) : (s.setHart h a).flashA = s.flashA := rfl
@[simp] theorem State.setHart_flashB (s : State) (h : Nat) (a : Hart) : (s.setHart h a).flashB = s.flashB := rfl
@[simp] theorem State.setHart_active (s : State) (h : Nat) (a : Hart) : (s.setHart h a).active = s.active := rfl
@[simp] theorem State.setHart_rollback (s : State) (h : Nat) (a : Hart) : (s.setHart h a).rollback = s.rollback := rfl
@[simp] theorem State.setHart_rails (s : State) (h : Nat) (a : Hart) : (s.setHart h a).rails = s.rails := rfl
@[simp] theorem State.setHart_timeLock (s : State) (h : Nat) (a : Hart) : (s.setHart h a).timeLock = s.timeLock := rfl
@[simp] theorem State.setHart_slew (s : State) (h : Nat) (a : Hart) : (s.setHart h a).slew = s.slew := rfl
@[simp] theorem State.setHart_slewAcc (s : State) (h : Nat) (a : Hart) : (s.setHart h a).slewAcc = s.slewAcc := rfl
@[simp] theorem State.setHart_node (s : State) (h : Nat) (a : Hart) : (s.setHart h a).node = s.node := rfl
@[simp] theorem State.setHart_nextAsid (s : State) (h : Nat) (a : Hart) : (s.setHart h a).nextAsid = s.nextAsid := rfl
@[simp] theorem State.setHart_taken (s : State) (h : Nat) (a : Hart) : (s.setHart h a).taken = s.taken := rfl
@[simp] theorem State.setHart_fwNew (s : State) (h : Nat) (a : Hart) : (s.setHart h a).fwNew = s.fwNew := rfl
@[simp] theorem State.setHart_answer (s : State) (h : Nat) (a : Hart) : (s.setHart h a).answer = s.answer := rfl
@[simp] theorem State.setHart_shutdowns (s : State) (h : Nat) (a : Hart) : (s.setHart h a).shutdowns = s.shutdowns := rfl
@[simp] theorem State.setHart_govMs (s : State) (h : Nat) (a : Hart) : (s.setHart h a).govMs = s.govMs := rfl
@[simp] theorem State.setHart_savedHarts (s : State) (h : Nat) (a : Hart) : (s.setHart h a).savedHarts = s.savedHarts := rfl
@[simp] theorem State.setHart_savedTiles (s : State) (h : Nat) (a : Hart) : (s.setHart h a).savedTiles = s.savedTiles := rfl
@[simp] theorem State.setHart_savedParts (s : State) (h : Nat) (a : Hart) : (s.setHart h a).savedParts = s.savedParts := rfl
@[simp] theorem State.setHart_hart (s : State) (h : Nat) (a : Hart) (j : Nat) :
    (s.setHart h a).hart j = if j = h then a else s.hart j := mget_mput _ _ _ _ _
@[simp] theorem State.setHart_tile (s : State) (h : Nat) (a : Hart) (j : Nat) : (s.setHart h a).tile j = s.tile j := rfl
@[simp] theorem State.setHart_part (s : State) (h : Nat) (a : Hart) (j : Nat) : (s.setHart h a).part j = s.part j := rfl
@[simp] theorem State.setHart_station (s : State) (h : Nat) (a : Hart) (j : Nat) : (s.setHart h a).station j = s.station j := rfl
@[simp] theorem State.setHart_link (s : State) (h : Nat) (a : Hart) (j : Nat) : (s.setHart h a).link j = s.link j := rfl
@[simp] theorem State.setHart_byte (s : State) (h : Nat) (a : Hart) (j : Nat) : (s.setHart h a).byte j = s.byte j := rfl

@[simp] theorem State.setTile_cur (s : State) (n : Nat) (a : Tile) : (s.setTile n a).cur = s.cur := rfl
@[simp] theorem State.setTile_sched (s : State) (n : Nat) (a : Tile) : (s.setTile n a).sched = s.sched := rfl
@[simp] theorem State.setTile_tick (s : State) (n : Nat) (a : Tile) : (s.setTile n a).tick = s.tick := rfl
@[simp] theorem State.setTile_harts (s : State) (n : Nat) (a : Tile) : (s.setTile n a).harts = s.harts := rfl
@[simp] theorem State.setTile_parts (s : State) (n : Nat) (a : Tile) : (s.setTile n a).parts = s.parts := rfl
@[simp] theorem State.setTile_stations (s : State) (n : Nat) (a : Tile) : (s.setTile n a).stations = s.stations := rfl
@[simp] theorem State.setTile_links (s : State) (n : Nat) (a : Tile) : (s.setTile n a).links = s.links := rfl
@[simp] theorem State.setTile_mem (s : State) (n : Nat) (a : Tile) : (s.setTile n a).mem = s.mem := rfl
@[simp] theorem State.setTile_poison (s : State) (n : Nat) (a : Tile) : (s.setTile n a).poison = s.poison := rfl
@[simp] theorem State.setTile_stlog (s : State) (n : Nat) (a : Tile) : (s.setTile n a).stlog = s.stlog := rfl
@[simp] theorem State.setTile_arrived (s : State) (n : Nat) (a : Tile) : (s.setTile n a).arrived = s.arrived := rfl
@[simp] theorem State.setTile_nextPkt (s : State) (n : Nat) (a : Tile) : (s.setTile n a).nextPkt = s.nextPkt := rfl
@[simp] theorem State.setTile_nextReq (s : State) (n : Nat) (a : Tile) : (s.setTile n a).nextReq = s.nextReq := rfl
@[simp] theorem State.setTile_nextStamp (s : State) (n : Nat) (a : Tile) : (s.setTile n a).nextStamp = s.nextStamp := rfl
@[simp] theorem State.setTile_time (s : State) (n : Nat) (a : Tile) : (s.setTile n a).time = s.time := rfl
@[simp] theorem State.setTile_main (s : State) (n : Nat) (a : Tile) : (s.setTile n a).main = s.main := rfl
@[simp] theorem State.setTile_bootstat (s : State) (n : Nat) (a : Tile) : (s.setTile n a).bootstat = s.bootstat := rfl
@[simp] theorem State.setTile_mhz (s : State) (n : Nat) (a : Tile) : (s.setTile n a).mhz = s.mhz := rfl
@[simp] theorem State.setTile_keyLimit (s : State) (n : Nat) (a : Tile) : (s.setTile n a).keyLimit = s.keyLimit := rfl
@[simp] theorem State.setTile_keyTest (s : State) (n : Nat) (a : Tile) : (s.setTile n a).keyTest = s.keyTest := rfl
@[simp] theorem State.setTile_keyLock (s : State) (n : Nat) (a : Tile) : (s.setTile n a).keyLock = s.keyLock := rfl
@[simp] theorem State.setTile_inj (s : State) (n : Nat) (a : Tile) : (s.setTile n a).inj = s.inj := rfl
@[simp] theorem State.setTile_xlBase (s : State) (n : Nat) (a : Tile) : (s.setTile n a).xlBase = s.xlBase := rfl
@[simp] theorem State.setTile_xlLock (s : State) (n : Nat) (a : Tile) : (s.setTile n a).xlLock = s.xlLock := rfl
@[simp] theorem State.setTile_xlBusy (s : State) (n : Nat) (a : Tile) : (s.setTile n a).xlBusy = s.xlBusy := rfl
@[simp] theorem State.setTile_xlKind (s : State) (n : Nat) (a : Tile) : (s.setTile n a).xlKind = s.xlKind := rfl
@[simp] theorem State.setTile_xlAsid (s : State) (n : Nat) (a : Tile) : (s.setTile n a).xlAsid = s.xlAsid := rfl
@[simp] theorem State.setTile_xlVa (s : State) (n : Nat) (a : Tile) : (s.setTile n a).xlVa = s.xlVa := rfl
@[simp] theorem State.setTile_plimit (s : State) (n : Nat) (a : Tile) : (s.setTile n a).plimit = s.plimit := rfl
@[simp] theorem State.setTile_thr (s : State) (n : Nat) (a : Tile) : (s.setTile n a).thr = s.thr := rfl
@[simp] theorem State.setTile_temp (s : State) (n : Nat) (a : Tile) : (s.setTile n a).temp = s.temp := rfl
@[simp] theorem State.setTile_pnow (s : State) (n : Nat) (a : Tile) : (s.setTile n a).pnow = s.pnow := rfl
@[simp] theorem State.setTile_hdmaA (s : State) (n : Nat) (a : Tile) : (s.setTile n a).hdmaA = s.hdmaA := rfl
@[simp] theorem State.setTile_hdmaB (s : State) (n : Nat) (a : Tile) : (s.setTile n a).hdmaB = s.hdmaB := rfl
@[simp] theorem State.setTile_host (s : State) (n : Nat) (a : Tile) : (s.setTile n a).host = s.host := rfl
@[simp] theorem State.setTile_launchq (s : State) (n : Nat) (a : Tile) : (s.setTile n a).launchq = s.launchq := rfl
@[simp] theorem State.setTile_replyq (s : State) (n : Nat) (a : Tile) : (s.setTile n a).replyq = s.replyq := rfl
@[simp] theorem State.setTile_launchIn (s : State) (n : Nat) (a : Tile) : (s.setTile n a).launchIn = s.launchIn := rfl
@[simp] theorem State.setTile_romRing (s : State) (n : Nat) (a : Tile) : (s.setTile n a).romRing = s.romRing := rfl
@[simp] theorem State.setTile_wilnilLog (s : State) (n : Nat) (a : Tile) : (s.setTile n a).wilnilLog = s.wilnilLog := rfl
@[simp] theorem State.setTile_faultLog (s : State) (n : Nat) (a : Tile) : (s.setTile n a).faultLog = s.faultLog := rfl
@[simp] theorem State.setTile_bridgeRefused (s : State) (n : Nat) (a : Tile) : (s.setTile n a).bridgeRefused = s.bridgeRefused := rfl
@[simp] theorem State.setTile_corrected (s : State) (n : Nat) (a : Tile) : (s.setTile n a).corrected = s.corrected := rfl
@[simp] theorem State.setTile_uncorrected (s : State) (n : Nat) (a : Tile) : (s.setTile n a).uncorrected = s.uncorrected := rfl
@[simp] theorem State.setTile_hopLost (s : State) (n : Nat) (a : Tile) : (s.setTile n a).hopLost = s.hopLost := rfl
@[simp] theorem State.setTile_flashA (s : State) (n : Nat) (a : Tile) : (s.setTile n a).flashA = s.flashA := rfl
@[simp] theorem State.setTile_flashB (s : State) (n : Nat) (a : Tile) : (s.setTile n a).flashB = s.flashB := rfl
@[simp] theorem State.setTile_active (s : State) (n : Nat) (a : Tile) : (s.setTile n a).active = s.active := rfl
@[simp] theorem State.setTile_rollback (s : State) (n : Nat) (a : Tile) : (s.setTile n a).rollback = s.rollback := rfl
@[simp] theorem State.setTile_rails (s : State) (n : Nat) (a : Tile) : (s.setTile n a).rails = s.rails := rfl
@[simp] theorem State.setTile_timeLock (s : State) (n : Nat) (a : Tile) : (s.setTile n a).timeLock = s.timeLock := rfl
@[simp] theorem State.setTile_slew (s : State) (n : Nat) (a : Tile) : (s.setTile n a).slew = s.slew := rfl
@[simp] theorem State.setTile_slewAcc (s : State) (n : Nat) (a : Tile) : (s.setTile n a).slewAcc = s.slewAcc := rfl
@[simp] theorem State.setTile_node (s : State) (n : Nat) (a : Tile) : (s.setTile n a).node = s.node := rfl
@[simp] theorem State.setTile_nextAsid (s : State) (n : Nat) (a : Tile) : (s.setTile n a).nextAsid = s.nextAsid := rfl
@[simp] theorem State.setTile_taken (s : State) (n : Nat) (a : Tile) : (s.setTile n a).taken = s.taken := rfl
@[simp] theorem State.setTile_fwNew (s : State) (n : Nat) (a : Tile) : (s.setTile n a).fwNew = s.fwNew := rfl
@[simp] theorem State.setTile_answer (s : State) (n : Nat) (a : Tile) : (s.setTile n a).answer = s.answer := rfl
@[simp] theorem State.setTile_shutdowns (s : State) (n : Nat) (a : Tile) : (s.setTile n a).shutdowns = s.shutdowns := rfl
@[simp] theorem State.setTile_govMs (s : State) (n : Nat) (a : Tile) : (s.setTile n a).govMs = s.govMs := rfl
@[simp] theorem State.setTile_savedHarts (s : State) (n : Nat) (a : Tile) : (s.setTile n a).savedHarts = s.savedHarts := rfl
@[simp] theorem State.setTile_savedTiles (s : State) (n : Nat) (a : Tile) : (s.setTile n a).savedTiles = s.savedTiles := rfl
@[simp] theorem State.setTile_savedParts (s : State) (n : Nat) (a : Tile) : (s.setTile n a).savedParts = s.savedParts := rfl
@[simp] theorem State.setTile_hart (s : State) (n : Nat) (a : Tile) (j : Nat) : (s.setTile n a).hart j = s.hart j := rfl
@[simp] theorem State.setTile_tile (s : State) (n : Nat) (a : Tile) (j : Nat) :
    (s.setTile n a).tile j = if j = n then a else s.tile j := mget_mput _ _ _ _ _
@[simp] theorem State.setTile_part (s : State) (n : Nat) (a : Tile) (j : Nat) : (s.setTile n a).part j = s.part j := rfl
@[simp] theorem State.setTile_station (s : State) (n : Nat) (a : Tile) (j : Nat) : (s.setTile n a).station j = s.station j := rfl
@[simp] theorem State.setTile_link (s : State) (n : Nat) (a : Tile) (j : Nat) : (s.setTile n a).link j = s.link j := rfl
@[simp] theorem State.setTile_byte (s : State) (n : Nat) (a : Tile) (j : Nat) : (s.setTile n a).byte j = s.byte j := rfl

@[simp] theorem State.setPart_cur (s : State) (n : Nat) (a : Partition) : (s.setPart n a).cur = s.cur := rfl
@[simp] theorem State.setPart_sched (s : State) (n : Nat) (a : Partition) : (s.setPart n a).sched = s.sched := rfl
@[simp] theorem State.setPart_tick (s : State) (n : Nat) (a : Partition) : (s.setPart n a).tick = s.tick := rfl
@[simp] theorem State.setPart_harts (s : State) (n : Nat) (a : Partition) : (s.setPart n a).harts = s.harts := rfl
@[simp] theorem State.setPart_tiles (s : State) (n : Nat) (a : Partition) : (s.setPart n a).tiles = s.tiles := rfl
@[simp] theorem State.setPart_stations (s : State) (n : Nat) (a : Partition) : (s.setPart n a).stations = s.stations := rfl
@[simp] theorem State.setPart_links (s : State) (n : Nat) (a : Partition) : (s.setPart n a).links = s.links := rfl
@[simp] theorem State.setPart_mem (s : State) (n : Nat) (a : Partition) : (s.setPart n a).mem = s.mem := rfl
@[simp] theorem State.setPart_poison (s : State) (n : Nat) (a : Partition) : (s.setPart n a).poison = s.poison := rfl
@[simp] theorem State.setPart_stlog (s : State) (n : Nat) (a : Partition) : (s.setPart n a).stlog = s.stlog := rfl
@[simp] theorem State.setPart_arrived (s : State) (n : Nat) (a : Partition) : (s.setPart n a).arrived = s.arrived := rfl
@[simp] theorem State.setPart_nextPkt (s : State) (n : Nat) (a : Partition) : (s.setPart n a).nextPkt = s.nextPkt := rfl
@[simp] theorem State.setPart_nextReq (s : State) (n : Nat) (a : Partition) : (s.setPart n a).nextReq = s.nextReq := rfl
@[simp] theorem State.setPart_nextStamp (s : State) (n : Nat) (a : Partition) : (s.setPart n a).nextStamp = s.nextStamp := rfl
@[simp] theorem State.setPart_time (s : State) (n : Nat) (a : Partition) : (s.setPart n a).time = s.time := rfl
@[simp] theorem State.setPart_main (s : State) (n : Nat) (a : Partition) : (s.setPart n a).main = s.main := rfl
@[simp] theorem State.setPart_bootstat (s : State) (n : Nat) (a : Partition) : (s.setPart n a).bootstat = s.bootstat := rfl
@[simp] theorem State.setPart_mhz (s : State) (n : Nat) (a : Partition) : (s.setPart n a).mhz = s.mhz := rfl
@[simp] theorem State.setPart_keyLimit (s : State) (n : Nat) (a : Partition) : (s.setPart n a).keyLimit = s.keyLimit := rfl
@[simp] theorem State.setPart_keyTest (s : State) (n : Nat) (a : Partition) : (s.setPart n a).keyTest = s.keyTest := rfl
@[simp] theorem State.setPart_keyLock (s : State) (n : Nat) (a : Partition) : (s.setPart n a).keyLock = s.keyLock := rfl
@[simp] theorem State.setPart_inj (s : State) (n : Nat) (a : Partition) : (s.setPart n a).inj = s.inj := rfl
@[simp] theorem State.setPart_xlBase (s : State) (n : Nat) (a : Partition) : (s.setPart n a).xlBase = s.xlBase := rfl
@[simp] theorem State.setPart_xlLock (s : State) (n : Nat) (a : Partition) : (s.setPart n a).xlLock = s.xlLock := rfl
@[simp] theorem State.setPart_xlBusy (s : State) (n : Nat) (a : Partition) : (s.setPart n a).xlBusy = s.xlBusy := rfl
@[simp] theorem State.setPart_xlKind (s : State) (n : Nat) (a : Partition) : (s.setPart n a).xlKind = s.xlKind := rfl
@[simp] theorem State.setPart_xlAsid (s : State) (n : Nat) (a : Partition) : (s.setPart n a).xlAsid = s.xlAsid := rfl
@[simp] theorem State.setPart_xlVa (s : State) (n : Nat) (a : Partition) : (s.setPart n a).xlVa = s.xlVa := rfl
@[simp] theorem State.setPart_plimit (s : State) (n : Nat) (a : Partition) : (s.setPart n a).plimit = s.plimit := rfl
@[simp] theorem State.setPart_thr (s : State) (n : Nat) (a : Partition) : (s.setPart n a).thr = s.thr := rfl
@[simp] theorem State.setPart_temp (s : State) (n : Nat) (a : Partition) : (s.setPart n a).temp = s.temp := rfl
@[simp] theorem State.setPart_pnow (s : State) (n : Nat) (a : Partition) : (s.setPart n a).pnow = s.pnow := rfl
@[simp] theorem State.setPart_hdmaA (s : State) (n : Nat) (a : Partition) : (s.setPart n a).hdmaA = s.hdmaA := rfl
@[simp] theorem State.setPart_hdmaB (s : State) (n : Nat) (a : Partition) : (s.setPart n a).hdmaB = s.hdmaB := rfl
@[simp] theorem State.setPart_host (s : State) (n : Nat) (a : Partition) : (s.setPart n a).host = s.host := rfl
@[simp] theorem State.setPart_launchq (s : State) (n : Nat) (a : Partition) : (s.setPart n a).launchq = s.launchq := rfl
@[simp] theorem State.setPart_replyq (s : State) (n : Nat) (a : Partition) : (s.setPart n a).replyq = s.replyq := rfl
@[simp] theorem State.setPart_launchIn (s : State) (n : Nat) (a : Partition) : (s.setPart n a).launchIn = s.launchIn := rfl
@[simp] theorem State.setPart_romRing (s : State) (n : Nat) (a : Partition) : (s.setPart n a).romRing = s.romRing := rfl
@[simp] theorem State.setPart_wilnilLog (s : State) (n : Nat) (a : Partition) : (s.setPart n a).wilnilLog = s.wilnilLog := rfl
@[simp] theorem State.setPart_faultLog (s : State) (n : Nat) (a : Partition) : (s.setPart n a).faultLog = s.faultLog := rfl
@[simp] theorem State.setPart_bridgeRefused (s : State) (n : Nat) (a : Partition) : (s.setPart n a).bridgeRefused = s.bridgeRefused := rfl
@[simp] theorem State.setPart_corrected (s : State) (n : Nat) (a : Partition) : (s.setPart n a).corrected = s.corrected := rfl
@[simp] theorem State.setPart_uncorrected (s : State) (n : Nat) (a : Partition) : (s.setPart n a).uncorrected = s.uncorrected := rfl
@[simp] theorem State.setPart_hopLost (s : State) (n : Nat) (a : Partition) : (s.setPart n a).hopLost = s.hopLost := rfl
@[simp] theorem State.setPart_flashA (s : State) (n : Nat) (a : Partition) : (s.setPart n a).flashA = s.flashA := rfl
@[simp] theorem State.setPart_flashB (s : State) (n : Nat) (a : Partition) : (s.setPart n a).flashB = s.flashB := rfl
@[simp] theorem State.setPart_active (s : State) (n : Nat) (a : Partition) : (s.setPart n a).active = s.active := rfl
@[simp] theorem State.setPart_rollback (s : State) (n : Nat) (a : Partition) : (s.setPart n a).rollback = s.rollback := rfl
@[simp] theorem State.setPart_rails (s : State) (n : Nat) (a : Partition) : (s.setPart n a).rails = s.rails := rfl
@[simp] theorem State.setPart_timeLock (s : State) (n : Nat) (a : Partition) : (s.setPart n a).timeLock = s.timeLock := rfl
@[simp] theorem State.setPart_slew (s : State) (n : Nat) (a : Partition) : (s.setPart n a).slew = s.slew := rfl
@[simp] theorem State.setPart_slewAcc (s : State) (n : Nat) (a : Partition) : (s.setPart n a).slewAcc = s.slewAcc := rfl
@[simp] theorem State.setPart_node (s : State) (n : Nat) (a : Partition) : (s.setPart n a).node = s.node := rfl
@[simp] theorem State.setPart_nextAsid (s : State) (n : Nat) (a : Partition) : (s.setPart n a).nextAsid = s.nextAsid := rfl
@[simp] theorem State.setPart_taken (s : State) (n : Nat) (a : Partition) : (s.setPart n a).taken = s.taken := rfl
@[simp] theorem State.setPart_fwNew (s : State) (n : Nat) (a : Partition) : (s.setPart n a).fwNew = s.fwNew := rfl
@[simp] theorem State.setPart_answer (s : State) (n : Nat) (a : Partition) : (s.setPart n a).answer = s.answer := rfl
@[simp] theorem State.setPart_shutdowns (s : State) (n : Nat) (a : Partition) : (s.setPart n a).shutdowns = s.shutdowns := rfl
@[simp] theorem State.setPart_govMs (s : State) (n : Nat) (a : Partition) : (s.setPart n a).govMs = s.govMs := rfl
@[simp] theorem State.setPart_savedHarts (s : State) (n : Nat) (a : Partition) : (s.setPart n a).savedHarts = s.savedHarts := rfl
@[simp] theorem State.setPart_savedTiles (s : State) (n : Nat) (a : Partition) : (s.setPart n a).savedTiles = s.savedTiles := rfl
@[simp] theorem State.setPart_savedParts (s : State) (n : Nat) (a : Partition) : (s.setPart n a).savedParts = s.savedParts := rfl
@[simp] theorem State.setPart_hart (s : State) (n : Nat) (a : Partition) (j : Nat) : (s.setPart n a).hart j = s.hart j := rfl
@[simp] theorem State.setPart_tile (s : State) (n : Nat) (a : Partition) (j : Nat) : (s.setPart n a).tile j = s.tile j := rfl
@[simp] theorem State.setPart_part (s : State) (n : Nat) (a : Partition) (j : Nat) :
    (s.setPart n a).part j = if j = n then a else s.part j := mget_mput _ _ _ _ _
@[simp] theorem State.setPart_station (s : State) (n : Nat) (a : Partition) (j : Nat) : (s.setPart n a).station j = s.station j := rfl
@[simp] theorem State.setPart_link (s : State) (n : Nat) (a : Partition) (j : Nat) : (s.setPart n a).link j = s.link j := rfl
@[simp] theorem State.setPart_byte (s : State) (n : Nat) (a : Partition) (j : Nat) : (s.setPart n a).byte j = s.byte j := rfl

@[simp] theorem State.setStation_cur (s : State) (n : Nat) (a : Station) : (s.setStation n a).cur = s.cur := rfl
@[simp] theorem State.setStation_sched (s : State) (n : Nat) (a : Station) : (s.setStation n a).sched = s.sched := rfl
@[simp] theorem State.setStation_tick (s : State) (n : Nat) (a : Station) : (s.setStation n a).tick = s.tick := rfl
@[simp] theorem State.setStation_harts (s : State) (n : Nat) (a : Station) : (s.setStation n a).harts = s.harts := rfl
@[simp] theorem State.setStation_tiles (s : State) (n : Nat) (a : Station) : (s.setStation n a).tiles = s.tiles := rfl
@[simp] theorem State.setStation_parts (s : State) (n : Nat) (a : Station) : (s.setStation n a).parts = s.parts := rfl
@[simp] theorem State.setStation_links (s : State) (n : Nat) (a : Station) : (s.setStation n a).links = s.links := rfl
@[simp] theorem State.setStation_mem (s : State) (n : Nat) (a : Station) : (s.setStation n a).mem = s.mem := rfl
@[simp] theorem State.setStation_poison (s : State) (n : Nat) (a : Station) : (s.setStation n a).poison = s.poison := rfl
@[simp] theorem State.setStation_stlog (s : State) (n : Nat) (a : Station) : (s.setStation n a).stlog = s.stlog := rfl
@[simp] theorem State.setStation_arrived (s : State) (n : Nat) (a : Station) : (s.setStation n a).arrived = s.arrived := rfl
@[simp] theorem State.setStation_nextPkt (s : State) (n : Nat) (a : Station) : (s.setStation n a).nextPkt = s.nextPkt := rfl
@[simp] theorem State.setStation_nextReq (s : State) (n : Nat) (a : Station) : (s.setStation n a).nextReq = s.nextReq := rfl
@[simp] theorem State.setStation_nextStamp (s : State) (n : Nat) (a : Station) : (s.setStation n a).nextStamp = s.nextStamp := rfl
@[simp] theorem State.setStation_time (s : State) (n : Nat) (a : Station) : (s.setStation n a).time = s.time := rfl
@[simp] theorem State.setStation_main (s : State) (n : Nat) (a : Station) : (s.setStation n a).main = s.main := rfl
@[simp] theorem State.setStation_bootstat (s : State) (n : Nat) (a : Station) : (s.setStation n a).bootstat = s.bootstat := rfl
@[simp] theorem State.setStation_mhz (s : State) (n : Nat) (a : Station) : (s.setStation n a).mhz = s.mhz := rfl
@[simp] theorem State.setStation_keyLimit (s : State) (n : Nat) (a : Station) : (s.setStation n a).keyLimit = s.keyLimit := rfl
@[simp] theorem State.setStation_keyTest (s : State) (n : Nat) (a : Station) : (s.setStation n a).keyTest = s.keyTest := rfl
@[simp] theorem State.setStation_keyLock (s : State) (n : Nat) (a : Station) : (s.setStation n a).keyLock = s.keyLock := rfl
@[simp] theorem State.setStation_inj (s : State) (n : Nat) (a : Station) : (s.setStation n a).inj = s.inj := rfl
@[simp] theorem State.setStation_xlBase (s : State) (n : Nat) (a : Station) : (s.setStation n a).xlBase = s.xlBase := rfl
@[simp] theorem State.setStation_xlLock (s : State) (n : Nat) (a : Station) : (s.setStation n a).xlLock = s.xlLock := rfl
@[simp] theorem State.setStation_xlBusy (s : State) (n : Nat) (a : Station) : (s.setStation n a).xlBusy = s.xlBusy := rfl
@[simp] theorem State.setStation_xlKind (s : State) (n : Nat) (a : Station) : (s.setStation n a).xlKind = s.xlKind := rfl
@[simp] theorem State.setStation_xlAsid (s : State) (n : Nat) (a : Station) : (s.setStation n a).xlAsid = s.xlAsid := rfl
@[simp] theorem State.setStation_xlVa (s : State) (n : Nat) (a : Station) : (s.setStation n a).xlVa = s.xlVa := rfl
@[simp] theorem State.setStation_plimit (s : State) (n : Nat) (a : Station) : (s.setStation n a).plimit = s.plimit := rfl
@[simp] theorem State.setStation_thr (s : State) (n : Nat) (a : Station) : (s.setStation n a).thr = s.thr := rfl
@[simp] theorem State.setStation_temp (s : State) (n : Nat) (a : Station) : (s.setStation n a).temp = s.temp := rfl
@[simp] theorem State.setStation_pnow (s : State) (n : Nat) (a : Station) : (s.setStation n a).pnow = s.pnow := rfl
@[simp] theorem State.setStation_hdmaA (s : State) (n : Nat) (a : Station) : (s.setStation n a).hdmaA = s.hdmaA := rfl
@[simp] theorem State.setStation_hdmaB (s : State) (n : Nat) (a : Station) : (s.setStation n a).hdmaB = s.hdmaB := rfl
@[simp] theorem State.setStation_host (s : State) (n : Nat) (a : Station) : (s.setStation n a).host = s.host := rfl
@[simp] theorem State.setStation_launchq (s : State) (n : Nat) (a : Station) : (s.setStation n a).launchq = s.launchq := rfl
@[simp] theorem State.setStation_replyq (s : State) (n : Nat) (a : Station) : (s.setStation n a).replyq = s.replyq := rfl
@[simp] theorem State.setStation_launchIn (s : State) (n : Nat) (a : Station) : (s.setStation n a).launchIn = s.launchIn := rfl
@[simp] theorem State.setStation_romRing (s : State) (n : Nat) (a : Station) : (s.setStation n a).romRing = s.romRing := rfl
@[simp] theorem State.setStation_wilnilLog (s : State) (n : Nat) (a : Station) : (s.setStation n a).wilnilLog = s.wilnilLog := rfl
@[simp] theorem State.setStation_faultLog (s : State) (n : Nat) (a : Station) : (s.setStation n a).faultLog = s.faultLog := rfl
@[simp] theorem State.setStation_bridgeRefused (s : State) (n : Nat) (a : Station) : (s.setStation n a).bridgeRefused = s.bridgeRefused := rfl
@[simp] theorem State.setStation_corrected (s : State) (n : Nat) (a : Station) : (s.setStation n a).corrected = s.corrected := rfl
@[simp] theorem State.setStation_uncorrected (s : State) (n : Nat) (a : Station) : (s.setStation n a).uncorrected = s.uncorrected := rfl
@[simp] theorem State.setStation_hopLost (s : State) (n : Nat) (a : Station) : (s.setStation n a).hopLost = s.hopLost := rfl
@[simp] theorem State.setStation_flashA (s : State) (n : Nat) (a : Station) : (s.setStation n a).flashA = s.flashA := rfl
@[simp] theorem State.setStation_flashB (s : State) (n : Nat) (a : Station) : (s.setStation n a).flashB = s.flashB := rfl
@[simp] theorem State.setStation_active (s : State) (n : Nat) (a : Station) : (s.setStation n a).active = s.active := rfl
@[simp] theorem State.setStation_rollback (s : State) (n : Nat) (a : Station) : (s.setStation n a).rollback = s.rollback := rfl
@[simp] theorem State.setStation_rails (s : State) (n : Nat) (a : Station) : (s.setStation n a).rails = s.rails := rfl
@[simp] theorem State.setStation_timeLock (s : State) (n : Nat) (a : Station) : (s.setStation n a).timeLock = s.timeLock := rfl
@[simp] theorem State.setStation_slew (s : State) (n : Nat) (a : Station) : (s.setStation n a).slew = s.slew := rfl
@[simp] theorem State.setStation_slewAcc (s : State) (n : Nat) (a : Station) : (s.setStation n a).slewAcc = s.slewAcc := rfl
@[simp] theorem State.setStation_node (s : State) (n : Nat) (a : Station) : (s.setStation n a).node = s.node := rfl
@[simp] theorem State.setStation_nextAsid (s : State) (n : Nat) (a : Station) : (s.setStation n a).nextAsid = s.nextAsid := rfl
@[simp] theorem State.setStation_taken (s : State) (n : Nat) (a : Station) : (s.setStation n a).taken = s.taken := rfl
@[simp] theorem State.setStation_fwNew (s : State) (n : Nat) (a : Station) : (s.setStation n a).fwNew = s.fwNew := rfl
@[simp] theorem State.setStation_answer (s : State) (n : Nat) (a : Station) : (s.setStation n a).answer = s.answer := rfl
@[simp] theorem State.setStation_shutdowns (s : State) (n : Nat) (a : Station) : (s.setStation n a).shutdowns = s.shutdowns := rfl
@[simp] theorem State.setStation_govMs (s : State) (n : Nat) (a : Station) : (s.setStation n a).govMs = s.govMs := rfl
@[simp] theorem State.setStation_savedHarts (s : State) (n : Nat) (a : Station) : (s.setStation n a).savedHarts = s.savedHarts := rfl
@[simp] theorem State.setStation_savedTiles (s : State) (n : Nat) (a : Station) : (s.setStation n a).savedTiles = s.savedTiles := rfl
@[simp] theorem State.setStation_savedParts (s : State) (n : Nat) (a : Station) : (s.setStation n a).savedParts = s.savedParts := rfl
@[simp] theorem State.setStation_hart (s : State) (n : Nat) (a : Station) (j : Nat) : (s.setStation n a).hart j = s.hart j := rfl
@[simp] theorem State.setStation_tile (s : State) (n : Nat) (a : Station) (j : Nat) : (s.setStation n a).tile j = s.tile j := rfl
@[simp] theorem State.setStation_part (s : State) (n : Nat) (a : Station) (j : Nat) : (s.setStation n a).part j = s.part j := rfl
@[simp] theorem State.setStation_station (s : State) (n : Nat) (a : Station) (j : Nat) :
    (s.setStation n a).station j = if j = n then a else s.station j := mget_mput _ _ _ _ _
@[simp] theorem State.setStation_link (s : State) (n : Nat) (a : Station) (j : Nat) : (s.setStation n a).link j = s.link j := rfl
@[simp] theorem State.setStation_byte (s : State) (n : Nat) (a : Station) (j : Nat) : (s.setStation n a).byte j = s.byte j := rfl

@[simp] theorem State.setLink_cur (s : State) (n : Nat) (a : Link) : (s.setLink n a).cur = s.cur := rfl
@[simp] theorem State.setLink_sched (s : State) (n : Nat) (a : Link) : (s.setLink n a).sched = s.sched := rfl
@[simp] theorem State.setLink_tick (s : State) (n : Nat) (a : Link) : (s.setLink n a).tick = s.tick := rfl
@[simp] theorem State.setLink_harts (s : State) (n : Nat) (a : Link) : (s.setLink n a).harts = s.harts := rfl
@[simp] theorem State.setLink_tiles (s : State) (n : Nat) (a : Link) : (s.setLink n a).tiles = s.tiles := rfl
@[simp] theorem State.setLink_parts (s : State) (n : Nat) (a : Link) : (s.setLink n a).parts = s.parts := rfl
@[simp] theorem State.setLink_stations (s : State) (n : Nat) (a : Link) : (s.setLink n a).stations = s.stations := rfl
@[simp] theorem State.setLink_mem (s : State) (n : Nat) (a : Link) : (s.setLink n a).mem = s.mem := rfl
@[simp] theorem State.setLink_poison (s : State) (n : Nat) (a : Link) : (s.setLink n a).poison = s.poison := rfl
@[simp] theorem State.setLink_stlog (s : State) (n : Nat) (a : Link) : (s.setLink n a).stlog = s.stlog := rfl
@[simp] theorem State.setLink_arrived (s : State) (n : Nat) (a : Link) : (s.setLink n a).arrived = s.arrived := rfl
@[simp] theorem State.setLink_nextPkt (s : State) (n : Nat) (a : Link) : (s.setLink n a).nextPkt = s.nextPkt := rfl
@[simp] theorem State.setLink_nextReq (s : State) (n : Nat) (a : Link) : (s.setLink n a).nextReq = s.nextReq := rfl
@[simp] theorem State.setLink_nextStamp (s : State) (n : Nat) (a : Link) : (s.setLink n a).nextStamp = s.nextStamp := rfl
@[simp] theorem State.setLink_time (s : State) (n : Nat) (a : Link) : (s.setLink n a).time = s.time := rfl
@[simp] theorem State.setLink_main (s : State) (n : Nat) (a : Link) : (s.setLink n a).main = s.main := rfl
@[simp] theorem State.setLink_bootstat (s : State) (n : Nat) (a : Link) : (s.setLink n a).bootstat = s.bootstat := rfl
@[simp] theorem State.setLink_mhz (s : State) (n : Nat) (a : Link) : (s.setLink n a).mhz = s.mhz := rfl
@[simp] theorem State.setLink_keyLimit (s : State) (n : Nat) (a : Link) : (s.setLink n a).keyLimit = s.keyLimit := rfl
@[simp] theorem State.setLink_keyTest (s : State) (n : Nat) (a : Link) : (s.setLink n a).keyTest = s.keyTest := rfl
@[simp] theorem State.setLink_keyLock (s : State) (n : Nat) (a : Link) : (s.setLink n a).keyLock = s.keyLock := rfl
@[simp] theorem State.setLink_inj (s : State) (n : Nat) (a : Link) : (s.setLink n a).inj = s.inj := rfl
@[simp] theorem State.setLink_xlBase (s : State) (n : Nat) (a : Link) : (s.setLink n a).xlBase = s.xlBase := rfl
@[simp] theorem State.setLink_xlLock (s : State) (n : Nat) (a : Link) : (s.setLink n a).xlLock = s.xlLock := rfl
@[simp] theorem State.setLink_xlBusy (s : State) (n : Nat) (a : Link) : (s.setLink n a).xlBusy = s.xlBusy := rfl
@[simp] theorem State.setLink_xlKind (s : State) (n : Nat) (a : Link) : (s.setLink n a).xlKind = s.xlKind := rfl
@[simp] theorem State.setLink_xlAsid (s : State) (n : Nat) (a : Link) : (s.setLink n a).xlAsid = s.xlAsid := rfl
@[simp] theorem State.setLink_xlVa (s : State) (n : Nat) (a : Link) : (s.setLink n a).xlVa = s.xlVa := rfl
@[simp] theorem State.setLink_plimit (s : State) (n : Nat) (a : Link) : (s.setLink n a).plimit = s.plimit := rfl
@[simp] theorem State.setLink_thr (s : State) (n : Nat) (a : Link) : (s.setLink n a).thr = s.thr := rfl
@[simp] theorem State.setLink_temp (s : State) (n : Nat) (a : Link) : (s.setLink n a).temp = s.temp := rfl
@[simp] theorem State.setLink_pnow (s : State) (n : Nat) (a : Link) : (s.setLink n a).pnow = s.pnow := rfl
@[simp] theorem State.setLink_hdmaA (s : State) (n : Nat) (a : Link) : (s.setLink n a).hdmaA = s.hdmaA := rfl
@[simp] theorem State.setLink_hdmaB (s : State) (n : Nat) (a : Link) : (s.setLink n a).hdmaB = s.hdmaB := rfl
@[simp] theorem State.setLink_host (s : State) (n : Nat) (a : Link) : (s.setLink n a).host = s.host := rfl
@[simp] theorem State.setLink_launchq (s : State) (n : Nat) (a : Link) : (s.setLink n a).launchq = s.launchq := rfl
@[simp] theorem State.setLink_replyq (s : State) (n : Nat) (a : Link) : (s.setLink n a).replyq = s.replyq := rfl
@[simp] theorem State.setLink_launchIn (s : State) (n : Nat) (a : Link) : (s.setLink n a).launchIn = s.launchIn := rfl
@[simp] theorem State.setLink_romRing (s : State) (n : Nat) (a : Link) : (s.setLink n a).romRing = s.romRing := rfl
@[simp] theorem State.setLink_wilnilLog (s : State) (n : Nat) (a : Link) : (s.setLink n a).wilnilLog = s.wilnilLog := rfl
@[simp] theorem State.setLink_faultLog (s : State) (n : Nat) (a : Link) : (s.setLink n a).faultLog = s.faultLog := rfl
@[simp] theorem State.setLink_bridgeRefused (s : State) (n : Nat) (a : Link) : (s.setLink n a).bridgeRefused = s.bridgeRefused := rfl
@[simp] theorem State.setLink_corrected (s : State) (n : Nat) (a : Link) : (s.setLink n a).corrected = s.corrected := rfl
@[simp] theorem State.setLink_uncorrected (s : State) (n : Nat) (a : Link) : (s.setLink n a).uncorrected = s.uncorrected := rfl
@[simp] theorem State.setLink_hopLost (s : State) (n : Nat) (a : Link) : (s.setLink n a).hopLost = s.hopLost := rfl
@[simp] theorem State.setLink_flashA (s : State) (n : Nat) (a : Link) : (s.setLink n a).flashA = s.flashA := rfl
@[simp] theorem State.setLink_flashB (s : State) (n : Nat) (a : Link) : (s.setLink n a).flashB = s.flashB := rfl
@[simp] theorem State.setLink_active (s : State) (n : Nat) (a : Link) : (s.setLink n a).active = s.active := rfl
@[simp] theorem State.setLink_rollback (s : State) (n : Nat) (a : Link) : (s.setLink n a).rollback = s.rollback := rfl
@[simp] theorem State.setLink_rails (s : State) (n : Nat) (a : Link) : (s.setLink n a).rails = s.rails := rfl
@[simp] theorem State.setLink_timeLock (s : State) (n : Nat) (a : Link) : (s.setLink n a).timeLock = s.timeLock := rfl
@[simp] theorem State.setLink_slew (s : State) (n : Nat) (a : Link) : (s.setLink n a).slew = s.slew := rfl
@[simp] theorem State.setLink_slewAcc (s : State) (n : Nat) (a : Link) : (s.setLink n a).slewAcc = s.slewAcc := rfl
@[simp] theorem State.setLink_node (s : State) (n : Nat) (a : Link) : (s.setLink n a).node = s.node := rfl
@[simp] theorem State.setLink_nextAsid (s : State) (n : Nat) (a : Link) : (s.setLink n a).nextAsid = s.nextAsid := rfl
@[simp] theorem State.setLink_taken (s : State) (n : Nat) (a : Link) : (s.setLink n a).taken = s.taken := rfl
@[simp] theorem State.setLink_fwNew (s : State) (n : Nat) (a : Link) : (s.setLink n a).fwNew = s.fwNew := rfl
@[simp] theorem State.setLink_answer (s : State) (n : Nat) (a : Link) : (s.setLink n a).answer = s.answer := rfl
@[simp] theorem State.setLink_shutdowns (s : State) (n : Nat) (a : Link) : (s.setLink n a).shutdowns = s.shutdowns := rfl
@[simp] theorem State.setLink_govMs (s : State) (n : Nat) (a : Link) : (s.setLink n a).govMs = s.govMs := rfl
@[simp] theorem State.setLink_savedHarts (s : State) (n : Nat) (a : Link) : (s.setLink n a).savedHarts = s.savedHarts := rfl
@[simp] theorem State.setLink_savedTiles (s : State) (n : Nat) (a : Link) : (s.setLink n a).savedTiles = s.savedTiles := rfl
@[simp] theorem State.setLink_savedParts (s : State) (n : Nat) (a : Link) : (s.setLink n a).savedParts = s.savedParts := rfl
@[simp] theorem State.setLink_hart (s : State) (n : Nat) (a : Link) (j : Nat) : (s.setLink n a).hart j = s.hart j := rfl
@[simp] theorem State.setLink_tile (s : State) (n : Nat) (a : Link) (j : Nat) : (s.setLink n a).tile j = s.tile j := rfl
@[simp] theorem State.setLink_part (s : State) (n : Nat) (a : Link) (j : Nat) : (s.setLink n a).part j = s.part j := rfl
@[simp] theorem State.setLink_station (s : State) (n : Nat) (a : Link) (j : Nat) : (s.setLink n a).station j = s.station j := rfl
@[simp] theorem State.setLink_link (s : State) (n : Nat) (a : Link) (j : Nat) :
    (s.setLink n a).link j = if j = n then a else s.link j := mget_mput _ _ _ _ _
@[simp] theorem State.setLink_byte (s : State) (n : Nat) (a : Link) (j : Nat) : (s.setLink n a).byte j = s.byte j := rfl

@[simp] theorem State.modHart_eq (s : State) (h : Nat) (f : Hart → Hart) : s.modHart h f = s.setHart h (f (s.hart h)) := rfl
@[simp] theorem State.modTile_eq (s : State) (n : Nat) (f : Tile → Tile) : s.modTile n f = s.setTile n (f (s.tile n)) := rfl
@[simp] theorem State.modPart_eq (s : State) (n : Nat) (f : Partition → Partition) : s.modPart n f = s.setPart n (f (s.part n)) := rfl
@[simp] theorem State.modStation_eq (s : State) (n : Nat) (f : Station → Station) : s.modStation n f = s.setStation n (f (s.station n)) := rfl
@[simp] theorem State.modLink_eq (s : State) (n : Nat) (f : Link → Link) : s.modLink n f = s.setLink n (f (s.link n)) := rfl

/-! ### Registers of a hart (01 R14) -/

@[simp] theorem Hart.rx_zero (a : Hart) : a.rx 0 = 0 := rfl
@[simp] theorem Hart.wx_zero (a : Hart) (v : W64) : a.wx 0 v = a := rfl
@[simp] theorem Hart.rp_zero (a : Hart) : a.rp 0 = BitVec.allOnes 2048 := rfl
@[simp] theorem Hart.wp_zero (a : Hart) (v : PData) : a.wp 0 v = a := rfl

theorem Hart.rx_wx (a : Hart) (d r : XReg) (v : W64) :
    (a.wx d v).rx r = if r = d ∧ d ≠ 0 then v else a.rx r := by
  by_cases hd : d = 0
  · rw [hd, Hart.wx_zero, if_neg fun h => h.2 rfl]
  · have w : a.wx d v = { a with x := mput a.x d.toNat v } := if_neg hd
    by_cases hr : r = 0
    · rw [if_neg fun h => hd (h.1.symm.trans hr), hr]
      rfl
    · have e : r.toNat = d.toNat ↔ r = d := BitVec.toNat_inj
      have l : ∀ b : Hart, b.rx r = mget 0 b.x r.toNat := fun b => if_neg hr
      rw [l, l, w, mget_mput]
      simp only [e, ne_eq, hd, not_false_eq_true, and_true]

theorem Hart.rp_wp (a : Hart) (d r : PReg) (v : PData) :
    (a.wp d v).rp r = if r = d ∧ d ≠ 0 then v else a.rp r := by
  by_cases hd : d = 0
  · rw [hd, Hart.wp_zero, if_neg fun h => h.2 rfl]
  · have w : a.wp d v = { a with p := mput a.p d.toNat v } := if_neg hd
    by_cases hr : r = 0
    · rw [if_neg fun h => hd (h.1.symm.trans hr), hr]
      rfl
    · have e : r.toNat = d.toNat ↔ r = d := BitVec.toNat_inj
      have l : ∀ b : Hart, b.rp r = mget 0 b.p r.toNat := fun b => if_neg hr
      rw [l, l, w, mget_mput]
      simp only [e, ne_eq, hd, not_false_eq_true, and_true]

@[simp] theorem Hart.rv_wv (a : Hart) (d n : Nat) (v : VecReg) : (a.wv d v).rv n = if n = d then v else a.rv n :=
  mget_mput _ _ _ _ _
@[simp] theorem Hart.rg_wg (a : Hart) (d n : Nat) (v : VData) : (a.wg d v).rg n = if n = d then v &&& entryBits else a.rg n :=
  mget_mput _ _ _ _ _
@[simp] theorem Hart.rw_ww (a : Hart) (d n : Nat) (v : WaitTok) : (a.ww d v).rw n = if n = d then v else a.rw n :=
  mget_mput _ _ _ _ _
@[simp] theorem Hart.slot_setSlot (a : Hart) (d n : Nat) (v : StreamSlot) :
    (a.setSlot d v).slot n = if n = d then v else a.slot n := mget_mput _ _ _ _ _
@[simp] theorem Hart.entry_setEntry (a : Hart) (d n : Nat) (v : Option JEntry) :
    (a.setEntry d v).entry n = if n = d then v else a.entry n := mget_mput _ _ _ _ _

end Sys2Proof.Machine
end

