-- ==== Sys2Proof/Laws/Retire.lean ====
section
/-! SUPPORT. What the shared operations of every instruction do: the checks of 03 R95, a change of STATE, retiring, waiting. -/

namespace Sys2Proof.Machine

/-! ### Progress and a change of STATE -/

@[simp] theorem State.progress_hart (s : State) (p : Option Nat) (j : Nat) : (s.progress p).hart j = s.hart j := by
  cases p <;> rfl
@[simp] theorem State.progress_byte (s : State) (p : Option Nat) (j : Nat) : (s.progress p).byte j = s.byte j := by
  cases p <;> rfl
@[simp] theorem State.progress_mem (s : State) (p : Option Nat) : (s.progress p).mem = s.mem := by
  cases p <;> rfl
@[simp] theorem State.progress_harts (s : State) (p : Option Nat) : (s.progress p).harts = s.harts := by
  cases p <;> rfl

theorem State.progress_part (s : State) (p : Option Nat) (q : Nat) :
    (s.progress p).part q = s.part q ∨ (s.progress p).part q = { s.part q with wdCount := 0, wdFired := false } := by
  cases p with
  | none => exact .inl rfl
  | some n =>
    simp only [State.progress, State.modPart_eq, State.setPart_part]
    split
    · subst_vars
      exact .inr rfl
    · exact .inl rfl

theorem State.progress_rest (s : State) (p : Option Nat) : { s.progress p with parts := s.parts } = s := by
  cases p <;> rfl

theorem State.setOwn_same (s : State) (h : Nat) (st : HState) (port : BitVec 4)
    (e : (s.hart h).own = st ∧ (s.hart h).port = port) : s.setOwn h st port = s := if_pos e

theorem State.setOwn_other (s : State) (h : Nat) (st : HState) (port : BitVec 4)
    (e : ¬((s.hart h).own = st ∧ (s.hart h).port = port)) :
    ∃ now d, s.setOwn h st port = (s.setHart h { s.hart h with
      own := st, port := port, blkSince := now
      blkrd := if (s.hart h).state = 1 then (s.hart h).blkrd + d else (s.hart h).blkrd
      blkwr := if (s.hart h).state = 2 then (s.hart h).blkwr + d else (s.hart h).blkwr }).progress (s.hart h).part :=
  ⟨_, _, if_neg e⟩

/-- A change of STATE touches the hart's own STATE, its port, and BLKRD and BLKWR; a watchdog may restart. -/
theorem State.setOwn_hart (s : State) (h : Nat) (st : HState) (port : BitVec 4) :
    (s.setOwn h st port).hart h = { s.hart h with
      own := st, port := port, blkrd := ((s.setOwn h st port).hart h).blkrd, blkwr := ((s.setOwn h st port).hart h).blkwr
      blkSince := ((s.setOwn h st port).hart h).blkSince } := by
  by_cases e : (s.hart h).own = st ∧ (s.hart h).port = port
  · rw [State.setOwn_same s h st port e, ← e.1, ← e.2]
  · obtain ⟨n, d, q⟩ := State.setOwn_other s h st port e
    rw [q, State.progress_hart, State.setHart_hart, if_pos rfl]

theorem State.setOwn_hart_ne (s : State) (h j : Nat) (st : HState) (port : BitVec 4) (e : j ≠ h) :
    (s.setOwn h st port).hart j = s.hart j := by
  by_cases o : (s.hart h).own = st ∧ (s.hart h).port = port
  · rw [State.setOwn_same s h st port o]
  · obtain ⟨n, d, q⟩ := State.setOwn_other s h st port o
    rw [q, State.progress_hart, State.setHart_hart, if_neg e]

theorem State.setOwn_blkrd (s : State) (h : Nat) (st : HState) (port : BitVec 4) (e : (s.hart h).state ≠ 1) :
    ((s.setOwn h st port).hart h).blkrd = (s.hart h).blkrd := by
  by_cases o : (s.hart h).own = st ∧ (s.hart h).port = port
  · rw [State.setOwn_same s h st port o]
  · obtain ⟨n, d, q⟩ := State.setOwn_other s h st port o
    rw [q, State.progress_hart, State.setHart_hart, if_pos rfl]
    exact if_neg e

theorem State.setOwn_blkwr (s : State) (h : Nat) (st : HState) (port : BitVec 4) (e : (s.hart h).state ≠ 2) :
    ((s.setOwn h st port).hart h).blkwr = (s.hart h).blkwr := by
  by_cases o : (s.hart h).own = st ∧ (s.hart h).port = port
  · rw [State.setOwn_same s h st port o]
  · obtain ⟨n, d, q⟩ := State.setOwn_other s h st port o
    rw [q, State.progress_hart, State.setHart_hart, if_pos rfl]
    exact if_neg e

theorem State.setOwn_part (s : State) (h : Nat) (st : HState) (port : BitVec 4) (q : Nat) :
    (s.setOwn h st port).part q = s.part q
      ∨ (s.setOwn h st port).part q = { s.part q with wdCount := 0, wdFired := false } := by
  by_cases o : (s.hart h).own = st ∧ (s.hart h).port = port
  · rw [State.setOwn_same s h st port o]
    exact .inl rfl
  · obtain ⟨n, d, e⟩ := State.setOwn_other s h st port o
    rw [e]
    exact State.progress_part _ _ _

theorem State.setOwn_rest (s : State) (h : Nat) (st : HState) (port : BitVec 4) :
    (s.setOwn h st port).withUnits s = s := by
  by_cases o : (s.hart h).own = st ∧ (s.hart h).port = port
  · rw [State.setOwn_same s h st port o]
    rfl
  · obtain ⟨n, d, e⟩ := State.setOwn_other s h st port o
    rw [e]
    cases (s.hart h).part <;> rfl

@[simp] theorem State.setOwn_mem (s : State) (h : Nat) (st : HState) (port : BitVec 4) : (s.setOwn h st port).mem = s.mem :=
  show ((s.setOwn h st port).withUnits s).mem = s.mem from congrArg State.mem (s.setOwn_rest h st port)

@[simp] theorem State.setOwn_cur (s : State) (h : Nat) (st : HState) (port : BitVec 4) : (s.setOwn h st port).cur = s.cur :=
  show ((s.setOwn h st port).withUnits s).cur = s.cur from congrArg State.cur (s.setOwn_rest h st port)

/-! ### Retiring -/

/-- Everything retiring does. -/
theorem retires_retireTo (s : State) (h : Nat) (c : Ctl) (w : BitVec 13) (pc : W64) :
    Retires s (s.retireTo h c w pc) h c w pc (s.hart h) := by
  have e := s.setOwn_hart h .running 0
  have r := s.setOwn_rest h .running 0
  refine ⟨?_, fun n => ?_, fun n => ?_, fun j n => ?_, fun p => ?_, fun x => ?_, ?_⟩
  · simp only [State.retireTo, State.modHart_eq, State.setHart_hart, if_true]
    rw [e]
  · simp only [State.retireTo, State.modHart_eq, State.setHart_hart, if_true]
    exact s.setOwn_blkrd h _ _ n
  · simp only [State.retireTo, State.modHart_eq, State.setHart_hart, if_true]
    exact s.setOwn_blkwr h _ _ n
  · simp only [State.retireTo, State.modHart_eq, State.setHart_hart, if_neg n]
    exact s.setOwn_hart_ne h j _ _ n
  · exact s.setOwn_part h _ _ p
  · show ((s.setOwn h .running 0).withUnits s).byte x = s.byte x
    exact congrArg (fun t : State => t.byte x) r
  · exact r

/-- Retiring after the hart's registers have become those of a. -/
theorem retires_of_modHart (s : State) (h : Nat) (f : Hart → Hart) (c : Ctl) (w : BitVec 13) (pc : W64) :
    Retires s ((s.modHart h f).retireTo h c w pc) h c w pc (f (s.hart h)) := by
  have r := retires_retireTo (s.modHart h f) h c w pc
  have e : (s.modHart h f).hart h = f (s.hart h) := by simp
  rw [e] at r
  refine ⟨r.hart, r.blkrd, r.blkwr, fun j n => ?_, r.watchdog, r.byte, ?_⟩
  · rw [r.others j n, State.modHart_eq, State.setHart_hart, if_neg n]
  · have q := congrArg (fun t : State => { t with harts := s.harts }) r.rest
    exact q

/-- Everything waiting does. -/
theorem State.wait_waits (s : State) (h : Nat) (st : HState) (port : BitVec 4) : Waits s (s.wait h st port) h st port := by
  have e := s.setOwn_hart h st port
  have r := s.setOwn_rest h st port
  refine ⟨?_, fun n => ?_, fun n => ?_, fun j n => ?_, fun p => ?_, fun x => ?_, ?_⟩
  · simp only [State.wait, State.modHart_eq, State.setHart_hart, if_true]
    rw [e]
  · simp only [State.wait, State.modHart_eq, State.setHart_hart, if_true]
    exact s.setOwn_blkrd h _ _ n
  · simp only [State.wait, State.modHart_eq, State.setHart_hart, if_true]
    exact s.setOwn_blkwr h _ _ n
  · simp only [State.wait, State.modHart_eq, State.setHart_hart, if_neg n]
    exact s.setOwn_hart_ne h j _ _ n
  · exact s.setOwn_part h _ _ p
  · show ((s.setOwn h st port).withUnits s).byte x = s.byte x
    exact congrArg (fun t : State => t.byte x) r
  · exact r

/-! ### Taking a trap (16 R357) -/

/-- What taking a trap does, where the hart has a handler and can report. -/
theorem State.takeTrap_enters {s : State} {h : Nat} (ok : s.CanTrap h) (pc : W64) (tr : Trap) :
    Enters s (s.takeTrap h pc tr) h pc tr := by
  obtain ⟨h1, h2, h3⟩ := ok
  have e : s.takeTrap h pc tr = (s.setOwn h .running 0).modHart h fun a => { a with
      trappc := pc, trapcause := tr.word, trapaddr := tr.addr, trapinfo := tr.info
      rmrSvc := if a.td = 0 then a.svc else a.rmrSvc
      rmrKahn := if a.td = 0 then a.kahn else a.rmrKahn
      td := a.td + 1, svc := true, kahn := false, unread := true, readCause := false, readAddr := false
      stalled := false, waitAcc := none, timeTarget := none
      pc := a.trapvecF.zeroExtend 64 } := by
    have g1 : ((s.hart h).unread || decide ((s.hart h).td = 7) || (decide ((s.hart h).trapvecF = 0) && decide ((s.hart h).gdepth = 0)))
        = false := by
      rw [h2, decide_eq_false h3, decide_eq_false h1]
      rfl
    exact (if_neg (ne_true_of_eq_false g1)).trans (if_neg h1)
  have o := s.setOwn_hart h .running 0
  have r := s.setOwn_rest h .running 0
  refine ⟨?_, fun n => ?_, fun n => ?_, fun j n => ?_, fun p => ?_, fun x => ?_, ?_⟩
  · rw [e, State.modHart_eq, State.setHart_hart, if_pos rfl, o]
  · rw [e, State.modHart_eq, State.setHart_hart, if_pos rfl]
    exact s.setOwn_blkrd h _ _ n
  · rw [e, State.modHart_eq, State.setHart_hart, if_pos rfl]
    exact s.setOwn_blkwr h _ _ n
  · rw [e, State.modHart_eq, State.setHart_hart, if_neg n, State.setOwn_hart_ne _ _ _ _ _ n]
  · rw [e]
    exact s.setOwn_part h _ _ p
  · rw [e]
    show ((s.setOwn h .running 0).withUnits s).byte x = s.byte x
    exact congrArg (fun t : State => t.byte x) r
  · rw [e]
    exact r

/-- Everything the last-resort handler does (16 R368). -/
theorem State.romHold_held (s : State) (h : Nat) (cause : BitVec 8) (addr pc : W64) (fatal : Bool) :
    RomHeld s (s.romHold h cause addr pc fatal) h cause addr pc fatal := by
  have o := s.setOwn_hart h .running 0
  have r := s.setOwn_rest h .running 0
  have a : (s.romHold h cause addr pc fatal).hart h = { (s.setOwn h .running 0).hart h with
      held := true, stalled := false, waitAcc := none, timeTarget := none } := by
    show ((s.setOwn h .running 0).modHart h fun a => { a with held := true, stalled := false, waitAcc := none, timeTarget := none }).hart h = _
    simp
  refine ⟨?_, ?_, rfl, rfl, fun n => ?_, fun n => ?_, fun j n => ?_, fun p => ?_, fun x => ?_, ?_⟩
  · rw [a, o]
  · rw [a]
    rfl
  · rw [a]
    exact s.setOwn_blkrd h _ _ n
  · rw [a]
    exact s.setOwn_blkwr h _ _ n
  · show ((s.setOwn h .running 0).modHart h fun a => { a with held := true, stalled := false, waitAcc := none, timeTarget := none }).hart j = _
    rw [State.modHart_eq, State.setHart_hart, if_neg n, State.setOwn_hart_ne _ _ _ _ _ n]
  · exact s.setOwn_part h _ _ p
  · show ((s.setOwn h .running 0).withUnits s).byte x = s.byte x
    exact congrArg (fun t : State => t.byte x) r
  · exact congrArg (fun t : State => { t with romRing := s.romRing, bootstat := s.bootstat }) r

/-- Everything the start of an unwind does (04 R142). -/
theorem State.beginUnwind_unwinds (s : State) (h : Nat) (cause : BitVec 8) : Unwinds s (s.beginUnwind h cause) h cause := by
  have o := s.setOwn_hart h .waiting 0
  have r := s.setOwn_rest h .waiting 0
  refine ⟨?_, fun n => ?_, fun n => ?_, fun j n => ?_, fun p => ?_, fun x => ?_, ?_⟩
  · simp only [State.beginUnwind, State.modHart_eq, State.setHart_hart, if_true]
    rw [o]
  · simp only [State.beginUnwind, State.modHart_eq, State.setHart_hart, if_true]
    exact s.setOwn_blkrd h _ _ n
  · simp only [State.beginUnwind, State.modHart_eq, State.setHart_hart, if_true]
    exact s.setOwn_blkwr h _ _ n
  · simp only [State.beginUnwind, State.modHart_eq, State.setHart_hart, if_neg n]
    exact s.setOwn_hart_ne h j _ _ n
  · exact s.setOwn_part h _ _ p
  · show ((s.setOwn h .waiting 0).withUnits s).byte x = s.byte x
    exact congrArg (fun t : State => t.byte x) r
  · exact r

/-! ### The steps of 03 R95 -/

/-- Where the checks let the instruction perform, they only hand on the decode-time WFLAG bits. -/
theorem State.issue_admits {s : State} {c : Ctl} {hd : Head} (h : s.Admits c hd) (k : BitVec 13 → State) :
    s.issue c hd k = k (hd.flags c) := by
  obtain ⟨h1, h2, h3, h4, h5, h6⟩ := h
  unfold State.issue
  have r : (hd.vs.all (fun v => decide (v.toNat % (s.hart s.cur).rc = 0))
      && hd.mults.all (fun n => decide (n % (s.hart s.cur).rc = 0))) = true := by
    simp only [Bool.and_eq_true, List.all_eq_true, decide_eq_true_iff]
    exact ⟨h1, h2⟩
  have g : s.gateBars s.cur c hd = false := by
    unfold State.gateBars
    by_cases hg : (s.hart s.cur).gdepth = 0
    · simp [hg]
    · obtain ⟨g1, g2, g3, g4⟩ := h3 hg
      simp only [g1, Bool.false_or, Bool.and_eq_false_iff, Bool.or_eq_false_iff]
      refine .inr ⟨⟨?_, ?_⟩, ?_⟩
      · rcases g2 with g2 | g2 | g2
        · simp [g2]
        · have : ¬ 8 ≤ c.gpred.toNat := by omega
          simp [this]
        · have : ¬ c.gpred.toNat < 96 := by omega
          simp [this]
      · rw [List.any_eq_false]
        intro p hp
        have := g3 p hp
        simpa using this
      · rw [List.any_eq_false]
        intro v hv
        simp [g4 v hv]
  have n : (hd.nd && (s.hart s.cur).kahn) = false := by
    cases e : hd.nd
    · rfl
    · simp [h5 e]
  simp only [r, g, h4, n, Bool.not_true, Bool.false_eq_true, if_false]
  split
  · rename_i he
    rw [he] at h6
    simp only [if_true] at h6
    rw [if_neg h6]
    rfl
  · rename_i he
    rw [if_neg he] at h6
    have : (hd.unguarded || (s.hart s.cur).guard0 c) = true := by simpa using h6
    rw [if_pos this]
    rfl

/-- An instruction whose effect is a new value of the hart's registers. -/
theorem retires_onHart {s : State} {c : Ctl} {hd : Head} (h : s.Admits c hd) (f : Hart → Hart) (hp : ∀ a, (f a).pc = a.pc) :
    Retires s (s.onHart c hd f) s.cur c (hd.flags c) ((s.hart s.cur).pc + 12) (f (s.hart s.cur)) := by
  unfold State.onHart
  rw [State.issue_admits h]
  have e : ((s.modHart s.cur f).hart s.cur).pc = (s.hart s.cur).pc := by simp [hp]
  unfold State.retire
  rw [e]
  exact retires_of_modHart s s.cur f c _ _

@[simp] theorem Hart.wx_pc (a : Hart) (d : XReg) (v : W64) : (a.wx d v).pc = a.pc := by
  unfold Hart.wx
  split <;> rfl

@[simp] theorem Hart.wp_pc (a : Hart) (d : PReg) (v : PData) : (a.wp d v).pc = a.pc := by
  unfold Hart.wp
  split <;> rfl

/-- An instruction whose whole effect is to write x[d]. -/
theorem retires_onX {s : State} {c : Ctl} {mods : BitVec 6} (h : s.Admits c { mods := mods }) (d : XReg) (f : Hart → W64) :
    Retires s (s.onX c mods d f) s.cur c (Head.flags { mods := mods } c) ((s.hart s.cur).pc + 12)
      ((s.hart s.cur).wx d (f (s.hart s.cur))) :=
  retires_onHart h (fun a => a.wx d (f a)) fun a => Hart.wx_pc a d (f a)

end Sys2Proof.Machine
end

