-- ==== Sys2Proof/Laws/Vector.lean ====
section
/-! SUPPORT. What running a vector plan does when nothing stops it: its rows in order, element by element. -/

namespace Sys2Proof.Machine

/-! ### Elements -/

theorem elemAt_bit (d : VData) (w e i : Nat) : (elemAt d w e).testBit i = (decide (i < w) && d.getLsbD (w * e + i)) := by
  unfold elemAt
  rw [Nat.testBit_mod_two_pow, Nat.testBit_div_two_pow]
  simp [BitVec.getLsbD, Nat.add_comm]

theorem setElem_bit (d : VData) (w e v k : Nat) (hk : k < 8192) :
    (setElem d w e v).getLsbD k = if w * e ≤ k ∧ k < w * e + w then v.testBit (k - w * e) else d.getLsbD k := by
  have m : ((2 ^ w - 1) * 2 ^ (w * e)).testBit k = decide (w * e ≤ k ∧ k < w * e + w) := by
    rw [Nat.testBit_mul_two_pow, Nat.testBit_two_pow_sub_one]
    by_cases h : w * e ≤ k
    · have : k - w * e < w ↔ k < w * e + w := by omega
      simp [h, this]
    · simp [h]
  have q : (v % 2 ^ w * 2 ^ (w * e)).testBit k = (decide (w * e ≤ k ∧ k < w * e + w) && v.testBit (k - w * e)) := by
    rw [Nat.testBit_mul_two_pow, Nat.testBit_mod_two_pow]
    by_cases h : w * e ≤ k
    · have : k - w * e < w ↔ k < w * e + w := by omega
      simp [h, this]
    · simp [h]
  unfold setElem
  simp only [BitVec.getLsbD_or, BitVec.getLsbD_and, BitVec.getLsbD_not, BitVec.getLsbD_ofNat, m, q, hk, decide_true,
    Bool.true_and]
  by_cases h : w * e ≤ k ∧ k < w * e + w
  · simp [h]
  · simp [h]

theorem elemAt_setElem (d : VData) (w e v k : Nat) (he : w * e + w ≤ 8192) (hk : w * k + w ≤ 8192) :
    elemAt (setElem d w e v) w k = if k = e then v % 2 ^ w else elemAt d w k := by
  apply Nat.eq_of_testBit_eq
  intro i
  rw [elemAt_bit]
  by_cases hi : i < w
  · rw [setElem_bit _ _ _ _ _ (by omega)]
    by_cases hke : k = e
    · subst hke
      have h1 : w * k ≤ w * k + i ∧ w * k + i < w * k + w := by omega
      have h2 : w * k + i - w * k = i := by omega
      rw [if_pos h1, if_pos rfl, h2, Nat.testBit_mod_two_pow]
    · rw [if_neg hke, elemAt_bit]
      have h1 : ¬(w * e ≤ w * k + i ∧ w * k + i < w * e + w) := by
        rcases Nat.lt_or_gt_of_ne hke with h | h
        · have := Nat.mul_le_mul_left w (show k + 1 ≤ e from h)
          rw [Nat.mul_add, Nat.mul_one] at this
          omega
        · have := Nat.mul_le_mul_left w (show e + 1 ≤ k from h)
          rw [Nat.mul_add, Nat.mul_one] at this
          omega
      rw [if_neg h1]
  · have h0 : (decide (i < w)) = false := decide_eq_false hi
    rw [h0, Bool.false_and]
    split
    · rw [Nat.testBit_mod_two_pow, h0, Bool.false_and]
    · rw [elemAt_bit, h0, Bool.false_and]

/-- Writing listed elements: each takes what f gives, the others keep theirs. -/
theorem foldElems_elem (w : Nat) (f : Nat → Option (Nat × BitVec 5)) (es : List Nat) (d : VData) (fl : BitVec 5) (k : Nat)
    (he : ∀ e ∈ es, w * e + w ≤ 8192) (hk : w * k + w ≤ 8192) :
    elemAt (foldElems w f es (d, fl)).1 w k =
      if k ∈ es then (match f k with | some (v, _) => v % 2 ^ w | none => elemAt d w k) else elemAt d w k := by
  induction es generalizing d fl with
  | nil => rfl
  | cons e r ih =>
    have hr : ∀ x ∈ r, w * x + w ≤ 8192 := fun x hx => he x (List.mem_cons_of_mem _ hx)
    unfold foldElems
    cases hf : f e with
    | none =>
      simp only
      rw [ih d fl hr]
      by_cases h1 : k ∈ r
      · simp [h1]
      · by_cases h2 : k = e
        · subst h2
          simp [h1, hf]
        · simp [h1, h2]
    | some p =>
      obtain ⟨v, g⟩ := p
      simp only
      rw [ih _ _ hr, elemAt_setElem _ _ _ _ _ (he e List.mem_cons_self) hk]
      by_cases h1 : k ∈ r
      · by_cases h2 : k = e
        · subst h2
          simp [hf]
        · simp [h1, h2]
      · by_cases h2 : k = e
        · subst h2
          simp [h1, hf]
        · simp [h1, h2]

/-- The flags of writing listed elements. -/
theorem foldElems_flag (w : Nat) (f : Nat → Option (Nat × BitVec 5)) (es : List Nat) (d : VData) (fl : BitVec 5) (n : Nat) :
    (foldElems w f es (d, fl)).2.getLsbD n = true ↔
      fl.getLsbD n = true ∨ ∃ e ∈ es, ∃ v g, f e = some (v, g) ∧ g.getLsbD n = true := by
  induction es generalizing d fl with
  | nil => simp [foldElems]
  | cons e r ih =>
    unfold foldElems
    cases hf : f e with
    | none =>
      simp only
      rw [ih]
      simp [hf]
    | some p =>
      obtain ⟨v, g⟩ := p
      simp only
      rw [ih]
      have one : (∃ x g', f e = some (x, g') ∧ g'.getLsbD n = true) ↔ g.getLsbD n = true := by
        rw [hf]
        constructor
        · rintro ⟨x, g', h, hn⟩
          cases h
          exact hn
        · intro hn
          exact ⟨v, g, rfl, hn⟩
      simp only [BitVec.getLsbD_or, Bool.or_eq_true, List.mem_cons, exists_eq_or_imp, one, or_assoc]

theorem mem_spanOf {lo hi e : Nat} : e ∈ spanOf lo hi ↔ lo ≤ e ∧ e < hi := by
  unfold spanOf
  simp only [List.mem_map, List.mem_range]
  constructor
  · rintro ⟨i, hi, rfl⟩
    omega
  · rintro ⟨h1, h2⟩
    exact ⟨e - lo, by omega, by omega⟩

/-! ### Rows -/

/-- A row function that touches its own destination row's data and FFLAGS alone. -/
structure RowLaw (d : Nat) (row : Nat → Hart → Hart) (data : Nat → VData → VData) (fl : Nat → VData → BitVec 5) : Prop where
  eq : ∀ j x, row j x = (x.wv (d + j) { x.rv (d + j) with data := data j (x.rv (d + j)).data }).addFlags
    (fl j (x.rv (d + j)).data)

theorem writeRow_law (d : Nat) (w : Nat → Nat) (act : Nat → Bool) (f : Nat → Nat → Nat → Nat × BitVec 5) (lo hi : Nat) :
    RowLaw d (fun j x => writeRow d (w j) act (f j) j lo hi x)
      (fun j m => (foldElems (w j) (fun e => if act e then some (f j j e) else none) (spanOf lo hi) (m, 0)).1)
      (fun j m => (foldElems (w j) (fun e => if act e then some (f j j e) else none) (spanOf lo hi) (m, 0)).2) :=
  ⟨fun _ _ => rfl⟩

theorem wv_wv (a : Hart) (n : Nat) (x y : VecReg) : ((a.wv n x).wv n y).rv = (a.wv n y).rv := by
  funext k
  simp only [Hart.rv_wv]
  split <;> rfl

/-- What the rows of a list leave: the registers, FFLAGS and the rest. -/
theorem fold_rows {p : VPlan} {d : Nat} {tag : Nat → BitVec 16} (hd : p.dest = some (d, tag))
    {data : Nat → VData → VData} {fl : Nat → VData → BitVec 5} (row : Nat → Hart → Hart) (law : RowLaw d row data fl)
    (js : List Nat) (nd : js.Nodup) (x : Hart) :
    let y := js.foldl (fun a j => p.endRow (row j a) j) x
    (∀ j ∈ js, y.rv (d + j) = { data := data j (x.rv (d + j)).data, tag := tag j, pi := 64, lrec := none, flight := none })
      ∧ (∀ n, (∀ j ∈ js, n ≠ d + j) → y.rv n = x.rv n)
      ∧ (∀ n, y.fflags.getLsbD n = true ↔ x.fflags.getLsbD n = true
          ∨ ∃ j ∈ js, (fl j (x.rv (d + j)).data).getLsbD n = true)
      ∧ { y with v := x.v, fflags := x.fflags } = x := by
  induction js generalizing x with
  | nil => exact ⟨fun j h => absurd h (List.not_mem_nil), fun _ _ => rfl, fun n => by simp, rfl⟩
  | cons j r ih =>
    have nd' := List.nodup_cons.1 nd
    simp only [List.foldl_cons]
    have e1 : ∀ n, (p.endRow (row j x) j).rv n = if n = d + j then
        { data := data j (x.rv (d + j)).data, tag := tag j, pi := 64, lrec := none, flight := none } else x.rv n := by
      intro n
      unfold VPlan.endRow
      rw [hd, law.eq]
      have a : ∀ (z : Hart) (f : BitVec 5) (k : Nat), (z.addFlags f).rv k = z.rv k := fun _ _ _ => rfl
      simp only [Hart.rv_wv, a, if_true]
      split <;> rfl
    have e2 : (p.endRow (row j x) j).fflags = x.fflags ||| fl j (x.rv (d + j)).data := by
      unfold VPlan.endRow
      rw [hd, law.eq]
      rfl
    have e3 : { p.endRow (row j x) j with v := x.v, fflags := x.fflags } = x := by
      unfold VPlan.endRow
      rw [hd, law.eq]
      rfl
    obtain ⟨h1, h2, h3, h4⟩ := ih nd'.2 (p.endRow (row j x) j)
    refine ⟨fun k hk => ?_, fun n hn => ?_, fun n => ?_, ?_⟩
    · rcases List.mem_cons.1 hk with rfl | hk
      · rw [h2 _ fun q hq e => nd'.1 (by have : k = q := by omega
                                         exact this ▸ hq), e1, if_pos rfl]
      · rw [h1 k hk, e1, if_neg fun e => nd'.1 (by have : k = j := by omega
                                                   exact this ▸ hk)]
    · rw [h2 n fun q hq => hn q (List.mem_cons_of_mem _ hq), e1, if_neg (hn j List.mem_cons_self)]
    · rw [h3, e2]
      simp only [BitVec.getLsbD_or, Bool.or_eq_true, List.mem_cons]
      constructor
      · rintro ((h | h) | ⟨q, hq, h⟩)
        · exact .inl h
        · exact .inr ⟨j, .inl rfl, h⟩
        · refine .inr ⟨q, .inr hq, ?_⟩
          rw [e1, if_neg fun e => nd'.1 (by have : q = j := by omega
                                            exact this ▸ hq)] at h
          exact h
      · rintro (h | ⟨q, rfl | hq, h⟩)
        · exact .inl (.inl h)
        · exact .inl (.inr h)
        · refine .inr ⟨q, hq, ?_⟩
          rw [e1, if_neg fun e => nd'.1 (by have : q = j := by omega
                                            exact this ▸ hq)]
          exact h
    · have h5 := congrArg (fun z : Hart => { z with v := x.v, fflags := x.fflags }) h4
      exact h5.trans e3

/-! ### A plan that nothing stops -/

/-- The sources of a plan are whole and clean. -/
def VPlan.Held (p : VPlan) (a : Hart) : Prop :=
  ∀ src ∈ p.srcs, ∀ j < p.rc, (a.rv (src.base + j)).pi = 64 ∧ (a.rv (src.base + j)).poisoned = false

theorem VSrc.need_le (p : VSrc) (vl j : Nat) : p.need vl j ≤ 64 := Nat.min_le_left _ _

theorem held_halt {p : VPlan} {a : Hart} (h : p.Held a) {j : Nat} (hj : j < p.rc) : p.halt a j = none := by
  unfold VPlan.halt
  have key : ∀ l : List VSrc, (∀ x ∈ l, x ∈ p.srcs) →
      l.foldl (fun m src => earlier m (src.halt a p.vl j (decide (p.destOf j = some (src.base + j))))) none = none := by
    intro l
    induction l with
    | nil => intro _; rfl
    | cons x r ih =>
      intro hm
      have hx := h x (hm x List.mem_cons_self) j hj
      have n := x.need_le p.vl j
      have : ∀ own, x.halt a p.vl j own = none := by
        intro own
        unfold VSrc.halt VecReg.waits VecReg.trap
        simp [hx.1, hx.2, Nat.not_lt.2 n]
      rw [List.foldl_cons, this]
      exact ih fun y hy => hm y (List.mem_cons_of_mem _ hy)
  exact key p.srcs fun _ h => h

theorem held_rows {p : VPlan} {a0 : Hart} (h : p.Held a0) (js : List Nat) (hj : ∀ j ∈ js, j < p.rc) (a : Hart) :
    p.rows a0 (js.map fun j => (j, 0)) a = (js.foldl (fun a j => p.endRow (p.row j 0 p.vl a) j) a, none) := by
  induction js generalizing a with
  | nil => simp [VPlan.rows]
  | cons j r ih =>
    rw [List.map_cons, VPlan.rows, held_halt h (hj j List.mem_cons_self)]
    exact ih (fun k hk => hj k (List.mem_cons_of_mem _ hk)) _

/-- A plan that can start and whose sources hold runs its rows in order and retires. -/
theorem runV_done {s : State} {p : VPlan} (c : Ctl) (w : BitVec 13) (fresh : (s.hart s.cur).resumeAt p.destBase = none)
    (free : ∀ v ∈ p.dests, s.vBusy s.cur v = false) (gfree : ∀ g ∈ p.gdest, s.gReserved s.cur g = false)
    (held : p.Held (s.hart s.cur)) :
    s.runV c w p =
      (s.setHart s.cur ((((List.range p.rc).foldl (fun a j => p.endRow (p.row j 0 p.vl a) j)
        (((List.range p.rc).foldl p.beginRow (s.hart s.cur)).charge p.beats)).clearResume p.destBase).addFlags p.sflags)).retire
        s.cur c (w ||| p.wf) := by
  have waits : s.planWaits p none = false := by
    unfold State.planWaits VPlan.todo
    simp only [Option.isNone_none, Bool.true_and, List.any_map, Bool.or_eq_false_iff, List.any_eq_false]
    refine ⟨⟨fun j hj => ?_, fun g hg => ?_⟩, fun j hj => ?_⟩
    · simp only [Function.comp_apply, VPlan.destOf]
      unfold VPlan.dests at free
      cases hd : p.dest with
      | none => simp
      | some x =>
        rw [hd] at free
        simp only [Option.map_some, Option.any_some]
        rw [free _ (List.mem_map.2 ⟨j, hj, rfl⟩)]
        decide
    · simp [gfree g hg]
    · simp only [List.any_eq_true, not_exists, not_and]
      intro src hs
      have := held src hs j (List.mem_range.1 hj)
      have n := src.need_le p.vl j
      unfold VecReg.waits
      simp [this.1, Nat.not_lt.2 n]
  have todo : p.todo none = (List.range p.rc).map fun j => (j, 0) := rfl
  have rows := held_rows held (List.range p.rc) (fun j hj => List.mem_range.1 hj)
    (((List.range p.rc).foldl p.beginRow (s.hart s.cur)).charge p.beats)
  rw [← todo] at rows
  unfold State.runV
  simp only [fresh, waits, Bool.false_eq_true, if_false, Option.any_none, rows]

/-- Beginning rows changes only tags and PI of destination rows. -/
theorem begin_rows {p : VPlan} {d : Nat} {tag : Nat → BitVec 16} (hd : p.dest = some (d, tag)) (js : List Nat) (x : Hart) :
    let y := js.foldl p.beginRow x
    (∀ n, (y.rv n).data = (x.rv n).data) ∧ (∀ n, (∀ j ∈ js, n ≠ d + j) → y.rv n = x.rv n) ∧ { y with v := x.v } = x := by
  induction js generalizing x with
  | nil => exact ⟨fun _ => rfl, fun _ _ => rfl, rfl⟩
  | cons j r ih =>
    simp only [List.foldl_cons]
    obtain ⟨h1, h2, h3⟩ := ih (p.beginRow x j)
    have e1 : ∀ n, ((p.beginRow x j).rv n).data = (x.rv n).data := by
      intro n
      unfold VPlan.beginRow VPlan.stopRow
      rw [hd]
      show (((x.wv (d + j) _).rv n).data) = _
      rw [Hart.rv_wv]
      split
      · subst_vars
        rfl
      · rfl
    have e2 : ∀ n, n ≠ d + j → (p.beginRow x j).rv n = x.rv n := by
      intro n hn
      unfold VPlan.beginRow VPlan.stopRow
      rw [hd]
      show (x.wv (d + j) _).rv n = _
      rw [Hart.rv_wv, if_neg hn]
    have e3 : { p.beginRow x j with v := x.v } = x := by
      unfold VPlan.beginRow VPlan.stopRow
      rw [hd]
      rfl
    refine ⟨fun n => (h1 n).trans (e1 n), fun n hn => ?_, ?_⟩
    · rw [h2 n fun q hq => hn q (List.mem_cons_of_mem _ hq), e2 n (hn j List.mem_cons_self)]
    · exact (congrArg (fun z : Hart => { z with v := x.v }) h3).trans e3

theorem clearResume_fresh {a : Hart} {d : Nat} (h : a.resumeAt d = none) : a.clearResume d = a := by
  unfold Hart.resumeAt at h
  rw [List.find?_eq_none] at h
  unfold Hart.clearResume
  have : (a.resume.filter fun r => !r.isFor a d) = a.resume := by
    rw [List.filter_eq_self]
    intro r hr
    simp [h r hr]
  rw [this]

/-- The whole effect of a plan that writes vector rows and that nothing stops. -/
theorem runV_writes {s : State} {p : VPlan} (c : Ctl) (w : BitVec 13) {d : Nat} {tag : Nat → BitVec 16}
    (hd : p.dest = some (d, tag)) (hg : p.gdest = [])
    (ready : s.VReady d (rowsOf d p.rc) (p.srcs.flatMap fun src => rowsOf src.base p.rc))
    {data : Nat → VData → VData} {fl : Nat → VData → BitVec 5} (law : RowLaw d (fun j a => p.row j 0 p.vl a) data fl) :
    ∃ a, Retires s (s.runV c w p) s.cur c (w ||| p.wf) ((s.hart s.cur).pc + 12) a
      ∧ (∀ j < p.rc, a.rv (d + j) =
          { data := data j ((s.hart s.cur).rv (d + j)).data, tag := tag j, pi := 64, lrec := none, flight := none })
      ∧ (∀ n, (∀ j < p.rc, n ≠ d + j) → a.rv n = (s.hart s.cur).rv n)
      ∧ (∀ n, a.fflags.getLsbD n = true ↔ (s.hart s.cur).fflags.getLsbD n = true ∨ p.sflags.getLsbD n = true
          ∨ ∃ j < p.rc, (fl j ((s.hart s.cur).rv (d + j)).data).getLsbD n = true)
      ∧ { a with v := (s.hart s.cur).v, fflags := (s.hart s.cur).fflags, spent := (s.hart s.cur).spent } = s.hart s.cur := by
  have hb : p.destBase = d := by
    unfold VPlan.destBase
    rw [hd]
  have hds : p.dests = rowsOf d p.rc := by
    unfold VPlan.dests
    rw [hd]
    rfl
  have held : p.Held (s.hart s.cur) := fun src hs j hj =>
    ready.held _ (List.mem_flatMap.2 ⟨src, hs, List.mem_map.2 ⟨j, List.mem_range.2 hj, rfl⟩⟩)
  rw [runV_done c w (hb ▸ ready.fresh) (hds ▸ ready.free) (by rw [hg]; intro g h; exact absurd h (List.not_mem_nil)) held]
  obtain ⟨b1, b2, b3⟩ := begin_rows hd (List.range p.rc) (s.hart s.cur)
  obtain ⟨r1, r2, r3, r4⟩ := fold_rows hd _ law (List.range p.rc) List.nodup_range
    (((List.range p.rc).foldl p.beginRow (s.hart s.cur)).charge p.beats)
  generalize hx : (List.range p.rc).foldl p.beginRow (s.hart s.cur) = x at *
  generalize hy : (List.range p.rc).foldl (fun a j => p.endRow (p.row j 0 p.vl a) j) (x.charge p.beats) = y at *
  have cv : ∀ n, (x.charge p.beats).rv n = x.rv n := fun _ => rfl
  have cf : (x.charge p.beats).fflags = x.fflags := rfl
  simp only [cv, cf] at r1 r2 r3
  have pcy : y.pc = (s.hart s.cur).pc := by
    have q := congrArg (fun z : Hart => z.pc) r4
    have q2 := congrArg (fun z : Hart => z.pc) b3
    exact q.trans q2
  have fresh : y.resumeAt p.destBase = none := by
    rw [hb, ← ready.fresh]
    have q := congrArg (fun z : Hart => z.resumeAt d) r4
    have q2 := congrArg (fun z : Hart => z.resumeAt d) b3
    exact q.trans q2
  rw [clearResume_fresh fresh]
  refine ⟨y.addFlags p.sflags, ?_, fun j hj => ?_, fun n hn => ?_, fun n => ?_, ?_⟩
  · have e : (((s.setHart s.cur (y.addFlags p.sflags)).hart s.cur).pc) = (s.hart s.cur).pc := by
      rw [State.setHart_hart, if_pos rfl]
      exact pcy
    unfold State.retire
    rw [e]
    exact retires_of_modHart s s.cur (fun _ => y.addFlags p.sflags) c _ _
  · exact (r1 j (List.mem_range.2 hj)).trans (by rw [b1])
  · exact (r2 n fun j hj => hn j (List.mem_range.1 hj)).trans (b2 n fun j hj => hn j (List.mem_range.1 hj))
  · have e : (y.addFlags p.sflags).fflags = y.fflags ||| p.sflags := rfl
    have fx : x.fflags = (s.hart s.cur).fflags := by
      have q := congrArg (fun z : Hart => z.fflags) b3
      exact q
    rw [e, BitVec.getLsbD_or, Bool.or_eq_true, r3, fx]
    simp only [List.mem_range, b1]
    constructor
    · rintro ((h | h) | h)
      · exact .inl h
      · exact .inr (.inr h)
      · exact .inr (.inl h)
    · rintro (h | h | h)
      · exact .inl (.inl h)
      · exact .inr h
      · exact .inl (.inr h)
  · have h4 := congrArg (fun z : Hart => { z with
      v := (s.hart s.cur).v, fflags := (s.hart s.cur).fflags, spent := (s.hart s.cur).spent }) r4
    have h5 := congrArg (fun z : Hart => { z with
      v := (s.hart s.cur).v, fflags := (s.hart s.cur).fflags, spent := (s.hart s.cur).spent }) b3
    exact h4.trans h5

/-- The same for a plan whose rows are written element by element. -/
theorem runV_elems {s : State} {p : VPlan} (c : Ctl) (w : BitVec 13) {d : Nat} {tag : Nat → BitVec 16}
    (hd : p.dest = some (d, tag)) (hg : p.gdest = [])
    (ready : s.VReady d (rowsOf d p.rc) (p.srcs.flatMap fun src => rowsOf src.base p.rc))
    {wd : Nat → Nat} {act : Nat → Bool} {f : Nat → Nat → Nat × BitVec 5}
    (hrow : ∀ j x, p.row j 0 p.vl x = writeRow d (wd j) act f j 0 p.vl x)
    (fit : ∀ j < p.rc, ∀ e < p.vl, wd j * e + wd j ≤ 8192) :
    ∃ a, Retires s (s.runV c w p) s.cur c (w ||| p.wf) ((s.hart s.cur).pc + 12) a
      ∧ VWrites (s.hart s.cur) a d p.rc wd tag p.sflags
          fun j e => if e < p.vl ∧ act e = true then some (f j e) else none := by
  obtain ⟨a, h1, h2, h3, h4, h5⟩ := runV_writes c w hd hg ready
    (data := fun j m => (foldElems (wd j) (fun e => if act e then some (f j e) else none) (spanOf 0 p.vl) (m, 0)).1)
    (fl := fun j m => (foldElems (wd j) (fun e => if act e then some (f j e) else none) (spanOf 0 p.vl) (m, 0)).2)
    ⟨fun j x => hrow j x⟩
  have mem : ∀ e, e ∈ spanOf 0 p.vl ↔ e < p.vl := fun e => mem_spanOf.trans (by omega)
  refine ⟨a, h1, fun j hj e he => ?_, fun j hj => ?_, h3, fun n => ?_, h5⟩
  · rw [h2 j hj]
    simp only
    rw [foldElems_elem _ _ _ _ _ _ (fun e he => fit j hj e ((mem e).1 he)) he]
    by_cases hv : e < p.vl
    · rw [if_pos ((mem e).2 hv)]
      by_cases ha : act e = true
      · rw [if_pos ha, if_pos ⟨hv, ha⟩]
      · rw [if_neg ha, if_neg fun h => ha h.2]
    · rw [if_neg fun h => hv ((mem e).1 h), if_neg fun h => hv h.1]
  · rw [h2 j hj]
    exact ⟨rfl, rfl, rfl, rfl⟩
  · rw [h4 n]
    have z : (0 : BitVec 5).getLsbD n = false := BitVec.getLsbD_zero
    simp only [foldElems_flag, mem, z, Bool.false_eq_true, false_or]
    constructor
    · rintro (h | h | ⟨j, hj, e, he, v, g, hf, hn⟩)
      · exact .inl h
      · exact .inr (.inl h)
      · refine .inr (.inr ⟨j, hj, e, v, g, ?_, hn⟩)
        split at hf
        · rename_i ha
          rw [if_pos ⟨he, ha⟩]
          exact hf
        · cases hf
    · rintro (h | h | ⟨j, hj, e, v, g, hf, hn⟩)
      · exact .inl h
      · exact .inr (.inl h)
      · split at hf
        · rename_i ha
          exact .inr (.inr ⟨j, hj, e, ha.1, v, g, by rw [if_pos ha.2]; exact hf, hn⟩)
        · cases hf

end Sys2Proof.Machine
end

