-- ==== Sys2Proof/Laws/Shapes.lean ====
section
/-! SUPPORT. What the shapes that vector instructions share do when nothing stops them. -/

namespace Sys2Proof.Machine

theorem elem_lt (a : Hart) (v w e : Nat) : a.elem v w e < 2 ^ w := Nat.mod_lt _ (Nat.two_pow_pos w)

/-- An instruction with no resume point reads the hart as it is. -/
theorem reader_fresh {s : State} {d : Nat} (f : (s.hart s.cur).resumeAt d = none) : s.reader d = s.hart s.cur := by
  unfold State.reader Hart.asIssued
  rw [f]

/-- Tag checks that hold are passed. -/
theorem withTags_ok (s : State) (d : Nat) (cs : List TagCheck) (k : State) (f : (s.hart s.cur).resumeAt d = none)
    (h : ∀ x ∈ cs, x.ok ((s.hart s.cur).rv x.v).tag = true) : s.withTags d cs k = k := by
  have : ∀ l : List TagCheck, (∀ x ∈ l, x.ok ((s.hart s.cur).rv x.v).tag = true) → (s.hart s.cur).fmtCheck 0 l = none := by
    intro l
    induction l with
    | nil => intro _; rfl
    | cons x r ih =>
      intro hx
      unfold Hart.fmtCheck
      rw [hx x List.mem_cons_self, Bool.or_true, if_pos rfl]
      exact ih fun y hy => hx y (List.mem_cons_of_mem _ hy)
  unfold State.withTags
  simp only [reader_fresh f, f, this cs h]

theorem widest_ge (ts : List Fmt) (t : Fmt) (ht : t ∈ ts) : fmtWidth t ≤ widestOf ts := by
  have key : ∀ (l : List Fmt) (m : Nat), m ≤ l.foldl (fun m t => max m (if t = .raw then 8 else fmtWidth t)) m
      ∧ ∀ t ∈ l, fmtWidth t ≤ l.foldl (fun m t => max m (if t = .raw then 8 else fmtWidth t)) m := by
    intro l
    induction l with
    | nil => intro m; exact ⟨Nat.le_refl _, fun t h => absurd h List.not_mem_nil⟩
    | cons x r ih =>
      intro m
      simp only [List.foldl_cons]
      obtain ⟨h1, h2⟩ := ih (max m (if x = .raw then 8 else fmtWidth x))
      refine ⟨by omega, fun t ht => ?_⟩
      rcases List.mem_cons.1 ht with rfl | ht
      · by_cases hr : t = .raw
        · rw [hr]
          exact Nat.zero_le _
        · rw [if_neg hr] at *
          omega
      · exact h2 t ht
  exact (key ts 0).2 t ht

theorem rowChecks_ok {h : Hart} {base rc field : Nat} {ok : Nat → BitVec 16 → Bool}
    (H : ∀ j < rc, ok j (h.rv (base + j)).tag = true) : ∀ x ∈ rowChecks base rc field ok, x.ok (h.rv x.v).tag = true := by
  intro x hx
  obtain ⟨j, hj, rfl⟩ := List.mem_map.1 hx
  exact H j (List.mem_range.1 hj)

/-- An element below the clamped VL lies inside the register. -/
theorem vlAt_fit (h : Hart) (wd w e : Nat) (hw : w ≤ wd) (he : e < h.vlAt wd) : w * e + w ≤ 8192 := by
  unfold Hart.vlAt at he
  have h1 : e + 1 ≤ 8192 / wd := by omega
  have h2 : w * (e + 1) ≤ wd * (8192 / wd) := Nat.mul_le_mul hw h1
  have h3 := Nat.mul_div_le 8192 wd
  rw [Nat.mul_add, Nat.mul_one] at h2
  omega

theorem act_iff (g : PData) (vl e : Nat) : (e < vl ∧ actAt g vl e = true) ↔ (e < vl ∧ g.getLsbD e = true) := by
  unfold actAt
  by_cases h : e < vl <;> simp [h]

/-- An instruction that runs a plan of active elements, where nothing stops it. -/
theorem writes_active {i : Instr} {s : State} {c : Ctl} {w : BitVec 13} {p : VPlan} {d : Nat} {tag : Nat → BitVec 16}
    {wd : Nat → Nat} {g : PData} {f : Nat → Nat → Nat × BitVec 5} (e : exec i s = .next (s.runV c w p))
    (hd : p.dest = some (d, tag)) (hg : p.gdest = [])
    (hrow : ∀ j x, p.row j 0 p.vl x = writeRow d (wd j) (actAt g p.vl) f j 0 p.vl x)
    (ready : s.VReady d (rowsOf d p.rc) (p.srcs.flatMap fun src => rowsOf src.base p.rc))
    (fit : ∀ j < p.rc, ∀ e < p.vl, wd j * e + wd j ≤ 8192) :
    WritesV i s c (w ||| p.wf) d p.rc wd tag p.sflags fun j e => if e < p.vl ∧ g.getLsbD e = true then some (f j e) else none := by
  obtain ⟨A, h1, h2⟩ := runV_elems (s := s) (d := d) c w hd hg ready hrow fit
  refine ⟨A, ⟨_, e, h1⟩, ?_⟩
  simp only [act_iff] at h2
  exact h2

/-- The same for a plan of every element below VL. -/
theorem writes_all {i : Instr} {s : State} {c : Ctl} {w : BitVec 13} {p : VPlan} {d : Nat} {tag : Nat → BitVec 16}
    {wd : Nat → Nat} {f : Nat → Nat → Nat × BitVec 5} (e : exec i s = .next (s.runV c w p))
    (hd : p.dest = some (d, tag)) (hg : p.gdest = [])
    (hrow : ∀ j x, p.row j 0 p.vl x = writeRow d (wd j) (fun _ => true) f j 0 p.vl x)
    (ready : s.VReady d (rowsOf d p.rc) (p.srcs.flatMap fun src => rowsOf src.base p.rc))
    (fit : ∀ j < p.rc, ∀ e < p.vl, wd j * e + wd j ≤ 8192) :
    WritesV i s c (w ||| p.wf) d p.rc wd tag p.sflags fun j e => if e < p.vl then some (f j e) else none := by
  obtain ⟨A, h1, h2⟩ := runV_elems (s := s) (d := d) c w hd hg ready hrow fit
  refine ⟨A, ⟨_, e, h1⟩, ?_⟩
  simp only [and_true] at h2
  exact h2

/-- The arithmetic shape: what it writes where every tag check holds. -/
theorem vArith_writes {s : State} {c : Ctl} {mods : BitVec 6} {d a : VReg} {b : Option VXI} {third : Bool} {ok : Fmt → Bool}
    {f : Rnd → Fmt → Nat → Nat → Nat → Nat × BitVec 5} {i : Instr} (e : exec i s = .next (s.vArith c mods d a b third ok f)) :
    Elementwise i s c mods d a b third ok f := by
  intro ad ready tags
  unfold State.vArith vHead at e
  simp only [reader_fresh ready.fresh] at e
  rw [State.issue_admits ad, withTags_ok] at e
  · refine writes_active e rfl rfl (fun j x => rfl) ⟨ready.fresh, ready.free, fun v hv => ready.held v ?_⟩ ?_
    · simp only [List.flatMap_cons, List.flatMap_append, List.mem_append, List.flatMap_map, Hart.src] at hv ⊢
      refine hv.imp id (Or.imp id fun h => ?_)
      cases third <;> exact h
    · exact fun j hj e he => vlAt_fit _ _ _ _ (widest_ge _ _ (List.mem_map.2 ⟨j, List.mem_range.2 hj, rfl⟩)) he
  · exact ready.fresh
  · intro x hx
    simp only [List.mem_append, List.mem_flatMap] at hx
    rcases hx with (hx | ⟨r, hr, hx⟩) | hx
    · exact rowChecks_ok (fun j hj => (tags j hj).1) x hx
    · exact rowChecks_ok (fun j hj => decide_eq_true ((tags j hj).2.1 r hr)) x hx
    · cases third
      · exact absurd hx List.not_mem_nil
      · exact rowChecks_ok (fun j hj => decide_eq_true ((tags j hj).2.2 rfl)) x hx

/-- The bitwise shape. -/
theorem vBits_writes {s : State} {c : Ctl} {d a : VReg} {b : Option VXI} {ok : Nat → Bool} {k : Hart → Nat → BitVec 16 → Bool}
    {f : Nat → Nat → Nat → Nat} {i : Instr} (e : exec i s = .next (s.vBits c d a b k f))
    (hk : ∀ j, k (s.hart s.cur) j ((s.hart s.cur).rv (a.toNat + j)).tag = ok j) : BitwiseRows i s c d a b ok f := by
  intro ad ready tags
  unfold State.vBits vHead at e
  simp only [reader_fresh ready.fresh] at e
  rw [State.issue_admits ad, withTags_ok] at e
  · have q := writes_active e rfl rfl (fun j x => rfl) ⟨ready.fresh, ready.free, fun v hv => ready.held v ?_⟩ ?_
    · exact q
    · simp only [List.flatMap_cons, List.mem_append, List.flatMap_map, List.map_cons] at hv ⊢
      exact hv
    · exact fun j hj e he => vlAt_fit _ _ _ _ (widest_ge _ _ (List.mem_map.2 ⟨j, List.mem_range.2 hj, rfl⟩)) he
  · exact ready.fresh
  · exact fun x hx => rowChecks_ok (fun j hj => (hk j).trans (tags j hj)) x hx

/-- The shape of a conversion between rows. -/
theorem vConv_writes {s : State} {c : Ctl} {hd : Head} {d a : VReg} {ok : Fmt → Bool} {tag : Nat → BitVec 16}
    {wf : List Fmt → BitVec 13} {f : Hart → Nat → Nat → Nat → Nat × BitVec 5} {i : Instr}
    (e : exec i s = .next (s.vConv c hd d a ok tag wf f)) (ad : s.Admits c hd)
    (ready : s.VReady d.toNat (rowsOf d.toNat (s.hart s.cur).rc) (rowsOf a.toNat (s.hart s.cur).rc))
    (tags : ∀ j < (s.hart s.cur).rc, ok ((s.hart s.cur).rowFmt a.toNat j) = true) :
    let h := s.hart s.cur
    let wd := max (widestOf (h.rowFmts a.toNat)) (widestOf ((List.range h.rc).map fun j => tagFmt (tag j)))
    WritesV i s c (hd.flags c ||| (wfIf 0 (h.vlClamps wd) ||| wf (h.rowFmts a.toNat))) d.toNat h.rc
      (fun j => fmtWidth (tagFmt (tag j))) tag 0 fun j e =>
        if e < h.vlAt wd ∧ (h.guard c).getLsbD e = true then
          some (f h j e (h.elem (a.toNat + j) (fmtWidth (h.rowFmt a.toNat j)) e))
        else none := by
  unfold State.vConv at e
  simp only [reader_fresh ready.fresh] at e
  rw [State.issue_admits ad, withTags_ok] at e
  · refine writes_active e rfl rfl (fun j x => rfl) ⟨ready.fresh, ready.free, fun v hv => ready.held v ?_⟩ ?_
    · simpa [Hart.src] using hv
    · exact fun j hj e he => vlAt_fit _ _ _ _ (Nat.le_trans (widest_ge _ _ (List.mem_map.2 ⟨j, List.mem_range.2 hj, rfl⟩))
        (Nat.le_max_right _ _)) he
  · exact ready.fresh
  · exact fun x hx => rowChecks_ok tags x hx

/-- The shape of elements made from a scalar. -/
theorem vMake_writes {s : State} {c : Ctl} {mods : BitVec 6} {d : VReg} {t : Fmt} {wf : BitVec 13} {f : Hart → Nat → Nat}
    {fl : Hart → BitVec 5} {i : Instr} (e : exec i s = .next (s.vMake c mods d t wf f fl))
    (ad : s.Admits c { vs := [d], mods := mods, elem := true })
    (ready : s.VReady d.toNat (rowsOf d.toNat (s.hart s.cur).rc) []) :
    let h := s.hart s.cur
    let vl := h.vlAt (fmtWidth t)
    WritesV i s c (Head.flags { vs := [d], mods := mods, elem := true } c ||| (wfIf 0 (h.vlClamps (fmtWidth t)) ||| wf)) d.toNat h.rc
      (fun _ => fmtWidth t) (fun _ => plainTag t) (if (activeElems (h.guard c) vl).isEmpty then 0 else fl h) fun _ e =>
        if e < vl ∧ (h.guard c).getLsbD e = true then some (f h e, 0) else none := by
  unfold State.vMake at e
  simp only [reader_fresh ready.fresh] at e
  rw [State.issue_admits ad] at e
  exact writes_active e rfl rfl (fun j x => rfl) ⟨ready.fresh, ready.free, fun v hv => absurd hv List.not_mem_nil⟩
    fun j hj e he => vlAt_fit _ _ _ _ (Nat.le_refl _) he

/-- The shape of whole registers copied in pieces of 128 bits. -/
theorem vWhole_writes {s : State} {c : Ctl} {w : BitVec 13} {d : Nat} {srcs : List VSrc} {tag : Nat → BitVec 16}
    {data : Hart → Nat → VData} {wf : BitVec 13} {i : Instr} (e : exec i s = .next (s.vWhole c w d srcs tag data wf))
    (ready : s.VReady d (rowsOf d (s.hart s.cur).rc) (srcs.flatMap fun src => rowsOf src.base (s.hart s.cur).rc)) :
    WritesV i s c (w ||| wf) d (s.hart s.cur).rc (fun _ => 128) tag 0 fun j e =>
      if e < 64 then some (elemAt (data (s.hart s.cur) j) 128 e, 0) else none := by
  unfold State.vWhole at e
  simp only [reader_fresh ready.fresh] at e
  exact writes_all e rfl rfl (fun j x => rfl) ready fun j hj e he => (by simp only at he; omega)

/-- Elements written from a list: the last entry of a place holds; a place without one keeps its value. -/
theorem foldl_setElem (w : Nat) (es : List (Nat × Nat)) (m : VData) (k : Nat) (hk : w * k + w ≤ 8192)
    (fit : ∀ p ∈ es, w * p.1 + w ≤ 8192) (val : Nat → Option Nat) (h1 : ∀ p ∈ es, val p.1 = some p.2) :
    elemAt (es.foldl (fun m e => setElem m w e.1 e.2) m) w k =
      if k ∈ es.map Prod.fst then (match val k with | some v => v % 2 ^ w | none => elemAt m w k) else elemAt m w k := by
  induction es generalizing m with
  | nil => rfl
  | cons p r ih =>
    rw [List.foldl_cons, ih _ (fun q hq => fit q (List.mem_cons_of_mem _ hq)) (fun q hq => h1 q (List.mem_cons_of_mem _ hq)),
      elemAt_setElem _ _ _ _ _ (fit p List.mem_cons_self) hk]
    have hp := h1 p List.mem_cons_self
    by_cases hr : k ∈ r.map Prod.fst
    · obtain ⟨q, hq, rfl⟩ := List.mem_map.1 hr
      have := h1 q (List.mem_cons_of_mem _ hq)
      simp [hr, this]
    · by_cases hkp : k = p.1
      · subst hkp
        simp [hr, hp]
      · simp [hr, hkp]

/-- A plan whose rows are written from lists: what `val` says holds, where it agrees with the lists. -/
theorem writes_list {i : Instr} {s : State} {c : Ctl} {w : BitVec 13} {p : VPlan} {d : Nat} {tag : Nat → BitVec 16}
    {dw : Nat → Nat} {out : Nat → List (Nat × Nat) × BitVec 5} (e : exec i s = .next (s.runV c w p))
    (hd : p.dest = some (d, tag)) (hg : p.gdest = []) (hs : p.sflags = 0)
    (hrow : ∀ j x, p.row j 0 p.vl x = (x.wv (d + j) { x.rv (d + j) with
      data := (out j).1.foldl (fun m e => setElem m (dw j) e.1 e.2) (x.rv (d + j)).data }).addFlags (out j).2)
    (ready : s.VReady d (rowsOf d p.rc) (p.srcs.flatMap fun src => rowsOf src.base p.rc))
    (val : Nat → Nat → Option (Nat × BitVec 5))
    (listed : ∀ j < p.rc, ∀ q ∈ (out j).1, dw j * q.1 + dw j ≤ 8192 ∧ (val j q.1).map Prod.fst = some q.2)
    (only : ∀ j < p.rc, ∀ k x, val j k = some x → ∃ v, (k, v) ∈ (out j).1)
    (flags : ∀ j < p.rc, ∀ n, (out j).2.getLsbD n = true ↔ ∃ k v f, val j k = some (v, f) ∧ f.getLsbD n = true) :
    WritesV i s c (w ||| p.wf) d p.rc dw tag 0 val := by
  have law : RowLaw d (fun j a => p.row j 0 p.vl a)
      (fun j m => (out j).1.foldl (fun m e => setElem m (dw j) e.1 e.2) m) (fun j _ => (out j).2) := ⟨hrow⟩
  obtain ⟨a, h1, h2, h3, h4, h5⟩ := runV_writes (s := s) c w hd hg ready law
  refine ⟨a, ⟨_, e, h1⟩, fun j hj k hk => ?_, fun j hj => ?_, h3, fun n => ?_, h5⟩
  · rw [h2 j hj]
    simp only
    rw [foldl_setElem _ _ _ _ hk (fun p hp => (listed j hj p hp).1) (fun k => (val j k).map Prod.fst)
      (fun p hp => (listed j hj p hp).2)]
    cases hv : val j k with
    | none =>
      simp only [Option.map_none]
      split <;> rfl
    | some x =>
      obtain ⟨v, hm⟩ := only j hj k x hv
      have : k ∈ (out j).1.map Prod.fst := List.mem_map.2 ⟨_, hm, rfl⟩
      rw [if_pos this]
      rfl
  · rw [h2 j hj]
    exact ⟨rfl, rfl, rfl, rfl⟩
  · rw [h4 n, hs]
    have z : (0 : BitVec 5).getLsbD n = false := BitVec.getLsbD_zero
    simp only [z, Bool.false_eq_true, false_or]
    constructor
    · rintro (h | ⟨j, hj, h⟩)
      · exact .inl h
      · exact .inr ⟨j, hj, (flags j hj n).1 h⟩
    · rintro (h | ⟨j, hj, h⟩)
      · exact .inl h
      · exact .inr ⟨j, hj, (flags j hj n).2 h⟩

/-- The shape of rows made whole. -/
theorem vRow_writes {s : State} {c : Ctl} {w : BitVec 13} {d : VReg} {srcs : List VSrc} {wd : Nat} {tag : Nat → BitVec 16}
    {wf : BitVec 13} {out : Nat → Nat → List (Nat × Nat) × BitVec 5} {i : Instr}
    (e : exec i s = .next (s.vRow c w d srcs wd tag wf out))
    (ready : s.VReady d.toNat (rowsOf d.toNat (s.hart s.cur).rc) (srcs.flatMap fun src => rowsOf src.base (s.hart s.cur).rc))
    (val : Nat → Nat → Option (Nat × BitVec 5))
    (listed : ∀ j < (s.hart s.cur).rc, ∀ p ∈ (out ((s.hart s.cur).vlAt wd) j).1,
      fmtWidth (tagFmt (tag j)) * p.1 + fmtWidth (tagFmt (tag j)) ≤ 8192 ∧ (val j p.1).map Prod.fst = some p.2)
    (only : ∀ j < (s.hart s.cur).rc, ∀ k x, val j k = some x → ∃ v, (k, v) ∈ (out ((s.hart s.cur).vlAt wd) j).1)
    (flags : ∀ j < (s.hart s.cur).rc, ∀ n, (out ((s.hart s.cur).vlAt wd) j).2.getLsbD n = true ↔
      ∃ k v f, val j k = some (v, f) ∧ f.getLsbD n = true) :
    WritesV i s c (w ||| (wfIf 0 ((s.hart s.cur).vlClamps wd) ||| wf)) d.toNat (s.hart s.cur).rc
      (fun j => fmtWidth (tagFmt (tag j))) tag 0 val := by
  unfold State.vRow at e
  simp only [reader_fresh ready.fresh] at e
  exact writes_list e rfl rfl rfl (fun j x => rfl) ready val listed only flags

end Sys2Proof.Machine
end

