-- ==== Sys2Proof/Tests/Slice0.lean ====
section
/-! SUPPORT. The model's own tests: ill-formed terms, words written out from the spec's encodings, single steps on small states, and
states that meet the hypotheses of the statements. -/

namespace Sys2Proof.Tests

set_option Elab.async false

open Sys2Proof Sys2Proof.Machine

/-- The control fields of a word with nothing but its MOD set. -/
def cm (m : BitVec 6) : Ctl := { mod := m, ginv := false, gpred := 0, yld := false, la := false, lb := false, prio := 0, rsv := 0 }

/-- A hart that runs at 0x2000 with a handler at 0x1000, VL = 4, a store guard over its whole tile store, and some values. -/
def tHart : Hart := { Hart.init with
  own := .running, pc := 0x2000, trapvec := 0x1000, trapvecF := 0x1000, vl := 4
  stguard := [(0, 0xB00007FFF0000000)]
  x := [(1, 7), (2, 0xFFFFFFFFFFFFFFFF), (3, 0x4000), (4, 0x8000000000000000), (5, 0x4000000000000000), (6, 1)] }

/-- The module after reset with hart 0 as given. -/
def at_ (a : Hart) : State := State.reset.setHart 0 a

/-- Hart 0 after one instruction. -/
def ran (i : Instr) (s : State) : Hart := match exec i s with | .next t => t.hart 0 | _ => .init

/-- The state after one instruction. -/
def after (i : Instr) (s : State) : State := match exec i s with | .next t => t | _ => s

/-! ### Ill-formed terms are refused -/

theorem test_wf_li : Instr.wf (.li (cm 1) 1 5) = false := by decide
theorem test_wf_loop : Instr.wf (.loop (cm 0) 0 5) = false := by decide
theorem test_wf_setvl : Instr.wf (.setvl (cm 0) 1 2 .raw) = false := by decide
theorem test_wf_rounding : Instr.wf (.vadd (cm 7) 1 2 (.i 0)) = false := by decide
theorem test_wf_predicate : Instr.wf (.pclr (cm 0) 96) = false := by decide
theorem test_wf_vcvt : Instr.wf (.vcvt (cm 0) 1 2 .raw) = false := by decide
theorem test_wf_vqnt : Instr.wf (.vqnt (cm 0) 1 2 { fmt := .f32, grp := 0, scl := 0 }) = false := by decide
theorem test_wf_vdqnt : Instr.wf (.vdqnt (cm 0) 1 2 .i8) = false := by decide
theorem test_wf_vsmax : Instr.wf (.vsmax (cm 0) 1 2 { fmt := .i8, grp := 0, scl := 0 }) = false := by decide
theorem test_wf_vtag : Instr.wf (.vtag (cm 0) 1 2 { fmt := .q4, grp := 3, scl := 0 }) = false := by decide
theorem test_wf_vsplat : Instr.wf (.vsplat (cm 0) 1 (.i 0) .mx4) = false := by decide
theorem test_wf_viota : Instr.wf (.viota (cm 0) 1 (.i 0) .f32) = false := by decide
theorem test_wf_vshfl : Instr.wf (.vshfl (cm 0) 1 2 (.i 0xFFFF)) = false := by decide
theorem test_wf_tshape : Instr.wf (.tshape (cm 0) 1 2 .raw) = false := by decide
theorem test_wf_mcvt : Instr.wf (.mcvt (cm 7) 1 2 (.i 0)) = false := by decide
theorem test_wf_scope : Instr.wf (.lda (cm 3) 1 { base := 2, off := 0 }) = false := by decide
theorem test_wf_load_format : Instr.wf (.vlds (cm 0x1F) 1 { base := 2, off := 0 } (.i 8)) = false := by decide
theorem test_wf_stopen : Instr.wf (.stopen (cm 0) 0 1 (.i 3)) = false := by decide
theorem test_wf_stclose : Instr.wf (.stclose (cm 0) 0) = false := by decide
theorem test_wf_sfence : Instr.wf (.sfence (cm 0) { slot := 3, last := true }) = false := by decide
theorem test_wf_jrd : Instr.wf (.jrd (cm 0) 1 (.i 0) 3) = false := by decide
theorem test_wf_cas128 : Instr.wf (.cas128 (cm 0) 3 { base := 2, off := 0 } 6) = false := by decide
theorem test_wf_recv : Instr.wf (.recv (cm 0) 1 2 (some 96)) = false := by decide

/-! ### Words written out from the spec's encodings (03 R81, R83, R86, R87; 04 R109, R113 to R122, R125, R128 to R138; 05 R151 to R178; 06
R181; 07 R209 to R212, R222, R223, R227, R228, R231, R235, R239): OPC, SUB, MOD, no guard and no hint, then D, A and B -/

/-- Each word decodes to the instruction it stands for. -/
def reads (l : List (Nat × Instr)) : Bool :=
  l.all fun p => match decode (BitVec.ofNat 96 p.1) with | .ok i => decide (i = p.2) | .error _ => false

theorem test_words_integer_1 : reads [
    (0x010200000000090000A9FFFD, .add (cm 0x20) 9 10 (.i 0x1FFFD)),
    (0x020200000000090000A9FFFD, .sub (cm 0x20) 9 10 (.i 0x1FFFD)),
    (0x030200000000090000A9FFFD, .mul (cm 0x20) 9 10 (.i 0x1FFFD)),
    (0x040200000000090000A9FFFD, .mulh (cm 0x20) 9 10 (.i 0x1FFFD)),
    (0x050200000000090000A9FFFD, .div (cm 0x20) 9 10 (.i 0x1FFFD)),
    (0x060200000000090000A9FFFD, .rem (cm 0x20) 9 10 (.i 0x1FFFD)),
    (0x070200000000090000A9FFFD, .and (cm 0x20) 9 10 (.i 0x1FFFD)),
    (0x070600000000090000A9FFFD, .or (cm 0x20) 9 10 (.i 0x1FFFD)),
    (0x070A00000000090000A9FFFD, .xor (cm 0x20) 9 10 (.i 0x1FFFD)),
    (0x070E00000000090000A9FFFD, .andn (cm 0x20) 9 10 (.i 0x1FFFD)),
    (0x071200000000090000A9FFFD, .orn (cm 0x20) 9 10 (.i 0x1FFFD)),
    (0x080200000000090000A9FFFD, .shl (cm 0x20) 9 10 (.i 0x1FFFD)),
    (0x080600000000090000A9FFFD, .shr (cm 0x20) 9 10 (.i 0x1FFFD)),
    (0x080A00000000090000A9FFFD, .sha (cm 0x20) 9 10 (.i 0x1FFFD))] = true := by decide

theorem test_words_integer_2 : reads [
    (0x080E00000000090000A9FFFD, .rot (cm 0x20) 9 10 (.i 0x1FFFD)),
    (0x090200000000090000A9FFFD, .min (cm 0x20) 9 10 (.i 0x1FFFD)),
    (0x090600000000090000A9FFFD, .max (cm 0x20) 9 10 (.i 0x1FFFD))] = true := by decide

theorem test_words_bits_1 : reads [
    (0x0A0000000000090000A00000, .abs (cm 0) 9 10),
    (0x0A0400000000090000A00000, .neg (cm 0) 9 10),
    (0x0A0800000000090000A00000, .clz (cm 0) 9 10),
    (0x0A0C00000000090000A00000, .ctz (cm 0) 9 10),
    (0x0A1000000000090000A00000, .popc (cm 0) 9 10),
    (0x0A1400000000090000A00000, .brev (cm 0) 9 10),
    (0x0A1800000000090000A00000, .bswap (cm 0) 9 10),
    (0x0B0000000000090000A802CC, .ext (cm 0) 9 10 (.i 716)),
    (0x0B0400000000090000A802CC, .ins (cm 0) 9 10 (.i 716)),
    (0x0B0800000000090000A8001F, .sext (cm 0) 9 10 (.i 31)),
    (0x0B0C00000000090000A8001F, .zext (cm 0) 9 10 (.i 31)),
    (0x0C0800000000090000A0000B, .setc (cm 0) .lt 9 10 (.x 11)),
    (0x0D0000000000090000A0000B, .sel (cm 0) 9 10 (.x 11)),
    (0x0E000000000009FFFFFFFFFE, .li (cm 0) 9 0xFFFFFFFFFE)] = true := by decide

theorem test_words_bits_2 : reads [
    (0x0F0000000000090000ABCDEF, .lih (cm 0) 9 0xABCDEF),
    (0x10000000000009E3FFC0000B, .lea (cm 0) 9 { base := 3, off := 0xFFC } 11),
    (0x110000000000099FFFF00000, .addpc (cm 0) 9 0x1FFFF)] = true := by decide

theorem test_words_control : reads [
    (0x122400000000090000A9FFFD, .bCond (cm 0) .leu 9 (.x 10) 0x1FFFD),
    (0x130000000000098000600000, .bz (cm 0) 9 6),
    (0x140000000000098000600000, .bnz (cm 0) 9 6),
    (0x150000000800060000000000, .j (cm 0) 6),
    (0x160000000000098000600000, .jal (cm 0) 9 6),
    (0x170000000000090000A80008, .jr (cm 0) 9 10 (.i 8)),
    (0x180200000000099FFFE00000, .loop (cm 0x20) 9 0x1FFFE),
    (0x190000000000090000A8000F, .setvl (cm 0) 9 10 .f32),
    (0x1A0000000000098FFFF80005, .setvli (cm 0) 9 0xFFFF .i4),
    (0x1B0000000000098000800000, .setrc (cm 0) 9 (.i 3)),
    (0x1C0000000000000000000000, .nop (cm 0)),
    (0x1D0000000000000000000000, .yield (cm 0)),
    (0x1E00000008FFFF0000000000, .pause (cm 0) 0xFFFF)] = true := by decide

theorem test_words_system : reads [
    (0x2000000009FFFF0000000000, .trap (cm 0) 0x1FFFF),
    (0x220000000800070000000000, .brk (cm 0) 7),
    (0x210200000000000000000000, .tret (cm 0x20)),
    (0x23000000000009A0FFF00000, .crd (cm 0) 9 0xFFF),
    (0x240000000A00050000A00000, .cwr (cm 0) 5 (.x 10)),
    (0x250000000A00059FFFF00000, .cset (cm 0) 5 (.i 0x1FFFF)),
    (0x260000000A00058000100000, .cclr (cm 0) 5 (.i 1)),
    (0x270000000000000000000000, .isync (cm 0)),
    (0x280000000800FF0000000000, .gate (cm 0) 255),
    (0x290000000000000000000000, .gret (cm 0)),
    (0x2A0000000000000000000000, .halt (cm 0)),
    (0x2B0000000000000000000000, .step (cm 0)),
    (0x2C0200000000090000A00000, .timewait (cm 0x20) 9 (.x 10))] = true := by decide

theorem test_words_vector_arithmetic_1 : reads [
    (0x30004000020008200102003F, .vadd (cm 4) 8 16 (.v 63)),
    (0x31004000020008200102003F, .vsub (cm 4) 8 16 (.v 63)),
    (0x32004000020008200102003F, .vmul (cm 4) 8 16 (.v 63)),
    (0x33004000020008200102003F, .vmad (cm 4) 8 16 (.v 63)),
    (0x34004000020008200102003F, .vmsb (cm 4) 8 16 (.v 63)),
    (0x35004000020008200102003F, .vnmad (cm 4) 8 16 (.v 63)),
    (0x36004000020008200102003F, .vdiv (cm 4) 8 16 (.v 63)),
    (0x370010000200082001000000, .vsqrt (cm 1) 8 16),
    (0x380010000200082001000000, .vrcp (cm 1) 8 16),
    (0x390010000200082001000000, .vrsq (cm 1) 8 16),
    (0x3A0010000200082001000000, .vexp2 (cm 1) 8 16),
    (0x3B0010000200082001000000, .vlog2 (cm 1) 8 16),
    (0x3C000000020008200109FFFF, .vmin (cm 0) 8 16 (.i 0x1FFFF)),
    (0x3D000000020008200109FFFF, .vmax (cm 0) 8 16 (.i 0x1FFFF))] = true := by decide

theorem test_words_vector_arithmetic_2 : reads [
    (0x40000000020008200109FFFF, .vand (cm 0) 8 16 (.i 0x1FFFF)),
    (0x41000000020008200109FFFF, .vor (cm 0) 8 16 (.i 0x1FFFF)),
    (0x42000000020008200109FFFF, .vxor (cm 0) 8 16 (.i 0x1FFFF)),
    (0x44000000020008200109FFFF, .vshl (cm 0) 8 16 (.i 0x1FFFF)),
    (0x45000000020008200109FFFF, .vshr (cm 0) 8 16 (.i 0x1FFFF)),
    (0x46000000020008200109FFFF, .vsha (cm 0) 8 16 (.i 0x1FFFF)),
    (0x48000000020008200109FFFF, .vsel (cm 0) 8 16 (.i 0x1FFFF)),
    (0x3E0000000200082001000000, .vabs (cm 0) 8 16),
    (0x3F0000000200082001000000, .vneg (cm 0) 8 16),
    (0x430000000200082001000000, .vnot (cm 0) 8 16),
    (0x4728000004005F200100001F, .vcmp (cm 0) .uo 95 16 (.x 31)),
    (0x47200000040008200100001F, .vcmp (cm 0) (.base .gtu) 8 16 (.x 31)),
    (0x4900000004000820010803FF, .vclass (cm 0) 8 16 0x3FF)] = true := by decide

theorem test_words_vector_moves_1 : reads [
    (0x4A03C000020008200108000E, .vcvt (cm 0x3C) 8 16 .bf16),
    (0x4B000000020008200108B520, .vqnt (cm 0) 8 16 { fmt := .q4, grp := 2, scl := 9 }),
    (0x4C0000000200082001080010, .vdqnt (cm 0) 8 16 .f64),
    (0x4D000000060048200108A000, .vsmax (cm 0) 8 16 { fmt := .mx8a, grp := 0, scl := 0 }),
    (0x4E000000020008200108ABE0, .vtag (cm 0) 8 16 { fmt := .mx8b, grp := 1, scl := 15 }),
    (0x4F0000000200089FFFF8000C, .vsplat (cm 0) 8 (.i 0x1FFFF) .e5m2),
    (0x500000000200082001000000, .vmovV (cm 0) 8 16),
    (0x500000000600482001000000, .vmovGFromV (cm 0) 8 16),
    (0x500000000200106004800000, .vmovVFromG (cm 0) 16 8),
    (0x510000000200080000A80004, .viota (cm 0) 8 (.x 10) .i64),
    (0x52010000000009200100000A, .vext (cm 0x10) 9 16 (.x 10)),
    (0x530000000200080000980003, .vins (cm 0) 8 9 (.i 3)),
    (0x540000000200082001000000, .vred (cm 0) .sum 8 16),
    (0x551400000200082001000000, .vscan (cm 0) .xor 8 16)] = true := by decide

theorem test_words_vector_moves_2 : reads [
    (0x560000000200082001020018, .vdot (cm 0) 8 16 24),
    (0x570200000200082001080FFF, .vtopk (cm 0x20) 8 16 (.i 0xFFF)),
    (0x58008000020008200100000A, .vsort (cm 8) 8 16 10),
    (0x68000000020008200109FFFF, .vslide (cm 0) 8 16 (.i 0x1FFFF)),
    (0x690000000200082001020018, .vperm (cm 0) 8 16 24),
    (0x6A038000020008200108B7FF, .vshfl (cm 0x38) 8 16 (.i 0xB7FF)),
    (0x6B000000020008200100000A, .vbcast (cm 0) 8 16 (.x 10)),
    (0x6C0000000200082001000000, .vcomp (cm 0) 8 16),
    (0x6D0000000200082001000000, .vexpd (cm 0) 8 16)] = true := by decide

theorem test_words_predicates : reads [
    (0x6000000004005F4000140002, .pand (cm 0) 95 1 2),
    (0x6004000004005F4000140002, .por (cm 0) 95 1 2),
    (0x6008000004005F4000140002, .pxor (cm 0) 95 1 2),
    (0x600C000004005F4000140002, .pandn (cm 0) 95 1 2),
    (0x6010000004005F4000100000, .pnot (cm 0) 95 1),
    (0x6014000004005F4000100000, .pmov (cm 0) 95 1),
    (0x610000000000094005F00000, .pcnt (cm 0) 9 95),
    (0x620000000000094005F00000, .pfirst (cm 0) 9 95),
    (0x630000000000094005F00000, .plast (cm 0) 9 95),
    (0x640000000400088000700000, .psetn (cm 0) 8 (.i 7)),
    (0x650000000400080000000000, .pclr (cm 0) 8),
    (0x66000000040008E300500000, .pld (cm 0) 8 { base := 3, off := 5 }),
    (0x670000000E30054000800000, .pst (cm 0) { base := 3, off := 5 } 8)] = true := by decide

theorem test_words_matrix : reads [
    (0x700000000000090000A80017, .tshape (cm 0) 9 10 .q8),
    (0x710000000600230000000000, .macq (cm 0) 3),
    (0x720000000600230000000000, .mrel (cm 0) 3),
    (0x730200000600230000000000, .mzero (cm 0x20) 3),
    (0x740100000600232000820010, .mma (cm 0x10) 3 8 16),
    (0x750080000600232000820010, .mrank (cm 8) 3 8 16),
    (0x760000000600230000000000, .mwait (cm 0) 3),
    (0x77000000020008600238000F, .mrd (cm 0) 8 3 (.i 15)),
    (0x78000000060023200080000A, .mwr (cm 0) 3 8 (.x 10)),
    (0x7902C000020008600238FF8F, .mcvt (cm 0x2C) 8 3 (.i 0xFF8F)),
    (0x7A0200000000096002300000, .mstat (cm 0x20) 9 3)] = true := by decide

theorem test_words_memory_1 : reads [
    (0x80038000000009E300500000, .ld (cm 0x38) 9 { base := 3, off := 5 }),
    (0x810100000E30050000AC001F, .st (cm 0x10) { base := 3, off := 5 } (.x 10) (some { slot := 15, last := true })),
    (0x82002000000009E300500000, .lda (cm 2) 9 { base := 3, off := 5 }),
    (0x830010000E30058000100000, .stl (cm 1) { base := 3, off := 5 } (.i 1)),
    (0xA0000000000009E300500000, .rld (cm 0) 9 { base := 3, off := 5 }),
    (0xA10000000E30050000A00000, .rst (cm 0) { base := 3, off := 5 } (.x 10) none),
    (0x84000000020008E300588860, .vld (cm 0) 8 { base := 3, off := 5 } { fmt := .mx4, grp := 0, scl := 3 }),
    (0x850000000E30052000800000, .vst (cm 0) { base := 3, off := 5 } 8 none),
    (0x8600F000020008E300580008, .vlds (cm 0xF) 8 { base := 3, off := 5 } (.i 8)),
    (0x870000000E3005200080000A, .vsts (cm 0) { base := 3, off := 5 } 8 (.x 10)),
    (0x88002000020008E300520010, .vgath (cm 2) 8 { base := 3, off := 5 } 16),
    (0x890000000E30052000820010, .vscat (cm 0) { base := 3, off := 5 } 8 16),
    (0xA20000000E300520008C0004, .rvst (cm 0) { base := 3, off := 5 } 8 (some { slot := 4, last := false })),
    (0x8A0000000200080000000000, .vresume (cm 0) 8)] = true := by decide

theorem test_words_memory_2 : reads [
    (0x8B0000000200080000000000, .piwait (cm 0) 8)] = true := by decide

theorem test_words_streams : reads [
    (0xA30000000C000F0000A800FF, .stopen (cm 0) 15 10 (.i 255)),
    (0xA40000000C000F0000000000, .stclose (cm 0) 15),
    (0xA50000000C00100000000000, .sfence (cm 0) { slot := 0, last := true }),
    (0xA60000000000000000000000, .fenceRel (cm 0) .sys),
    (0xA60800000000000000000000, .fenceRel (cm 0) .tile),
    (0xA61400000000000000000000, .fenceAcq (cm 0) .dev),
    (0xA62800000000000000000000, .fenceAr (cm 0) .tile),
    (0xA70000000000098007F80002, .jrd (cm 0) 9 (.i 127) 2),
    (0xA800000000000A0000000000, .jrepost (cm 0) (.x 10)),
    (0xA90000000800010000000000, .jdrop (cm 0) (.i 1))] = true := by decide

theorem test_words_atomics_1 : reads [
    (0xB002E000000009E30050000A, .amoadd (cm 0x2E) 9 { base := 3, off := 5 } (.x 10)),
    (0xB102E000000009E30050000A, .amoand (cm 0x2E) 9 { base := 3, off := 5 } (.x 10)),
    (0xB202E000000009E30050000A, .amoor (cm 0x2E) 9 { base := 3, off := 5 } (.x 10)),
    (0xB302E000000009E30050000A, .amoxor (cm 0x2E) 9 { base := 3, off := 5 } (.x 10)),
    (0xB402E000000009E30050000A, .amomin (cm 0x2E) 9 { base := 3, off := 5 } (.x 10)),
    (0xB502E000000009E30050000A, .amomax (cm 0x2E) 9 { base := 3, off := 5 } (.x 10)),
    (0xB602E000000009E30050000A, .amoswp (cm 0x2E) 9 { base := 3, off := 5 } (.x 10)),
    (0xB702E000000009E30050000A, .cas (cm 0x2E) 9 { base := 3, off := 5 } (.x 10)),
    (0xB800C00000001EE300500006, .cas128 (cm 0xC) 30 { base := 3, off := 5 } 6),
    (0xB90040000E30050000A00000, .faddx (cm 4) { base := 3, off := 5 } 10),
    (0xBA008000000009E300500000, .fcell (cm 8) 9 { base := 3, off := 5 }),
    (0xBB0020000E30050000000000, .fclr (cm 2) { base := 3, off := 5 }),
    (0xC80000000E30058FFFF00000, .binit (cm 0) { base := 3, off := 5 } (.i 0xFFFF)),
    (0xC90020000E30058000100000, .bara (cm 2) { base := 3, off := 5 } (.i 1))] = true := by decide

theorem test_words_atomics_2 : reads [
    (0xCA000000000009E300500000, .bwait (cm 0) 9 { base := 3, off := 5 })] = true := by decide

theorem test_words_channels : reads [
    (0xC000000006000F9FFFF00000, .send (cm 0) 15 (.i 0x1FFFF)),
    (0xC10000000000096000F40005, .recv (cm 0) 9 15 (some 5)),
    (0xC200000006000F2000800000, .vsend (cm 0) 15 8),
    (0xC30000000200086000F00000, .vrecv (cm 0) 8 15 none),
    (0xC400000006000F0000000000, .cend (cm 0) 15),
    (0xC50000000000096006700000, .cpgo (cm 0) 9 7),
    (0xC60000000000098FFFF00000, .cpstat (cm 0) 9 (.i 0xFFFF)),
    (0xC70000000800FF0000000000, .wait (cm 0) (.i 255))] = true := by decide

/-! ### Words that decoding rejects (03 R84, R94 to R96) -/

/-- Where decoding rejects a word. -/
def rejects (w : IWord) : Option IllAt := match decode w with | .ok _ => none | .error e => some e

theorem test_unassigned_opcode : rejects 0 = some { step := 1, field := 0 } := by decide
theorem test_unused_field : rejects 0xA6040000000000000000000A = some { step := 2, field := 2 } := by decide
theorem test_reserved_modifier : rejects 0x300070000200082001080003 = some { step := 3, field := 0 } := by decide
theorem test_unassigned_sub : rejects 0x071600000000090000A9FFFD = some { step := 1, field := 0 } := by decide

/-! ### Steps -/

/-- `li x9, #5`, as the first instruction after reset. -/
theorem test_first_instruction :
    (match step (State.reset.withFetchWord 96 0x0E0000000000090000000005) with
      | .next t => (decide ((t.hart 0).rx 9 = 5) && decide ((t.hart 0).pc = 12)) | _ => false) = true := by decide +kernel

/-- A word of zeros traps ILL at step 1; with no handler the hart is held (16 R357, R368). -/
theorem test_first_illegal :
    (match step (State.reset.withFetchWord 96 0) with | .next t => (t.hart 0).held | _ => false) = true := by decide +kernel

/-! ### Scalar instructions -/

/-- 04 R110: 7 + (2^64 − 1) wraps; clamped unsigned it is 2^64 − 1. -/
theorem test_add_wraps : (ran (.add (cm 0) 9 1 (.x 2)) (at_ tHart)).rx 9 = 6 := by decide +kernel
theorem test_add_saturates : (ran (.add (cm 0x18) 9 1 (.x 2)) (at_ tHart)).rx 9 = 0xFFFFFFFFFFFFFFFF := by decide +kernel
/-- A result of 32 bits is extended from bit 31 (R108). -/
theorem test_sub_word : (ran (.sub (cm 0x20) 9 6 (.x 1)) (at_ tHart)).rx 9 = 0xFFFFFFFFFFFFFFFA := by decide +kernel
/-- (−1) × (−1) has high half 0, and (2^64 − 1)^2 has high half 2^64 − 2. -/
theorem test_mulh_signed : (ran (.mulh (cm 0) 9 2 (.x 2)) (at_ tHart)).rx 9 = 0 := by decide +kernel
theorem test_mulh_unsigned : (ran (.mulh (cm 0x10) 9 2 (.x 2)) (at_ tHart)).rx 9 = 0xFFFFFFFFFFFFFFFE := by decide +kernel
/-- 04 R111. -/
theorem test_div_zero : (ran (.div (cm 0) 9 1 (.x 0)) (at_ tHart)).rx 9 = 0xFFFFFFFFFFFFFFFF := by decide +kernel
theorem test_div_overflow : (ran (.div (cm 0) 9 4 (.x 2)) (at_ tHart)).rx 9 = 0x8000000000000000 := by decide +kernel
theorem test_rem_sign : (ran (.rem (cm 0) 9 2 (.x 1)) (at_ tHart)).rx 9 = 0xFFFFFFFFFFFFFFFF := by decide +kernel
/-- 04 R112: `shl x1, x2, #-1` shifts by 63. -/
theorem test_shl_63 : (ran (.shl (cm 0) 9 2 (.i 0x1FFFF)) (at_ tHart)).rx 9 = 0x8000000000000000 := by decide +kernel
theorem test_rot_left : (ran (.rot (cm 0) 9 4 (.i 1)) (at_ tHart)).rx 9 = 1 := by decide +kernel
theorem test_sha_sign : (ran (.sha (cm 0) 9 4 (.i 63)) (at_ tHart)).rx 9 = 0xFFFFFFFFFFFFFFFF := by decide +kernel
/-- 04 R113: |−2^63| without .sat and with it. -/
theorem test_abs_wraps : (ran (.abs (cm 0) 9 4) (at_ tHart)).rx 9 = 0x8000000000000000 := by decide +kernel
theorem test_abs_saturates : (ran (.abs (cm 8) 9 4) (at_ tHart)).rx 9 = 0x7FFFFFFFFFFFFFFF := by decide +kernel
theorem test_clz_zero : (ran (.clz (cm 0x20) 9 0) (at_ tHart)).rx 9 = 32 := by decide +kernel
theorem test_bswap : (ran (.bswap (cm 0) 9 3) (at_ tHart)).rx 9 = 0x0040000000000000 := by decide +kernel
/-- 04 R115: `ext.u x3, x4, #716` extracts 12 bits from bit 12. -/
theorem test_ext : (ran (.ext (cm 0x10) 9 3 (.i 716)) (at_ { tHart with x := [(3, 0xABCDEF123456)] })).rx 9 = 0x123 := by decide +kernel
theorem test_zext : (ran (.zext (cm 0) 9 2 (.i 7)) (at_ tHart)).rx 9 = 0xFF := by decide +kernel
theorem test_sel_else : (ran (.sel (cm 0) 0 1 (.i 5)) (at_ tHart)).rx 0 = 0 := by decide +kernel
/-- 04 R119: LIH keeps the low 40 bits. -/
theorem test_lih : (ran (.lih (cm 0) 2 0xABCDEF) (at_ tHart)).rx 2 = 0xABCDEFFFFFFFFFFF := by decide +kernel
/-- 04 R123: a link of PC + 12, and a target before the instruction. -/
theorem test_jal : (fun a : Hart => (a.rx 9, a.pc)) (ran (.jal (cm 0) 9 0x1FFFE) (at_ tHart)) = (0x200C, 0x1FF8) := by decide +kernel
/-- JR to an odd target traps ALIGN, and writes no link. -/
theorem test_jr_align :
    (fun a : Hart => (a.rx 9, a.pc, a.trapcause, a.trapaddr, a.trappc)) (ran (.jr (cm 0) 9 1 (.i 0)) (at_ tHart))
      = (0, 0x1000, 2, 7, 0x2000) := by decide +kernel
/-- 04 R124: LOOP.vl with a counter not above VL falls through with 0. -/
theorem test_loop_vl : (fun a : Hart => (a.rx 6, a.pc)) (ran (.loop (cm 0x20) 6 0x1FFFE) (at_ tHart)) = (0, 0x200C) := by decide +kernel
/-- 04 R126, 01 R12: VLMAX of f32 is 256. -/
theorem test_setvl : (fun a : Hart => (a.rx 9, a.vl)) (ran (.setvl (cm 0) 9 2 .f32) (at_ tHart)) = (256, 256) := by decide +kernel
theorem test_setrc_zero : (ran (.setrc (cm 0) 9 (.x 0)) (at_ tHart)).rx 9 = 1 := by decide +kernel

/-! ### Traps, modes and control registers -/

/-- 16 R357: TRAPPC, TRAPCAUSE and TRAPINFO, the handler, service and depth. -/
theorem test_trap_entry :
    (fun a : Hart => (a.trappc, a.trapcause, a.trapinfo, a.pc, a.svc, a.td)) (ran (.trap (cm 0) 5) (at_ tHart))
      = (0x2000, 0x11, 5, 0x1000, true, 1) := by decide +kernel
/-- 04 R130: TRET.next goes past the TRAP, into the interrupted mode. -/
theorem test_tret :
    (fun a : Hart => (a.pc, a.svc, a.td)) (ran (.tret (cm 0x20)) (after (.trap (cm 0) 5) (at_ tHart))) = (0x200C, false, 0) := by
  decide +kernel
/-- 04 R130: TRET without service traps DOM. -/
theorem test_tret_user : (ran (.tret (cm 0)) (at_ tHart)).trapcause = 0x0A := by decide +kernel
/-- 04 R132: a register of column S needs service. -/
theorem test_cwr_user : (ran (.cwr (cm 0) 5 (.x 3)) (at_ tHart)).trapcause = 0x0A := by decide +kernel
theorem test_cwr_service : (ran (.cwr (cm 0) 5 (.x 3)) (at_ { tHart with svc := true })).trapvec = 0x4000 := by decide +kernel
/-- 04 R133: TIME is not for Kahn mode. -/
theorem test_crd_kahn : (ran (.crd (cm 0) 9 0x41) (at_ { tHart with kahn := true })).trapcause = 0x0C := by decide +kernel
/-- 04 R135: HALT parks the hart past itself. -/
theorem test_halt : (fun a : Hart => (a.own, a.pc)) (ran (.halt (cm 0)) (at_ tHart)) = (.parked, 0x200C) := by decide +kernel
/-- 04 R137: a target of the future waits. -/
theorem test_timewait :
    (fun a : Hart => (a.own, a.pc, a.timeTarget)) (ran (.timewait (cm 0) 9 (.i 5)) (at_ tHart)) = (.waiting, 0x2000, some 5) := by
  decide +kernel
/-- 03 R88: a false guard retires without effect. -/
theorem test_guard_false :
    (fun a : Hart => (a.rx 9, a.pc)) (ran (.add { cm 0 with ginv := true } 9 1 (.i 1)) (at_ tHart)) = (0, 0x200C) := by decide +kernel

/-! ### Vector instructions -/

/-- Row v1 of f32: 1.0, −2.0, NaN, 3.5; row v2 of i8: 127, −128, 5, −1. -/
def vHart : Hart := { tHart with v := [
  (1, { VecReg.init with tag := plainTag .f32, data := 0x40600000_7FC00000_C0000000_3F800000 }),
  (2, { VecReg.init with tag := plainTag .i8, data := 0xFF05807F })] }
/-- Element e of width w of v9. -/
def el (w e : Nat) (a : Hart) : Nat := elemAt (a.rv 9).data w e

/-- 1.0 + 1.0 = 2.0, and a scalar operand is converted. -/
theorem test_vadd : el 32 0 (ran (.vadd (cm 0) 9 1 (.i 1)) (at_ vHart)) = 0x40000000 := by decide +kernel
/-- 127 + 1 clamps at 127 under .sat (02 R49). -/
theorem test_vadd_sat : el 8 0 (ran (.vadd (cm 8) 9 2 (.i 1)) (at_ vHart)) = 0x7F := by decide +kernel
/-- 1 / 3 rounded to nearest even is 0x3EAAAAAB, toward zero 0x3EAAAAAA. -/
theorem test_vdiv_rne : el 32 0 (ran (.vdiv (cm 0) 9 1 (.i 3)) (at_ vHart)) = 0x3EAAAAAB := by decide +kernel
/-- √(−2) is the canonical NaN and sets NV (02 R54). -/
theorem test_vsqrt_negative :
    (fun a => (el 32 1 a, a.fflags.getLsbD 0 || a.fflags.getLsbD 4)) (ran (.vsqrt (cm 0) 9 1) (at_ vHart)) = (0x7FC00000, true) := by
  decide +kernel
/-- 05 R154: of a number and a NaN, the number. -/
theorem test_vmin_nan : el 32 2 (ran (.vmin (cm 0) 9 1 (.i 7)) (at_ vHart)) = 0x40E00000 := by decide +kernel
/-- 05 R155: |−128| in 8 bits. -/
theorem test_vabs_int : el 8 1 (ran (.vabs (cm 0) 9 2) (at_ vHart)) = 0x80 := by decide +kernel
/-- 05 R158: a NaN is unordered; element 1 alone is below 0. -/
theorem test_vcmp : (ran (.vcmp (cm 0) (.base .lt) 3 1 (.i 0)) (at_ vHart)).rp 3 = 2 := by decide +kernel
theorem test_vcmp_unordered : (ran (.vcmp (cm 0) .uo 3 1 (.i 0)) (at_ vHart)).rp 3 = 4 := by decide +kernel
/-- 02 R59: −2.0 to i8 is −2. -/
theorem test_vcvt_int : el 8 1 (ran (.vcvt (cm 0) 9 1 .i8) (at_ vHart)) = 0xFE := by decide +kernel
/-- 05 R172: 127 − 128 + 5 − 1 = 3. -/
theorem test_vred_sum : el 8 0 (ran (.vred (cm 0) .sum 9 2) (at_ vHart)) = 3 := by decide +kernel
theorem test_vscan_max : el 8 2 (ran (.vscan (cm 0) .max 9 2) (at_ vHart)) = 0x7F := by decide +kernel
/-- 05 R176: descending, 127 stands first, then 5, at positions 0 and 2. -/
theorem test_vsort : (fun a => (el 32 0 a, el 32 1 a)) (ran (.vsort (cm 0) 9 2 0) (at_ vHart)) = (0, 2) := by decide +kernel
/-- 05 R170: element 3 moves to place 0 where the others have left the range. -/
theorem test_vslide : (fun a => (el 8 0 a, el 8 1 a)) (ran (.vslide (cm 0) 9 2 (.i 3)) (at_ vHart)) = (0xFF, 0) := by decide +kernel
theorem test_viota : el 16 3 (ran (.viota (cm 0) 9 (.i 0x1FFFE) .i16) (at_ vHart)) = 1 := by decide +kernel
/-- 05 R148: an unaccepted format traps FMT. -/
theorem test_vdiv_int_traps : (ran (.vdiv (cm 0) 9 2 (.i 1)) (at_ vHart)).trapcause = 0x0F := by decide +kernel
/-- 05 R177. -/
theorem test_psetn : (ran (.psetn (cm 0) 3 (.i 3)) (at_ vHart)).rp 3 = 7 := by decide +kernel
theorem test_pfirst_none : (ran (.pfirst (cm 0) 9 3) (at_ vHart)).rx 9 = 0xFFFFFFFFFFFFFFFF := by decide +kernel

/-! ### Memory -/

/-- A store and a load of two bytes, the low byte first, sign-extended (07 R209 to R211, 00 R3). -/
theorem test_store_bytes :
    (fun s : State => (s.byte (2 ^ 48 + 0x4005), s.byte (2 ^ 48 + 0x4004), s.byte (2 ^ 48 + 0x4006)))
      (after (.st (cm 0x20) { base := 3, off := 2 } (.i 0x1FF80) none) (at_ tHart)) = (0xFF, 0x80, 0) := by decide +kernel
theorem test_load_sign :
    (ran (.ld (cm 0x20) 9 { base := 3, off := 2 }) (after (.st (cm 0x20) { base := 3, off := 2 } (.i 0x1FF80) none) (at_ tHart))).rx 9
      = 0xFFFFFFFFFFFFFF80 := by decide +kernel
/-- 16 R362: window before alignment. -/
theorem test_ld_win : (ran (.ld (cm 0) 9 { base := 5, off := 1 }) (at_ tHart)).trapcause = 4 := by decide +kernel
theorem test_ld_align : (fun a : Hart => (a.trapcause, a.trapaddr)) (ran (.ld (cm 0) 9 { base := 1, off := 0 }) (at_ tHart)) = (2, 7) := by
  decide +kernel
/-- 18 R390: no window covers the access. -/
theorem test_ld_guard : (ran (.ld (cm 0) 9 { base := 3, off := 0 }) (at_ { tHart with stguard := [] })).trapcause = 3 := by decide +kernel
/-- 07 R229: the old value returns, the sum stays. -/
theorem test_amoadd :
    (fun s : State => ((s.hart 0).rx 9, s.byte (2 ^ 48 + 0x4000)))
      (after (.amoadd (cm 0x20) 9 { base := 3, off := 0 } (.x 1)) (after (.st (cm 0x10) { base := 3, off := 0 } (.i 3) none) (at_ tHart)))
      = (3, 10) := by decide +kernel
/-- 07 R218: RST through window 01 posts entry 0 and retires. -/
theorem test_rst_posts :
    (fun a : Hart => (a.pc, ((a.entry 0).map fun e => e.addr))) (ran (.rst (cm 0) { base := 5, off := 0 } (.i 1) none) (at_ tHart))
      = (0x200C, some 0x4000000000000000) := by decide +kernel
/-- 07 R227: FENCE.REL waits for it. -/
theorem test_fence_waits :
    (ran (.fenceRel (cm 0) .sys) (after (.rst (cm 0) { base := 5, off := 0 } (.i 1) none) (at_ tHart))).own = .waiting := by decide +kernel

/-! ### Matrix instructions, channels, copies -/

/-- 06 R184: 100 × 70 × 9 of f32 is cut to 64, 64, 4. -/
theorem test_tshape :
    (ran (.tshape (cm 0) 9 10 .f32) (at_ { tHart with x := [(10, 100 + 70 * 2 ^ 16 + 9 * 2 ^ 32)] })).rx 9 = 64 + 64 * 2 ^ 16 + 4 * 2 ^ 32 := by
  decide +kernel
theorem test_macq_waits :
    (ran (.macq (cm 0) 1) ((at_ tHart).modAccum 0 1 fun a => { a with owner := some 2 })).own = .waiting := by decide +kernel
/-- 06 R180: an accumulator that the hart does not own. -/
theorem test_mzero_unowned : (fun a : Hart => (a.trapcause, a.trapinfo)) (ran (.mzero (cm 0) 3) (at_ tHart)) = (0x0A, 0x1003) := by decide +kernel
/-- 07 R231: an unbound port. -/
theorem test_send_unbound : (fun a : Hart => (a.trapcause, a.trapinfo)) (ran (.send (cm 0) 4 (.i 1)) (at_ tHart)) = (0x0A, 0x3004) := by
  decide +kernel
/-- 07 R235, R236: the first transfer has id 0, and its token counts 1. -/
theorem test_cpgo : (fun a : Hart => (a.rx 9, (a.rw 2).count, a.nextXfer)) (ran (.cpgo (cm 0) 9 2) (at_ tHart)) = (0, 1, 1) := by decide +kernel
theorem test_wait_token : (ran (.wait (cm 0) (.i 4)) (after (.cpgo (cm 0) 9 2) (at_ tHart))).own = .waiting := by decide +kernel
/-- 04 R138: a gate number outside the table is reason 1. -/
theorem test_gate_range : (fun a : Hart => (a.trapcause, a.trapinfo)) (ran (.gate (cm 0) 7) (at_ tHart)) = (0x0A, 0x107) := by decide +kernel

/-! ### The primitives that the manual names by their standards (10 R294, R295; 16 R378) -/

/-- The digest of the empty message begins with byte A7 (FIPS 202, SHA3-256). -/
theorem test_sha3 : (sha3 []).extractLsb' 0 32 = 0xF8C6FFA7 := by decide +kernel
/-- FIPS 197, appendix C.3. -/
theorem test_aes :
    aesBlock (aesKeys ((List.range 32).map fun i => BitVec.ofNat 8 i)) ((List.range 16).map fun i => BitVec.ofNat 8 (17 * i))
      = [0x8E, 0xA2, 0xB7, 0xCA, 0x51, 0x67, 0x45, 0xBF, 0xEA, 0xFC, 0x49, 0x90, 0x4B, 0x49, 0x60, 0x89] := by decide +kernel
/-- GHASH of one block and its length (test case 2 of the GCM specification). -/
theorem test_ghash :
    ghash 0x66E94BD4EF8A2C3B884CFA59CA342B2E 2 0 (bitsBlock 0x0388DACE60B6A392F328C2B971B2FE78 ++ bitsBlock 128)
      = 0xF38CBB1AD69223DCC3457AE5B6B0F885 := by decide +kernel

/-! ### States that meet the hypotheses of the statements

`wit_<Name>` shows, for each clause of Obligations.<Name>, values that meet its hypotheses together, at a boundary of their range
where the clause has one. -/

/-- A journal entry of KIND 0 at pointer p. -/
def entryAt (p : W64) : JEntry :=
  { addr := p, seq := 0, slot := 0, last := false, refused := false, mark := false, reason := 0, kind := 0, svc := false, len := 1
    pc := 0x2000, asid := 0, data := [0], mask := [3], strm := 0, dest := 0, gen := 0, stamp := 0, rep := none, rel := false, prio := 0, ws := [] }

/-- The test hart with an entry to another tile outstanding, and with one to its own. -/
def remoteHart : Hart := { tHart with journal := [(0, some (entryAt 0x4000000100000000))] }
def localHart : Hart := { tHart with journal := [(0, some { entryAt 0x100 with kind := 1 })] }

theorem guard_plain (a : Hart) (m : BitVec 6) : a.guard0 (cm m) = true := by
  show ((if 96 ≤ (0 : BitVec 7).toNat then BitVec.allOnes 2048 else a.rp 0) : BitVec 2048).getLsbD 0 = true
  simp [Hart.rp]

/-- A hart in a gate call, and one whose callee has left an entry. -/
def calleeHart : Hart := { tHart with gdepth := 1, gcalls := [{ units := 1, stamp := 0, casid := 0, tvecF := 0x1000, gens := [] }]
                                      gframe := { size := 4096, used := 1, base := 0x10000 } }
def calleeBusy : Hart := { calleeHart with journal := [(0, some (entryAt 0x4000000100000000))] }

theorem admits_callee (a : Hart) (hd : Head) (h : hd.vs = [] ∧ hd.vone = [] ∧ hd.mults = [] ∧ hd.ps = [] ∧ hd.barred = false
    ∧ hd.elem = false ∧ hd.dom = none ∧ hd.nd = false := by decide) : (at_ a).Admits (cm 0) hd := by
  obtain ⟨h1, h2, h3, h4, h5, h6, h7, h8⟩ := h
  exact ⟨fun v hv => by simp [h1] at hv, fun n hn => by simp [h3] at hn,
    fun _ => ⟨h5, .inr (.inl (by decide)), fun p hp => by simp [h4] at hp, fun v hv => by simp [h1, h2] at hv⟩, h7, fun h => by simp [h8] at h,
    by rw [h6]; exact .inr (guard_plain a 0)⟩

/-- The vector test hart, with rows v3 of mx8a, v4 of i32 and v5 of f16 beside v1 of f32 and v2 of i8. -/
def wHart : Hart := { vHart with v := vHart.v ++ [
  (3, { VecReg.init with tag := plainTag .mx8a }), (4, { VecReg.init with tag := plainTag .i32 }), (5, { VecReg.init with tag := plainTag .f16 })] }

/-- The word of `vneg v9, v1` at 0x2000, and of `timewait x9, #0`. -/
def fS (w : IWord) (a : Hart) : State := { at_ { a with xbnd := 0x2100, xbndF := 0x2100 } with mem := writeBytes [] (storeBase 0 + 0x2000) (wordBytes w) }

/-- A hart outside a gate call, with RC = 1, VL above 0 and a true guard, is admitted where no condition of the entry's own bars it. -/
theorem admits {s : State} {c : Ctl} {hd : Head} (hr : (s.hart s.cur).rcc = 0) (hg : (s.hart s.cur).gdepth = 0)
    (hv : (s.hart s.cur).vl ≠ 0) (hc : (s.hart s.cur).guard0 c = true) (hk : (s.hart s.cur).kahn = false) (hd0 : hd.dom = none) :
    s.Admits c hd := by
  have h1 : (s.hart s.cur).rc = 1 := by simp [Hart.rc, hr]
  exact ⟨fun v _ => by rw [h1]; exact Nat.mod_one _, fun n _ => by rw [h1]; exact Nat.mod_one _, fun h => absurd hg h, hd0,
    fun _ => hk, by split <;> first | exact hv | exact .inr hc⟩

/-- The test harts are admitted under every entry without a condition of its own. -/
theorem admits_at {a : Hart} (m : BitVec 6) {hd : Head} (h : a.rcc = 0 ∧ a.gdepth = 0 ∧ a.vl ≠ 0 ∧ a.kahn = false)
    (hd0 : hd.dom = none) : (at_ a).Admits (cm m) hd :=
  admits h.1 h.2.1 h.2.2.1 (guard_plain a m) h.2.2.2 hd0

/-- In Kahn mode an entry without an ND condition is admitted. -/
theorem admits_at0 {a : Hart} {m : BitVec 6} {hd : Head} (h : a.rcc = 0 ∧ a.gdepth = 0 ∧ a.vl ≠ 0) (hd0 : hd.dom = none ∧ hd.nd = false) :
    (at_ a).Admits (cm m) hd := by
  have h1 : ((at_ a).hart (at_ a).cur).rc = 1 := by show a.rc = 1; simp [Hart.rc, h.1]
  exact ⟨fun v _ => by rw [h1]; exact Nat.mod_one _, fun n _ => by rw [h1]; exact Nat.mod_one _, fun g => absurd h.2.1 g, hd0.1,
    fun hk => by simp [hd0.2] at hk, by split <;> first | exact h.2.2 | exact .inr (guard_plain a m)⟩

theorem wit_IntegerArithmetic :
    (∀ m ∈ [(0x38 : BitVec 6), 0x28, 0x10, 0x30], (at_ tHart).Admits (cm 0) { mods := m })
      ∧ asInt false 64 (tHart.xi (.i 0)) = 0
      ∧ asInt false 64 (tHart.rx 4) = -(2 ^ 63) ∧ asInt false 64 (tHart.xi (.i 0x1FFFF)) = -1
      ∧ asInt false 64 (tHart.xi (.i 1)) ≠ 0 :=
  ⟨fun _ _ => admits_at 0 (by decide) rfl, by decide, by decide, by decide, by decide⟩

theorem wit_LogicAndShifts : (at_ tHart).Admits (cm 0) {} ∧ (at_ tHart).Admits (cm 0) { mods := 0x20 } :=
  ⟨admits_at 0 (by decide) rfl, admits_at 0 (by decide) rfl⟩

theorem wit_BitOperations :
    (∀ m ∈ [(0x20 : BitVec 6), 0x10, 0], (at_ tHart).Admits (cm 0) { mods := m })
      ∧ (∀ k, ∃ a b, CondTrue k a b) ∧ (∀ k, ∃ a b, ¬CondTrue k a b) ∧ tHart.rx 1 ≠ 0 ∧ tHart.rx 0 = 0 :=
  ⟨fun _ _ => admits_at 0 (by decide) rfl,
    fun k => by
      cases k <;> simp only [CondTrue] <;> first | exact ⟨0, 0, by decide⟩ | exact ⟨0, 1, by decide⟩ | exact ⟨1, 0, by decide⟩,
    fun k => by
      cases k <;> simp only [CondTrue] <;> first | exact ⟨0, 0, by decide⟩ | exact ⟨0, 1, by decide⟩ | exact ⟨1, 0, by decide⟩,
    by decide, by decide⟩

theorem canTrap_t : (at_ tHart).CanTrap 0 := ⟨by decide, by decide, by decide⟩

theorem wit_ControlTransfers :
    (at_ tHart).Admits (cm 0) {} ∧ CondTrue .eq (tHart.rx 0) (tHart.xi (.i 0)) ∧ ¬CondTrue .eq (tHart.rx 1) (tHart.xi (.i 0))
      ∧ (tHart.rx 3 + tHart.xi (.i 0)).toNat % 4 = 0 ∧ (at_ tHart).CanTrap 0 ∧ (tHart.rx 1 + tHart.xi (.i 0)).toNat % 4 ≠ 0 :=
  ⟨admits_at 0 (by decide) rfl, by simp only [CondTrue]; decide, by simp only [CondTrue]; decide, by decide, canTrap_t, by decide⟩

theorem wit_LoopsAndIssueControl :
    (at_ tHart).Admits (cm 0x20) { mods := 0x20 } ∧ (at_ tHart).Admits (cm 0) {} ∧ Fmt.i4 ≠ .raw
      ∧ (Instr.setvli (cm 0) 1 0xFFFF .i4 = .setvli (cm 0) 1 0xFFFF .i4 ∧ (65535 : Nat) = (0xFFFF : BitVec 16).toNat) :=
  ⟨admits_at _ (by decide) rfl, admits_at _ (by decide) rfl, by decide, rfl, by decide⟩

theorem wit_TakingTraps :
    (at_ tHart).CanTrap 0 ∧ (at_ tHart).Admits (cm 0) {} ∧ (0x2002 : W64).toNat % 4 ≠ 0 ∧ tHart.pc.toNat % 4 = 0
      ∧ tHart.xbndF.toNat < tHart.pc.toNat + 12
      ∧ (∀ w, ¬(((fS w wHart).hart 0).pc.toNat % 4 ≠ 0 ∨ ((fS w wHart).hart 0).xbndF.toNat < ((fS w wHart).hart 0).pc.toNat + 12))
      ∧ rejects (bytesWord ((fS 0 wHart).fetchBytes 0)) = some { step := 1, field := 0 }
      ∧ rejects (bytesWord ((fS 0x3F0000000200092000100000 wHart).fetchBytes 0)) = none
      ∧ { tHart with unread := true }.unread = true ∧ { tHart with td := 7 }.td = 7
      ∧ ({ tHart with trapvecF := 0 }.trapvecF = 0 ∧ { tHart with trapvecF := 0 }.gdepth = 0)
      ∧ (let a := { calleeHart with trapvecF := 0 }
         a.unread = false ∧ a.td ≠ 7 ∧ a.trapvecF = 0 ∧ a.gdepth ≠ 0) :=
  ⟨canTrap_t, admits_at _ (by decide) rfl, by decide, by decide, by decide, fun w => (by decide : ¬((0x2000 : W64).toNat % 4 ≠ 0 ∨ (0x2100 : BitVec 21).toNat < (0x2000 : W64).toNat + 12)),
    by decide +kernel, by decide +kernel, by decide, by decide, by decide, by decide⟩

theorem wit_TrapReturn :
    (at_ { tHart with svc := true, td := 1 }).Admits (cm 0x20) { mods := 0x20, unguarded := true } ∧ tHart.svc = false :=
  ⟨admits_at _ (by decide) rfl, by decide⟩

theorem wit_ControlRegisterReads :
    (at_ tHart).Admits (cm 0) {} ∧ tHart.kahn = false ∧ tHart.gdepth = 0 ∧ { tHart with kahn := true }.kahn = true
      ∧ (at_ { tHart with kahn := true }).gateBars 0 (cm 0) {} = false ∧ calleeHart.gdepth ≠ 0 :=
  ⟨admits_at _ (by decide) rfl, by decide, by decide, by decide, by decide, by decide⟩

theorem wit_ControlRegisterWrites :
    (at_ { tHart with svc := true }).Admits (cm 0) {} ∧ cregS 6 = true ∧ (at_ tHart).Admits (cm 0) {} ∧ cregS 0x11 = false ∧ tHart.gdepth = 0
      ∧ tHart.svc = false ∧ (at_ tHart).gateBars 0 (cm 0) {} = false ∧ calleeHart.gdepth ≠ 0
      ∧ (let kept := fun (lock : Bool) (v : W64) => lock = true ∨ (v.extractLsb' 0 48).toNat < (if v.getLsbD 62 then 2 ^ 16 + 8 else 2 ^ 17)
         kept true 0 ∧ kept false 0x1FFFF ∧ ¬kept false 0x20000 ∧ kept false 0x4000000000010007 ∧ ¬kept false 0x4000000000010008) :=
  ⟨admits_at _ (by decide) rfl, by decide, admits_at _ (by decide) rfl, by decide, by decide, by decide, by decide, by decide, by decide⟩

theorem wit_SyncHaltAndTime :
    (at_ tHart).Admits (cm 0) { unguarded := true } ∧ tHart.drained 0 .tile = true ∧ localHart.drained 0 .tile = false
      ∧ (at_ localHart).Admits (cm 0) { unguarded := true }
      ∧ (at_ remoteHart).Admits (cm 0) {} ∧ remoteHart.gdepth = 0 ∧ (at_ remoteHart).haltReady 0 = false ∧ (at_ tHart).haltReady 0 = true
      ∧ (at_ { calleeHart with stguard := tHart.stguard }).Admits (cm 0) {} ∧ (at_ calleeHart).CanTrap 0 ∧ calleeHart.gdepth ≠ 0
      ∧ (at_ tHart).Admits (cm 0) { mods := 0x20, nd := true } ∧ (tHart.xi (.i 0)).toNat ≤ (at_ tHart).time.toNat
      ∧ (at_ tHart).time.toNat < (tHart.xi (.i 1)).toNat ∧ (at_ { tHart with kahn := true }).CanTrap 0
      ∧ (at_ { tHart with kahn := true }).Admits (cm 0) { mods := 0x20 } :=
  ⟨admits_at _ (by decide) rfl, by decide, by decide, admits_at _ (by decide) rfl, admits_at _ (by decide) rfl, by decide, by decide, by decide,
    admits_callee _ _, ⟨by decide, by decide, by decide⟩, by decide,
    admits_at _ (by decide) rfl, by decide, by decide, ⟨by decide, by decide, by decide⟩, admits_at0 (by decide) ⟨rfl, rfl⟩⟩

/-- A load of row v9 in flight, and a row that holds its fault record. -/
def ldOne : LoadDesc :=
  { d := 9, kind := .unit, base := 0x4000, stride := 0, offReg := 0, vl := 4, rc := 1, tag := plainTag .f32, guard := BitVec.allOnes 2048
    asid := 0, pc := 0x2000, ws := tHart.windows, prio := 0 }
def flightOne : Flight :=
  { desc := ldOne, landed := BitVec.allOnes 64 - 1, idxData := 0, idxTag := 0, id := 0, again := false, spoilt := false }
def flying : VecReg := { VecReg.init with tag := plainTag .f32, pi := 0, flight := some flightOne }
def faulted : VecReg :=
  { VecReg.init with tag := poisonTag (plainTag .f32), pi := 0, lrec := some { desc := ldOne, cause := 3, addr := 0x4000, detail := 0, idxData := 0, idxTag := 0 } }

/-- A gate entry 0 with depth limit 4, entry 0x3000, handler 0x1800, callee ASID 5 and a frame of 4 KiB, in a table of two entries. -/
def gateMem : List Host.Cell :=
  writeBytes [] (storeBase 0 + 0x8000) (bytesOf 8 (2 ^ 63 + 4 * 2 ^ 56 + 5 * 2 ^ 32 + 0x3000) ++ bytesOf 8 (2 ^ 21 + 0x1800))
def gateHart : Hart := { tHart with gtbase := 0x8000, gtnent := 2, gframe := { size := 4096, used := 0, base := 0x10000 } }
def gateAt (a : Hart) : State := { at_ a with mem := gateMem }

/-- The entry's VMASK names rows 8 to 15 (18 R406), and row v9 is as given. -/
def maskAt (r : VecReg) : State :=
  { at_ { gateHart with v := [(9, r)], gframe := { size := 12288, used := 0, base := 0x10000 } } with
    mem := writeBytes [] (storeBase 0 + 0x8000) (bytesOf 8 (2 ^ 63 + 4 * 2 ^ 56 + 2 * 2 ^ 48 + 5 * 2 ^ 32 + 0x3000)
      ++ bytesOf 8 (3 * 2 ^ 21 + 0x1800)) }

theorem wit_GateCalls :
    (gateAt gateHart).Admits (cm 0) { unguarded := true } ∧ (gateAt gateHart).tilePoison 0 0x8000 64 = none
      ∧ (gateAt gateHart).tilePoison 0 ((gateAt gateHart).gateEntry 0 0).gset 64 = none
      ∧ (let e := (gateAt gateHart).gateEntry 0 0
         0 < gateHart.gtnent.toNat ∧ (gateAt gateHart).entryValid e = true ∧ gateHart.asid &&& e.fmask = e.fbase &&& e.fmask
          ∧ gateHart.gdepth.toNat < 4 ∧ gateHart.gdepth.toNat < e.dlim ∧ gateHart.gframe.used.toNat + e.frame ≤ gateHart.gframe.size.toNat / 4096
          ∧ maskRows e.vmask = [])
      ∧ (gateAt gateHart).gateReason 0 0 ((gateAt gateHart).gateEntry 0 0) = none
      ∧ (gateAt gateHart).gateReason 0 2 ((gateAt gateHart).gateEntry 0 2) = some 1
      ∧ (gateAt gateHart).gateReason 0 1 ((gateAt gateHart).gateEntry 0 1) = some 2
      ∧ (gateAt { gateHart with gdepth := 4 }).gateReason 0 0 ((gateAt gateHart).gateEntry 0 0) = some 4
      ∧ (gateAt { gateHart with gframe := { size := 4095, used := 0, base := 0x10000 } }).gateReason 0 0 ((gateAt gateHart).gateEntry 0 0) = some 5
      ∧ { gateAt gateHart with poison := [storeBase 0 + 0x8038] }.tilePoison 0 0x8000 64 = some 0x8038
      ∧ (let s := { gateAt gateHart with poison := [storeBase 0] }
         s.tilePoison 0 0x8000 64 = none ∧ s.tilePoison 0 (s.gateEntry 0 0).gset 64 = some 0)
      ∧ (∀ r ∈ [flying, faulted], (maskAt r).gateReason 0 0 ((maskAt r).gateEntry 0 0) = none ∧ 9 ∈ maskRows ((maskAt r).gateEntry 0 0).vmask)
      ∧ (maskAt flying).vBusy 0 9 = true ∧ (∀ v ∈ maskRows ((maskAt faulted).gateEntry 0 0).vmask, (maskAt faulted).vBusy 0 v = false)
      ∧ (((maskAt faulted).hart 0).firstTrap (maskRows ((maskAt faulted).gateEntry 0 0).vmask)).isSome = true :=
  ⟨admits (by decide) (by decide) (by decide) (guard_plain _ _) (by decide) rfl, by decide +kernel, by decide +kernel, by decide +kernel,
    by decide +kernel, by decide +kernel, by decide +kernel, by decide +kernel, by decide +kernel, by decide +kernel, by decide +kernel,
    by decide +kernel, by decide +kernel, by decide +kernel, by decide +kernel⟩

theorem wit_GateReturns :
    (at_ calleeHart).Admits (cm 0) { unguarded := true } ∧ calleeHart.gdepth ≠ 0
      ∧ (∃ g rest, calleeHart.gcalls = g :: rest ∧ calleeHart.calleeEntries g = [] ∧ maskRows ((at_ calleeHart).vmask 0) = []
          ∧ (at_ calleeHart).tilePoison 0 ((at_ calleeHart).frameAt 0 - storeBase 0) (g.units * 4096) = none)
      ∧ (at_ calleeBusy).Admits (cm 0) { unguarded := true } ∧ (∃ g rest, calleeBusy.gcalls = g :: rest ∧ calleeBusy.calleeEntries g ≠ [])
      ∧ { at_ calleeHart with poison := [storeBase 0 + 0x10FF8] }.tilePoison 0 ((at_ calleeHart).frameAt 0 - storeBase 0) 4096 = some 0x10FF8
      ∧ (let s := { at_ { calleeHart with v := [(9, flying)] } with mem := [(storeBase 0 + 0x100A8, 2)] }
         9 ∈ maskRows (s.vmask 0) ∧ s.vBusy 0 9 = true)
      ∧ (∃ g rest, calleeHart.gcalls = g :: rest ∧ (wordAt ((at_ calleeHart).frameOf 0 g) 0).toNat % 4 = 0
          ∧ (wordAt ({ at_ calleeHart with mem := [(storeBase 0 + 0x10000, 2)] }.frameOf 0 g) 0).toNat % 4 = 2)
      ∧ tHart.gdepth = 0 :=
  ⟨admits_callee _ _, by decide, ⟨_, _, rfl, by decide, by decide +kernel, by decide +kernel⟩, admits_callee _ _,
    ⟨_, _, rfl, by decide⟩, by decide +kernel, by decide +kernel, ⟨_, _, rfl, by decide +kernel, by decide +kernel⟩, by decide⟩

def wS : State := at_ wHart

theorem admits_w (m : BitVec 6) {hd : Head} (h : hd.dom = none) : wS.Admits (cm m) hd := admits_at m (by decide) h

/-- Every listed row of wHart is whole, and none is held by a load or by the array. -/
theorem ready_w (dest : Nat) (dests srcs : List Nat) (h : (∀ v ∈ dests, wS.vBusy 0 v = false)
    ∧ ∀ v ∈ srcs, (wHart.rv v).pi = 64 ∧ (wHart.rv v).poisoned = false) : wS.VReady dest dests srcs :=
  ⟨by rfl, h.1, h.2⟩

theorem wit_VectorArithmetic :
    wS.Admits (cm 0) { vs := [9, 1, 1], aV := true, bV := true, mods := 0x1F, elem := true }
      ∧ wS.VReady 9 (rowsOf 9 wHart.rc) (([1, 1] : List VReg).flatMap fun v => rowsOf v.toNat wHart.rc)
      ∧ (∀ j < wHart.rc, (isInt (wHart.rowFmt 1 j) || isFp (wHart.rowFmt 1 j)) = true ∧ isFp (wHart.rowFmt 1 j) = true)
      ∧ wS.VReady 2 (rowsOf 2 wHart.rc) (([2, 2, 2] : List VReg).flatMap fun v => rowsOf v.toNat wHart.rc)
      ∧ (∀ j < wHart.rc, isInt (wHart.rowFmt 2 j) = true) :=
  ⟨admits_w _ rfl, ready_w _ _ _ (by decide +kernel), by decide +kernel, ready_w _ _ _ (by decide +kernel), by decide +kernel⟩

theorem wit_VectorBitwise :
    wS.Admits (cm 0) { vs := [9, 2], aV := true, bV := false, elem := true }
      ∧ wS.VReady 9 (rowsOf 9 wHart.rc) (([2] : List VReg).flatMap fun v => rowsOf v.toNat wHart.rc)
      ∧ (∀ j < wHart.rc, tagFmt (wHart.bitTag 2 (some (.i 1)) j) ≠ .raw) ∧ (∀ j < wHart.rc, isInt (wHart.rowFmt 2 j) = true)
      ∧ (∀ j < wHart.rc, tagFmt (wHart.bitTag 7 (some (.v 2)) j) ≠ .raw) :=
  ⟨admits_w _ rfl, ready_w _ _ _ (by decide +kernel), by decide +kernel, by decide +kernel, by decide +kernel⟩

theorem wit_VectorCompareAndSelect :
    wS.Admits (cm 0) { vs := [2], mults := [95], ps := [95], aV := true, bV := false, elem := true } ∧ wS.VReady 64 [] (rowsOf 2 wHart.rc)
      ∧ (∀ j < wHart.rc, (isInt (wHart.rowFmt 2 j) || isFp (wHart.rowFmt 2 j)) = true) ∧ (∀ j < wHart.rc, isFloat (wHart.rowFmt 1 j) = true)
      ∧ wS.VReady 9 (rowsOf 9 wHart.rc) (rowsOf 1 wHart.rc) ∧ (∀ j < wHart.rc, wHart.rowFmt 1 j ≠ .raw)
      ∧ (∀ j < wHart.rc, (wHart.rv (1 + j)).tag.extractLsb' 5 11 = (wHart.rv (1 + j)).tag.extractLsb' 5 11) :=
  ⟨admits_w _ rfl, ready_w _ _ _ (by decide +kernel), by decide +kernel, by decide +kernel, ready_w _ _ _ (by decide +kernel),
    by decide +kernel, fun _ _ => rfl⟩

theorem wit_VectorMoves :
    wS.Admits (cm 0) { vs := [9, 1], aV := true, elem := true } ∧ wS.VReady 9 (rowsOf 9 wHart.rc) (rowsOf 1 wHart.rc)
      ∧ wS.Admits (cm 0) { vs := [9], mults := [15], barred := true, elem := true } ∧ wS.VReady 9 (rowsOf 9 wHart.rc) []
      ∧ wS.Admits (cm 0) { vs := [1], mults := [15], barred := true, aV := true, elem := true } ∧ wS.VReady 64 [] (rowsOf 1 wHart.rc)
      ∧ (∀ j < wHart.rc, wS.gReserved 0 (15 + j) = false) ∧ wS.Admits (cm 7) { vs := [9], mods := 7, elem := true } ∧ iotaOk .i4 = true
      ∧ wS.Admits (cm 0x10) { vone := [1], aV := true, mods := 0x10, elem := true } ∧ wHart.rowFmt 1 0 ≠ .raw
      ∧ (wHart.xi (.i 3)).toNat < wHart.vlAt 32 ∧ (wHart.guard (cm 0)).getLsbD 3 = true ∧ (wHart.rv 1).pi = 64 ∧ (wHart.rv 1).poisoned = false
      ∧ ¬((wHart.xi (.i 4)).toNat < wHart.vlAt 32 ∧ (wHart.guard (cm 0)).getLsbD 4 = true)
      ∧ wS.Admits (cm 0) { vs := [2], elem := true } ∧ (∀ j < wHart.rc, wHart.rowFmt 2 j ≠ .raw)
      ∧ (∀ j < wHart.rc, (wHart.rv (2 + j)).pi = 64 ∧ (wHart.rv (2 + j)).poisoned = false ∧ wS.vReserved 0 (2 + j) = false) :=
  ⟨admits_w _ rfl, ready_w _ _ _ (by decide +kernel), admits_w _ rfl, ready_w _ _ _ (by decide +kernel), admits_w _ rfl,
    ready_w _ _ _ (by decide +kernel), by decide +kernel, admits_w _ rfl, by decide, admits_w _ rfl, by decide +kernel, by decide +kernel,
    by decide +kernel, by decide +kernel, by decide +kernel, by decide +kernel, admits_w _ rfl, by decide +kernel, by decide +kernel⟩

theorem wit_VectorConversion :
    wS.Admits (cm 0x3F) { vs := [9, 1], mults := [], aV := true, mods := 0x3F, elem := true }
      ∧ wS.VReady 9 (rowsOf 9 wHart.rc) (rowsOf 1 wHart.rc) ∧ (∀ j < wHart.rc, cvtOk (wHart.rowFmt 1 j) = true ∧ isFp (wHart.rowFmt 1 j) = true)
      ∧ isBlock .q4 = true ∧ wS.Admits (cm 7) { vs := [9, 1], mults := [15], aV := true, mods := 7, elem := true }
      ∧ wS.VReady 9 (rowsOf 9 wHart.rc) (rowsOf 3 wHart.rc) ∧ (∀ j < wHart.rc, isBlock (wHart.rowFmt 3 j) = true)
      ∧ wS.Admits (cm 0) { vs := [1], mults := [15], barred := true, aV := true, elem := true } ∧ wS.VReady 64 [] (rowsOf 1 wHart.rc)
      ∧ (∀ j < wHart.rc, wS.gReserved 0 (15 + j) = false) :=
  ⟨admits_w _ rfl, ready_w _ _ _ (by decide +kernel), by decide +kernel, by decide, admits_w _ rfl, ready_w _ _ _ (by decide +kernel),
    by decide +kernel, admits_w _ rfl, ready_w _ _ _ (by decide +kernel), by decide +kernel⟩

theorem wit_CrossLaneMoves :
    wS.Admits (cm 0) { vs := [9, 2], aV := true, elem := true } ∧ wS.Admits (cm 0x38) { vs := [9, 2], aV := true, mods := 0x38, elem := true }
      ∧ wS.VReady 9 (rowsOf 9 wHart.rc) (rowsOf 2 wHart.rc) ∧ (∀ j < wHart.rc, wHart.rowFmt 2 j ≠ .raw)
      ∧ wS.Admits (cm 0) { vs := [9, 1, 2], aV := true, bV := true, elem := true }
      ∧ wS.VReady 9 (rowsOf 9 wHart.rc) (rowsOf 1 wHart.rc ++ rowsOf 2 wHart.rc)
      ∧ (∀ j < wHart.rc, wHart.rowFmt 1 j ≠ .raw ∧ iotaOk (wHart.rowFmt 2 j) = true) :=
  ⟨admits_w _ rfl, admits_w _ rfl, ready_w _ _ _ (by decide +kernel), by decide +kernel, admits_w _ rfl, ready_w _ _ _ (by decide +kernel),
    by decide +kernel⟩

theorem wit_ReductionsAndRanking :
    wS.Admits (cm 0) { vs := [9, 2], aV := true, mods := 0x1F, elem := true } ∧ wS.VReady 9 (rowsOf 9 wHart.rc) (rowsOf 2 wHart.rc)
      ∧ (∀ j < wHart.rc, iotaOk (wHart.rowFmt 2 j) = true ∧ (isInt (wHart.rowFmt 2 j) || isFp (wHart.rowFmt 2 j)) = true)
      ∧ wS.Admits (cm 0) { vs := [4, 2, 2], aV := true, bV := true, mods := 0x1F, elem := true }
      ∧ wS.VReady 4 (rowsOf 4 wHart.rc) (rowsOf 2 wHart.rc ++ rowsOf 2 wHart.rc ++ rowsOf 4 wHart.rc)
      ∧ (∀ j < wHart.rc, wHart.rowFmt 2 j = .i8 ∧ wHart.rowFmt 4 j = .i32)
      ∧ wS.Admits (cm 8) { vs := [4, 2], aV := true, mods := 0x38, elem := true }
      ∧ wS.VReady 4 (rowsOf 4 wHart.rc) (rowsOf 2 wHart.rc ++ rowsOf 4 wHart.rc) ∧ (∀ j < wHart.rc, wHart.rowFmt 2 j ≠ .raw) :=
  ⟨admits_w _ rfl, ready_w _ _ _ (by decide +kernel), by decide +kernel, admits_w _ rfl, ready_w _ _ _ (by decide +kernel), by decide +kernel,
    admits_w _ rfl, ready_w _ _ _ (by decide +kernel), by decide +kernel⟩

theorem wit_PredicateResults :
    wS.Admits (cm 0) { ps := [95, 1, 2], elem := true } ∧ wS.Admits (cm 0) { ps := [95], elem := true } :=
  ⟨admits_w _ rfl, admits_w _ rfl⟩

/-- wS with accumulator 1 owned by hart l, its tag i32, and the given operations queued by hart 0. -/
def mS (l : Nat) (q : List MOp) : State :=
  (wS.modAccum 0 1 fun a => { a with owner := some l, isInt := true }).modTile 0 fun t => t.setQueue 0 q
def mOp : MOp := { m := 1, kind := .mzero, a := 0, b := 0, rc := 1, tm := 4, tn := 4, tk := 4, done := 0, held := [] }

theorem admits_m (l : Nat) (q : List MOp) (m : BitVec 6) {hd : Head} (h : hd.dom = none) : (mS l q).Admits (cm m) hd :=
  admits rfl rfl (by show (4 : BitVec 12) ≠ 0; decide) (guard_plain _ _) rfl h

theorem wit_AccumulatorOwnership :
    wS.Admits (cm 0) {} ∧ tshapeOk .i4 = true ∧ wS.Admits (cm 0) { barred := true } ∧ (wS.accum 0 3).owner = none
      ∧ (mS 0 []).Admits (cm 0) { barred := true } ∧ ((mS 0 []).accum 0 1).owner = some 0 ∧ (mS 0 []).queuedOn 0 1 = false
      ∧ (mS 0 [mOp]).Admits (cm 0) { barred := true } ∧ ((mS 0 [mOp]).accum 0 1).owner = some 0 ∧ (mS 0 [mOp]).queuedOn 0 1 = true
      ∧ (mS 3 []).Admits (cm 0) { barred := true } ∧ ((mS 3 []).accum 0 1).owner = some 3
      ∧ wS.CanTrap 0 ∧ (wS.accum 0 3).owner ≠ some 0 ∧ wS.Admits (cm 0) { barred := true, vs := [1, 63] } :=
  ⟨admits_w _ rfl, by decide, admits_w _ rfl, by decide +kernel, admits_m _ _ _ rfl, by decide +kernel, by decide +kernel,
    admits_m _ _ _ rfl, by decide +kernel, by decide +kernel, admits_m _ _ _ rfl, by decide +kernel, ⟨by decide, by decide, by decide⟩,
    by decide +kernel, admits_w _ rfl⟩

theorem wit_MatrixQueueing :
    (mS 0 []).owns 0 1 = true ∧ ((mS 0 []).tile 0).queue 0 = [] ∧ (((mS 0 [mOp, mOp, mOp, mOp]).tile 0).queue 0).length = 4
      ∧ (mS 0 [mOp, mOp, mOp, mOp]).owns 0 1 = true ∧ (mS 0 []).Admits (cm 0) { barred := true, mods := 0x20 }
      ∧ (mS 0 []).Admits (cm 0) { barred := true, vs := [4], aV := true } ∧ ((mS 0 []).accum 0 1).isInt = true
      ∧ (∀ j < wHart.rc, (wHart.rv (4 + j)).pi = 64 ∧ (wHart.rv (4 + j)).poisoned = false ∧ tagFmt (wHart.rv (4 + j)).tag = .i32)
      ∧ (mS 0 []).Admits (cm 0) { barred := true, mods := 0x30, vs := [2, 2], aV := true, bV := true }
      ∧ mmaPair (wHart.rv 2).tag (wHart.rv 2).tag = true ∧ mrankPair (wHart.rv 2).tag (wHart.rv 2).tag = true
      ∧ (mS 0 [mOp]).queuedOn 0 1 = true ∧ (mS 0 []).queuedOn 0 1 = false :=
  ⟨by decide +kernel, by decide +kernel, by decide +kernel, by decide +kernel, admits_m _ _ _ rfl, admits_m _ _ _ rfl, by decide +kernel,
    by decide +kernel, admits_m _ _ _ rfl, by decide +kernel, by decide +kernel, by decide +kernel, by decide +kernel⟩

theorem wit_MatrixReads :
    (mS 0 []).owns 0 1 = true ∧ (∀ j < wHart.rc, (mS 0 []).vBusy 0 (9 + j) = false) ∧ (mS 0 []).Admits (cm 0) { barred := true, vs := [9] }
      ∧ ((mS 0 []).accum 0 1).covered = true ∧ (mS 0 []).Admits (cm 0) { barred := true, mods := 0x3F, vs := [9] }
      ∧ (((mS 0 []).modAccum 0 1 fun a => { a with covered := false }).accum 0 1).covered = false :=
  ⟨by decide +kernel, by decide +kernel, admits_m _ _ _ rfl, by decide +kernel, admits_m _ _ _ rfl, by decide +kernel⟩

/-- The full window of the test hart covers every byte of the store. -/
theorem covers_t (r : List W64) {b : Nat} (h : b < 2 ^ 21) : guardFor (0xB00007FFF0000000 :: r) 0 b = some 0xB00007FFF0000000 := by
  have h2 : b / 64 ≤ 32767 := by omega
  simp [guardFor, guardCovers, h2]

theorem granted_t {s : State} (p : W64) (n : Nat) (rd wr : Bool) (hw : (s.hart 0).windows = tHart.windows) (ha : (s.hart 0).asid = 0)
    (hx : s.execOnly 0 = 0) (hp : s.poison = []) (h : p.toNat + n ≤ 2 ^ 21) : s.Granted 0 p n rd wr := by
  refine ⟨by decide, h, fun b _ h2 => ⟨by rw [hx]; exact Nat.zero_le _, 0xB00007FFF0000000, ?_, by decide, fun _ => by decide, fun _ => by decide⟩,
    fun u hu => by rw [hp] at hu; simp at hu⟩
  rw [hw, ha]
  exact covers_t _ (by omega)

theorem permits_t {s : State} (ep : Nat) (r : List W64) (o n : Nat) (rd wr : Bool) (hx : s.execOnly ep = 0) (hp : s.poison = [])
    (h : o + n ≤ 2 ^ 21) : s.Permits ep (0xB00007FFF0000000 :: r) 0 o n rd wr :=
  ⟨h, fun b _ h2 => ⟨by rw [hx]; exact Nat.zero_le _, _, covers_t _ (by omega), by decide, fun _ => by decide, fun _ => by decide⟩,
    fun u hu => by rw [hp] at hu; simp at hu⟩

/-- A hart whose x7 and x8 point to the last bytes of its store and of device memory, and x10 to tile 1's store. -/
def pHart : Hart := { tHart with x := tHart.x ++ [(7, 0x1FFFF8), (8, 0x800007FFFFFFFFF8), (10, 0x4000000100000000), (11, 0x800007FFFFFFFFC0)] }
def pS : State := at_ pHart

theorem admits_p (m : BitVec 6) {hd : Head} (h : hd.dom = none) : pS.Admits (cm m) hd := admits_at m (by decide) h
theorem granted_p (p : W64) (n : Nat) (rd wr : Bool) (h : p.toNat + n ≤ 2 ^ 21) : pS.Granted 0 p n rd wr :=
  granted_t p n rd wr rfl rfl (by decide +kernel) rfl h

theorem wit_TileLoadsAndStores :
    pS.Admits (cm 0) { mods := 0x3B, nd := true } ∧ pS.Granted 0 (pHart.ea { base := 7, off := 0 } 8) 8 true false
      ∧ (pHart.ea { base := 7, off := 0 } 8).toNat % 8 = 0 ∧ pHart.tileOrder 0x1FFFF8 = false ∧ pS.loadWaits 0 0x1FFFF8 8 = false
      ∧ pHart.syncDrained = true ∧ pS.Admits (cm 0) { ps := [95] } ∧ pS.Granted 0 (pHart.ea { base := 3, off := 0 } 16) 256 true false
      ∧ (pHart.ea { base := 3, off := 0 } 16).toNat % 16 = 0
      ∧ pS.Admits (cm 0) (streamHead (some { slot := 15, last := true }) 0x30) ∧ pS.Admits (cm 0) { mods := 0x33 }
      ∧ pS.Granted 0 0x1FFFF8 8 false true ∧ pHart.loadsOverlap 0 (byteKey 0 0x1FFFF8) 8 = false ∧ pHart.drained 0 .sys = true
      ∧ pS.Granted 0 0x4000 256 false true :=
  ⟨admits_p _ rfl, granted_p _ _ _ _ (by decide), by decide, by decide, by decide +kernel, by decide, admits_p _ rfl,
    granted_p _ _ _ _ (by decide), by decide, admits_p _ rfl, admits_p _ rfl, granted_p _ _ _ _ (by decide), by decide +kernel, by decide,
    granted_p _ _ _ _ (by decide)⟩

/-- pHart with stream slot 3 open to device memory. -/
def sHart : Hart := { pHart with slots := [(3, { isOpen := true, closing := false, num := 9, seq := 0, ptr := 0x800007FFFFFFFF00, gen := 1 })] }

theorem lowest_free_zero {a : Hart} (h : a.journal = []) : a.lowestFree 0 :=
  ⟨by decide, by show mget none a.journal 0 = none; rw [h]; rfl, fun k hk => absurd hk (Nat.not_lt_zero _)⟩

theorem wit_PostedStores :
    (at_ sHart).Admits (cm 0) (streamHead (some { slot := 3, last := true }) 0x30) ∧ (at_ sHart).inWindow 0x800007FFFFFFFFF8 8 = true
      ∧ winOf (sHart.ea { base := 8, off := 0 } 8) = 2 ∧ (sHart.ea { base := 8, off := 0 } 8).toNat % 8 = 0 ∧ sHart.lowestFree 0
      ∧ (sHart.slot 3).isOpen = true ∧ (sHart.slot 3).closing = false ∧ destMatches 0x800007FFFFFFFFF8 (sHart.slot 3).ptr = true
      ∧ sHart.members 1 < 64 ∧ sHart.entriesOverlap 0 (byteKey 0 0x800007FFFFFFFFF8) 8 1 = false
      ∧ sHart.loadsOverlap 0 (byteKey 0 0x800007FFFFFFFFF8) 8 = false
      ∧ winOf (pHart.ea { base := 10, off := 0 } 8) = 1 ∧ pS.inWindow 0x4000000100000000 8 = true
      ∧ pS.Admits (cm 4) { mods := 0x07 } ∧ releaseOf (cm 4).mod = some .sys ∧ pHart.drained 0 .sys = true ∧ pHart.lowestFree 0
      ∧ pS.inWindow (pHart.ea { base := 11, off := 0 } 64) 64 = true ∧ (pHart.ea { base := 11, off := 0 } 64).toNat % 64 = 0
      ∧ pHart.tileOrder 0x800007FFFFFFFFC0 = false ∧ pHart.entriesOverlap 0 (byteKey 0 0x800007FFFFFFFFC0) 64 0 = false :=
  ⟨admits_at _ (by decide) rfl, by decide +kernel, by decide, by decide, lowest_free_zero rfl, by decide, by decide, by decide +kernel,
    by decide, by decide +kernel, by decide +kernel, by decide, by decide +kernel, admits_p _ rfl, by decide, by decide, lowest_free_zero rfl,
    by decide +kernel, by decide, by decide, by decide +kernel⟩

theorem wit_RemoteRequests :
    (pS.inWindow 0x800007FFFFFFFFF8 8 = true ∧ winOf 0x800007FFFFFFFFF8 ≠ 0 ∧ pS.loadWaits 0 0x800007FFFFFFFFF8 8 = false)
      ∧ (0x800007FFFFFFFFF8 : W64).toNat % 8 = 0 ∧ winOf (pHart.ea { base := 8, off := 0 } 8) = 2 ∧ pS.Admits (cm 0) { mods := 0x38 }
      ∧ pS.Admits (cm 0) { mods := 0x3B, nd := true } ∧ pHart.syncDrained = true ∧ winOf (pHart.ea { base := 10, off := 0 } 8) = 1
      ∧ (pS.inWindow 0x800007FFFFFFFF00 256 = true ∧ pS.loadWaits 0 0x800007FFFFFFFF00 256 = false ∧ pS.Admits (cm 0) { ps := [95] })
      ∧ pHart.loadsOverlap 0 (byteKey 0 0x800007FFFFFFFFF8) 8 = false ∧ releaseOf (cm 8).mod = none
      ∧ pS.Admits (cm 8) { mods := 0x2F, nd := true } :=
  ⟨⟨by decide +kernel, by decide, by decide +kernel⟩, by decide, by decide, admits_p _ rfl, admits_p _ rfl, by decide, by decide,
    ⟨by decide +kernel, by decide +kernel, admits_p _ rfl⟩, by decide +kernel, by decide, admits_p _ rfl⟩

theorem wit_AddressChecks :
    pS.CanTrap 0 ∧ pS.Admits (cm 0) { mods := 0x38 } ∧ winOf 0x4000000100000000 ∉ [0, 2] ∧ pS.inWindow 0x1FFFFC 8 = false
      ∧ winOf 0x1FFFF1 ∈ [0, 2] ∧ pS.inWindow 0x1FFFF1 8 = true ∧ (0x1FFFF1 : W64).toNat % 8 ≠ 0
      ∧ guardFor { pHart with stguard := [] }.windows 0 0x4000 = none ∧ (0x4000 : Nat) < (at_ { pHart with xbnd := 0x4001 }).execOnly 0
      ∧ (∃ g, guardFor { pHart with stguard := [(0, 0xA00007FFF0000000)] }.windows 0 0x4000 = some g ∧ g.getLsbD 60 = false)
      ∧ (0x4000 : W64).toNat + 8 ≤ 2 ^ 21 ∧ pHart.tileOrder 0x4000 = false ∧ pS.loadWaits 0 0x4000 8 = false
      ∧ pHart.loadsOverlap 0 (byteKey 0 0x4000) 8 = false ∧ pHart.syncDrained = true ∧ releaseOf (cm 0).mod = none
      ∧ pS.Admits (cm 0) { mods := 0x2F, nd := true } :=
  ⟨⟨by decide, by decide, by decide⟩, admits_p _ rfl, by decide, by decide +kernel, by decide, by decide +kernel, by decide, by decide +kernel,
    by decide +kernel, ⟨0xA00007FFF0000000, by decide +kernel⟩, by decide, by decide, by decide +kernel, by decide +kernel, by decide,
    by decide, admits_p _ rfl⟩

theorem wit_TileAtomics :
    pS.Admits (cm 4) { mods := 0x2F, nd := true } ∧ pS.Granted 0 0x1FFFF8 8 true true ∧ (0x1FFFF8 : W64).toNat % 8 = 0
      ∧ pHart.tileOrder 0x1FFFF8 = false ∧ pS.loadWaits 0 0x1FFFF8 8 = false ∧ pHart.syncDrained = true
      ∧ pHart.loadsOverlap 0 (byteKey 0 0x1FFFF8) 8 = false ∧ pHart.drained 0 .sys = true
      ∧ pS.Admits (cm 0) { mods := 0x0F, nd := true } ∧ pS.Granted 0 0x4000 16 true true :=
  ⟨admits_p _ rfl, granted_p _ _ _ _ (by decide), by decide, by decide, by decide +kernel, by decide, by decide +kernel, by decide,
    admits_p _ rfl, granted_p _ _ _ _ (by decide)⟩

theorem wit_CellsAndBarriers :
    pS.Admits (cm 0) { mods := 0x0B } ∧ pS.Granted 0 0x4000 64 true false ∧ (0x4000 : W64).toNat % 64 = 0 ∧ pS.Admits (cm 0) {}
      ∧ pS.Granted 0 0x4000 32 true true ∧ pHart.pend = none ∧ (pS.byte (placeOf 0 0x4000 + 16)).getLsbD 0 ≠ (pHart.rx 6).getLsbD 0
      ∧ (pS.byte (placeOf 0 0x4000 + 16)).getLsbD 0 = (pHart.rx 0).getLsbD 0 ∧ pHart.tileOrder 0x4000 = false
      ∧ pS.loadWaits 0 0x4000 64 = false ∧ pHart.syncDrained = true ∧ pHart.loadsOverlap 0 (byteKey 0 0x4000) 32 = false :=
  ⟨admits_p _ rfl, granted_p _ _ _ _ (by decide), by decide, admits_p _ rfl, granted_p _ _ _ _ (by decide), by decide, by decide +kernel,
    by decide +kernel, by decide, by decide +kernel, by decide, by decide +kernel⟩

/-- pHart with row v9 as given, and row v2 of i8. -/
def vS (r : VecReg) : State := at_ { pHart with v := [(2, { VecReg.init with tag := plainTag .i8 }), (9, r)] }

theorem admits_v (r : VecReg) (m : BitVec 6) {hd : Head} (h : hd.dom = none) : (vS r).Admits (cm m) hd :=
  admits rfl rfl (by show (4 : BitVec 12) ≠ 0; decide) (guard_plain _ _) rfl h

theorem wit_VectorLoads :
    (vS .init).Admits (cm 0) { vs := [9], elem := true } ∧ (∀ v ∈ rowsOf 9 1, (vS .init).vBusy 0 v = false)
      ∧ winOf (pHart.ea { base := 3, off := 0 } 16) = 0 ∧ (pHart.ea { base := 3, off := 0 } 16).toNat % elemBytes (accWidth (plainTag .f32)) = 0
      ∧ (∀ e < 4, ∀ k < 4, (vS .init).sameWindow (elemAddr .unit 0x4000 0 32 4 0 e 0 0) (elemAddr .unit 0x4000 0 32 4 0 k 0 0 + 3) = true
          ∧ (vS .init).sameWindow (elemAddr .unit 0x4000 0 32 4 0 e 0 0) (elemAddr .unit 0x4000 0 32 4 0 k 0 0) = true)
      ∧ (∀ e < 4, (vS .init).loadWaits 0 (elemAddr .unit 0x4000 0 32 4 0 e 0 0) 4 = false
          ∧ pHart.tileOrder (elemAddr .unit 0x4000 0 32 4 0 e 0 0) = false)
      ∧ ldFmtOk 0x0F = true ∧ (vS .init).Admits (cm 0x0F) { vs := [9, 2], bV := true, mods := 0x1F, elem := true }
      ∧ (∀ v ∈ rowsOf 2 1, isInt (((vS .init).hart 0).rv v).fmt = true ∧ (((vS .init).hart 0).rv v).pi = 64
          ∧ (((vS .init).hart 0).rv v).poisoned = false)
      ∧ (vS faulted).Admits (cm 0) { vs := [9] } ∧ (∀ v ∈ rowsOf 9 1, (vS faulted).resumeWaits 0 v = false)
      ∧ (vS faulted).cur = 0 ∧ ldOne.offReg.toNat + (9 - ldOne.d.toNat) ∉ rowsOf 9 1
      ∧ (∃ l, (((vS faulted).hart 0).rv 9).lrec = some l ∧ l.desc = ldOne ∧ (((vS faulted).hart 0).rv 9).poisoned = true
          ∧ (((vS faulted).hart 0).rv 9).pi < 64 ∧ (((vS faulted).hart 0).rv 9).flight = none)
      ∧ (at_ { localHart with v := [(9, faulted)] }).resumeWaits 0 9 = true
      ∧ (∃ v ∈ rowsOf 9 1, (((vS flying).hart 0).rv v).flight.isSome = true)
      ∧ ((((vS faulted).hart 0).firstTrap (rowsOf 9 1)).isSome = true ∧ ∀ v ∈ rowsOf 9 1, (((vS faulted).hart 0).rv v).flight = none)
      ∧ (let a := (vS { VecReg.init with pi := 63 }).hart 0
         (∀ v ∈ rowsOf 9 1, (a.rv v).flight = none ∧ (a.rv v).poisoned = false) ∧ ∃ v ∈ rowsOf 9 1, (a.rv v).pi < 64)
      ∧ (∀ v ∈ rowsOf 9 1, (((vS .init).hart 0).rv v).flight = none ∧ (((vS .init).hart 0).rv v).poisoned = false ∧ (((vS .init).hart 0).rv v).pi = 64) :=
  ⟨admits_v _ _ rfl, by decide +kernel, by decide +kernel, by decide +kernel, by decide +kernel, by decide +kernel, by decide, admits_v _ _ rfl,
    by decide +kernel, admits_v _ _ rfl, by decide +kernel, rfl, by decide, ⟨_, rfl, by decide +kernel⟩, by decide +kernel, ⟨9, by decide +kernel⟩,
    by decide +kernel, by decide +kernel, by decide +kernel⟩

theorem wit_VectorStores :
    (at_ { wHart with x := pHart.x }).Admits (cm 0) { streamHead none 0 with vs := [2], aV := true, elem := true }
      ∧ (at_ { wHart with x := pHart.x }).VReady 64 [] (rowsOf 2 1 ++ []) ∧ accWidth (wHart.rv 2).tag = 8
      ∧ winOf (pHart.ea { base := 3, off := 0 } 16) = 0 ∧ (0x4000 : Nat) % elemBytes 8 = 0
      ∧ (∀ e < 4, (at_ { wHart with x := pHart.x }).Granted 0 (elemAddr .unit 0x4000 0 8 4 0 e 0 0) 1 false true)
      ∧ (∀ e < 4, wHart.loadsOverlap 0 (byteKey 0 (elemAddr .unit 0x4000 0 8 4 0 e 0 0)) 1 = false
          ∧ wHart.tileOrder (elemAddr .unit 0x4000 0 8 4 0 e 0 0) = false)
      ∧ (let act := (List.range 4).map fun e => ((0 : Nat), e)
         let addr := fun (j e : Nat) => elemAddr .unit 0x4000000100000000 0 8 4 j e 0 0
         winOf (match act.head? with | some q => addr q.1 q.2 | none => 0x4000000100000000) ≠ 0
          ∧ (at_ { wHart with x := pHart.x }).runTrap [0, 1, 2, 3] 0x4000000100000000 0 8 true act addr = none)
      ∧ (∃ u, (at_ wHart).post 0 (cm 0) 0 0 false false [{ addr := 0x4000000100000000, data := [1], mask := [3] }] = some u)
      ∧ (at_ { wHart with journal := (List.range 128).map fun i => (i, some (entryAt 0x4000000100000000)) }).post 0 (cm 0) 0 0 false false
          [{ addr := 0x4000000100000000, data := [1], mask := [3] }] = none :=
  ⟨admits_at _ (by decide) rfl, ⟨by rfl, by decide, by decide +kernel⟩, by decide +kernel, by decide, by decide,
    fun e he => granted_t _ _ _ _ rfl rfl (by decide +kernel) rfl (by
      have : e = 0 ∨ e = 1 ∨ e = 2 ∨ e = 3 := by omega
      rcases this with rfl | rfl | rfl | rfl <;> decide +kernel), by decide +kernel, by decide +kernel, ⟨_, rfl⟩, by decide +kernel⟩

/-- sHart in service, with a refused entry; slot 3's binding has a member outstanding in the second. -/
def jHart : Hart := { sHart with svc := true, journal := [(0, some { entryAt 0x4000000100000000 with refused := true, reason := 1 })] }
def mHart : Hart := { sHart with journal := [(0, some { entryAt 0x800007FFFFFFFFF8 with slot := 3, gen := 1, strm := 9 })]
                                 slots := [(3, { isOpen := true, closing := true, num := 9, seq := 1, ptr := 0x800007FFFFFFFF00, gen := 1 })] }

theorem wit_StreamsAndJournal :
    (at_ sHart).Admits (cm 0) { barred := true, last0 := false } ∧ winOf (sHart.rx 8) ≠ 0 ∧ (sHart.slot 15).isOpen = false ∧ (sHart.slot 15).closing = false
      ∧ winOf (sHart.rx 3) = 0 ∧ (at_ sHart).CanTrap 0
      ∧ (at_ mHart).Admits (cm 0) { barred := false, last0 := false } ∧ (mHart.slot 3).closing = true ∧ mHart.members (mHart.slot 3).gen ≠ 0
      ∧ { mHart with journal := [] }.members 1 = 0 ∧ (sHart.slot 3).closing = false ∧ (sHart.slot 3).isOpen = true ∧ sHart.lowestFree 0
      ∧ sHart.members (sHart.slot 3).gen < 64 ∧ (mHart.ents.any fun e => decide (e.2.slot = 0)) = false
      ∧ (at_ jHart).Admits (cm 0) {} ∧ jHart.svc = true ∧ (∀ e, jHart.entry 0 = some e → e.asid = jHart.asid)
      ∧ (∃ e, jHart.entry 0 = some e ∧ e.refused = true) ∧ jHart.entry 127 = none
      ∧ (at_ sHart).Admits (cm 0) {} ∧ sHart.svc = false
      ∧ ({ jHart with asid := 1 }.svc = true ∧ ∃ e, { jHart with asid := 1 }.entry 0 = some e ∧ e.asid ≠ { jHart with asid := 1 }.asid) :=
  ⟨admits_at _ (by decide) rfl, by decide, by decide, by decide, by decide, ⟨by decide, by decide, by decide⟩, admits_at _ (by decide) rfl,
    by decide, by decide, by decide, by decide, by decide, lowest_free_zero rfl, by decide, by decide, admits_at _ (by decide) rfl, by decide,
    fun e h => by cases h; rfl, ⟨_, rfl, rfl⟩, by decide, admits_at _ (by decide) rfl, by decide, by decide, ⟨_, rfl, by decide⟩⟩

theorem wit_Fences :
    (at_ tHart).Admits (cm 0) {} ∧ tHart.ents = [] ∧ (at_ remoteHart).Admits (cm 0) {} ∧ remoteHart.ents ≠ []
      ∧ ((localHart.ents.filter fun e => decide (scopeOf 0 e.2.addr = 0)).length ≠ 0)
      ∧ (∀ v ∈ tHart.v, v.2.flight = none ∧ (v.2.lrec = none ∨ 64 ≤ v.2.pi)) ∧ (vS flying).Admits (cm 0) {}
      ∧ ¬(∀ v ∈ ((vS flying).hart 0).v, v.2.flight = none ∧ (v.2.lrec = none ∨ 64 ≤ v.2.pi))
      ∧ ¬(∀ v ∈ ((vS faulted).hart 0).v, v.2.flight = none ∧ (v.2.lrec = none ∨ 64 ≤ v.2.pi)) :=
  ⟨admits_at _ (by decide) rfl, by decide, admits_at _ (by decide) rfl, by decide, by decide, by decide, admits_v _ _ rfl, by decide +kernel,
    by decide +kernel⟩

/-- A state in which hart 0's port k0 writes channel 0 of partition 0, k1 reads channel 1, and each has slots or tokens as given. -/
def cS (mode : ChanMode) (slots : Nat) (toks : List Token) : State :=
  let b := fun (c : Nat) (out : Bool) => some ({ part := 0, chan := c, out := out, mode := mode, fmt := .f32, idx := 0 } : PortBinding)
  let ch : Chan := { fmt := .f32, mode := mode, depth := 8, f := 1, plats := [(0, { Platform.init with cap := 8, toks := toks })]
                     slots := [(0, slots)], strip := 0, turn := 0, ended := [], writers := [], readers := [] }
  { at_ { wHart with k := [(0, b 0 true), (1, b 1 false)], part := some 0 } with
    parts := [(0, { Partition.init with bound := true, chans := [(0, ch), (1, ch)] })] }

theorem admits_c (mode : ChanMode) (n : Nat) (ts : List Token) {hd : Head} (h : hd.dom = none) : (cS mode n ts).Admits (cm 0) hd :=
  admits rfl rfl (by show (4 : BitVec 12) ≠ 0; decide) (guard_plain _ _) rfl h

theorem wit_ChannelTransfers :
    (cS .normal 0 []).Admits (cm 0) { barred := true } ∧ (∃ b, ((cS .normal 0 []).hart 0).rk 0 = some b ∧ b.out = true)
      ∧ ((cS .normal 0 []).chan 0 0).slotCount 0 = 0 ∧ ((cS .normal 1 []).chan 0 0).slotCount 0 ≠ 0 ∧ ((cS .normal 1 []).chan 0 0).mode ≠ .deal
      ∧ ((cS .deal 0 []).chan 0 0).mode = .deal ∧ (∃ j < ((cS .deal 0 []).chan 0 0).f, ((cS .deal 0 []).chan 0 0).slotCount j = 0)
      ∧ (∀ j < ((cS .deal 1 []).chan 0 0).f, ((cS .deal 1 []).chan 0 0).slotCount j ≠ 0)
      ∧ (∀ b, ((cS .normal 0 []).hart 0).rk 1 = some b → b.out = false) ∧ (cS .normal 0 []).CanTrap 0
      ∧ (cS .normal 0 []).Admits (cm 0) { barred := true, ps := [5] } ∧ (∃ b, ((cS .normal 0 []).hart 0).rk 1 = some b ∧ b.out = false)
      ∧ (((cS .normal 0 []).chan 0 1).plat 0).toks = [] ∧ (((cS .normal 0 [endToken]).chan 0 1).plat 0).toks = [endToken] ∧ endToken.bad = false
      ∧ (((cS .normal 0 [{ endToken with bad := true }]).chan 0 1).plat 0).toks = [{ endToken with bad := true }] :=
  ⟨admits_c _ _ _ rfl, ⟨_, rfl, rfl⟩, by decide +kernel, by decide +kernel, by decide +kernel, by decide +kernel, ⟨0, by decide +kernel⟩,
    by decide +kernel, fun b h => by cases h; rfl, ⟨by decide, by decide, by decide⟩, admits_c _ _ _ rfl, ⟨_, rfl, rfl⟩, by decide +kernel,
    by decide +kernel, by decide, by decide +kernel⟩

theorem wit_VectorChannels :
    (cS .normal 2 []).Admits (cm 0) { barred := true, vs := [1], aV := true, elem := true }
      ∧ (∀ j < wHart.rc, wHart.rowFmt 1 j = .f32) ∧ (4 * 32 + 63) / 64 = 2
      ∧ wHart.rc * 2 ≤ ((cS .normal 2 []).chan 0 0).slotCount 0 ∧ ((cS .normal 1 []).chan 0 0).slotCount 0 < wHart.rc * 2
      ∧ (∀ j < wHart.rc, (wHart.rv (1 + j)).pi = 64 ∧ (wHart.rv (1 + j)).poisoned = false)
      ∧ (cS .normal 0 []).Admits (cm 0) { barred := true, vs := [9], ps := [5], elem := true }
      ∧ (∀ j < wHart.rc, (cS .normal 0 []).vBusy 0 (9 + j) = false) ∧ ((cS .normal 0 []).chan 0 1).receive 0 2 = none
      ∧ (∃ r, ((cS .normal 0 [dataToken 5, endToken]).chan 0 1).receive 0 2 = some r ∧ r.bad = false) :=
  ⟨admits_c _ _ _ rfl, by decide +kernel, by decide, by decide +kernel, by decide +kernel, by decide +kernel, admits_c _ _ _ rfl,
    by decide +kernel, by decide +kernel, ⟨_, rfl, by decide +kernel⟩⟩

/-- A transfer of 64 bytes from 0x4000 to 0x5000 in hart 0's own store. -/
def xf (running : Bool) (set : CopySet) : Xfer :=
  { set := set, id := 0, w := 2, asid := 0, hart := 0, prio := 0, running := running, row := 0, off := 0, copied := 0
    ws := tHart.windows, wait := none, piece := none }
def aSet : CopySet := { src := 0x4000, dst := 0x5000, len := 64, stride := 0, shape := 1, bar := 0 }
def qS (q : List Xfer) (w : WaitTok) : State := (at_ { pHart with w := [(2, w)] }).setTile 0 { Tile.init with copyq := q }

theorem admits_q (q : List Xfer) (w : WaitTok) {hd : Head} (h : hd.dom = none) : (qS q w).Admits (cm 0) hd :=
  admits rfl rfl (by show (4 : BitVec 12) ≠ 0; decide) (guard_plain _ _) rfl h

theorem wit_CopyInstructions :
    (qS [] .init).Admits (cm 0) { barred := true } ∧ (((qS [] .init).tile 0).copyq).length < 16 ∧ (((qS [] .init).hart 0).rw 2).count ≠ BitVec.allOnes 16
      ∧ 16 ≤ (((qS (List.replicate 16 (xf false aSet)) .init).tile 0).copyq).length ∧ (qS [] .init).Admits (cm 0) { nd := true }
      ∧ (∃ k ∈ (List.range 8).filter fun k => (pHart.xu (.i (4 : BitVec 8))).getLsbD k, (((qS [] { count := 1, fail := none }).hart 0).rw k).count ≠ 0)
      ∧ (∀ k ∈ (List.range 8).filter fun k => (pHart.xu (.i (4 : BitVec 8))).getLsbD k, (((qS [] .init).hart 0).rw k).count = 0
          ∧ (((qS [] .init).hart 0).rw k).fail = none)
      ∧ ((((qS [] { count := 0, fail := some { cause := 4, addr := 0, id := 1 } }).hart 0).rw 2).fail = some { cause := 4, addr := 0, id := 1 }
          ∧ (((qS [] { count := 0, fail := some { cause := 4, addr := 0, id := 1 } }).hart 0).rw 2).count = 0)
      ∧ (qS [] { count := 0, fail := some { cause := 4, addr := 0, id := 1 } }).CanTrap 0 :=
  ⟨admits_q _ _ rfl, by decide +kernel, by decide +kernel, by decide +kernel, admits_q _ _ rfl, ⟨2, by decide +kernel⟩, by decide +kernel,
    by decide +kernel, ⟨by decide, by decide, by decide⟩⟩

/-- A packet for endpoint e, and the state in which it alone has arrived. -/
def pkt (e : Nat) (m : Msg) : Packet :=
  { id := 1, src := 0, dst := .ep e, vc := 0, prio := 0, bank := false, part := none, hops := 0, home := 0, dl := 0, msg := m }
def arr (s : State) (q : Packet) : State := { s with arrived := [q] }

theorem arrived_one (s : State) (q : Packet) (h : q.id = 1) : (arr s q).Arrived 1 q :=
  ⟨List.mem_singleton.mpr rfl, h, fun _ hr _ => List.mem_singleton.mp hr⟩

theorem wit_JournalReplies :
    (arr (at_ remoteHart) (pkt 0 (.ack 0 0 0))).Arrived 1 (pkt 0 (.ack 0 0 0)) ∧ remoteHart.entry 0 = some (entryAt 0x4000000100000000)
      ∧ (entryAt 0x4000000100000000).stamp = 0
      ∧ (arr (at_ remoteHart) (pkt 0 (.nack 0 0 0 7))).Arrived 1 (pkt 0 (.nack 0 0 0 7)) ∧ ¬(1045 ≤ (pkt 0 (.nack 0 0 0 7)).src)
      ∧ (arr (at_ remoteHart) (pkt 0 (.nack 0 0 0 1))).Arrived 1 (pkt 0 (.nack 0 0 0 1)) ∧ (1 : BitVec 4) ≠ 7
      ∧ (∃ e, (0, e) ∈ jHart.ents ∧ e.refused = true ∧ e.rep = none ∧ e.asid = jHart.asid)
      ∧ jHart.ents.length = 1 ∧ { jHart with svc := false }.svc = false ∧ (at_ { jHart with svc := false }).CanTrap 0
      ∧ jHart.held = false ∧ jHart.stopped = false ∧ jHart.own ≠ .parked ∧ jHart.unwind = none ∧ jHart.fatal = none ∧ jHart.pend = none ∧ jHart.inMiddle = false :=
  ⟨arrived_one _ _ rfl, rfl, rfl, arrived_one _ _ rfl, by decide, arrived_one _ _ rfl, by decide,
    ⟨_, List.mem_singleton.mpr rfl, rfl, rfl, rfl⟩, rfl, rfl, ⟨by decide, by decide, by decide⟩, rfl, rfl, by decide, rfl, rfl, rfl, rfl⟩

/-- A write of KIND k from a hart of tile 1 to byte 0x4000 of tile 0. -/
def wr (k : BitVec 3) : Msg := .write 4 0 { entryAt 0x4000000000004000 with kind := k }
/-- A member of stream 9, with SEQ 0. -/
def mem0 : JEntry := { entryAt 0x4000000000004000 with gen := 1, strm := 9, slot := 3 }
def strS (sender : Nat) : State :=
  (arr pS (pkt 0 (.write 4 0 mem0))).setStreams 0 [{ sender := sender, num := 9, next := 0, held := [pkt 0 (.write 4 0 mem0)], skips := [], busy := none, gen := 1 }]

theorem wit_PostedWritesPerformed :
    (∀ k, (arr pS (pkt 0 (wr k))).Arrived 1 (pkt 0 (wr k)) ∧ (arr pS (pkt 0 (wr k))).frozen none = false)
      ∧ (∀ rd, (arr pS (pkt 0 (wr 0))).Permits 0 ((arr pS (pkt 0 (wr 0))).tileWindows 0) 0 0x4000 1 rd true)
      ∧ (∀ rd, (arr pS (pkt 0 (wr 1))).Permits 0 ((arr pS (pkt 0 (wr 1))).tileWindows 0) 0 0x4000 64 rd true)
      ∧ guardFor ((at_ { pHart with stguard := [] }).tileWindows 0) 0 0x4000 = none
      ∧ (∃ m r, (entryAt 0x4000000000004000).mask = m :: r ∧ m ≠ 0) ∧ (entryAt 0x4000000000004000).rel = false
      ∧ (∀ y ∈ (arr pS (pkt 0 (.write 4 0 mem0))).streamsAt 0, y.num ≠ 9) ∧ mem0.gen ≠ 0 ∧ (∀ m, (arr pS (pkt 0 m)).behind (pkt 0 m) = false)
      ∧ (strS 4).behind (pkt 0 (.write 4 0 mem0)) = false
      ∧ winOf (entryAt 0x4000000000004000).addr ≠ 0 ∧ (arr pS (pkt 0 (wr 0))).Permits 0 ({ entryAt 0x4000 with ws := tHart.windows }).ws 0 0x4000 1 false true
      ∧ guardFor (entryAt 0x4000).ws 0 0x4000 = none
      ∧ (strS 4).Arrived 1 (pkt 0 (.write 4 0 mem0)) ∧ (strS 8).Arrived 1 (pkt 0 (.write 4 0 mem0))
      ∧ (∃ x, (((strS 4).streamsAt 0).find? fun y => decide (y.num = 9)) = some x ∧ x.sender = 4 ∧ x.skips = [] ∧ x.busy = none ∧ x.next = 0
          ∧ (x.held.find? fun r => decide (memberSeq r = x.next)) = some (pkt 0 (.write 4 0 mem0)))
      ∧ (∃ x, (((strS 8).streamsAt 0).find? fun y => decide (y.num = 9)) = some x ∧ x.sender ≠ 4)
      ∧ (strS 4).frozen none = false
      ∧ (strS 4).Permits 0 ((strS 4).tileWindows 0) 0 0x4000 1 false true
      ∧ (arr pS (pkt 0 (.skip 4 9 0 0 1))).Arrived 1 (pkt 0 (.skip 4 9 0 0 1)) :=
  ⟨fun _ => ⟨arrived_one _ _ rfl, rfl⟩, fun _ => permits_t 0 _ _ _ _ _ (by decide +kernel) rfl (by decide),
    fun _ => permits_t 0 _ _ _ _ _ (by decide +kernel) rfl (by decide), by decide +kernel, ⟨_, _, rfl, by decide⟩, rfl, by decide +kernel, by decide,
    fun m => by simp [State.behind, arr, pkt], by decide +kernel, by decide, permits_t 0 _ _ _ _ _ (by decide +kernel) rfl (by decide), by decide,
    ⟨List.mem_singleton.mpr rfl, rfl, fun _ hr _ => List.mem_singleton.mp hr⟩, ⟨List.mem_singleton.mpr rfl, rfl, fun _ hr _ => List.mem_singleton.mp hr⟩,
    ⟨_, rfl, rfl, rfl, rfl, rfl, rfl⟩, ⟨_, rfl, by decide⟩, rfl,
    permits_t 0 _ _ _ _ _ (by decide +kernel) rfl (by decide), arrived_one _ _ rfl⟩

/-- A 64 KiB page of ASID 0 at virtual 0, which station 0 caches. -/
def leaf0 : Leaf := { asid := 0, va := 0, pa := 0x10000, size := 65536, rd := true, wr := true, pin := true, at_ := 0x2000 }
/-- Such a page of the second tier, whose bytes another station serves. -/
def leaf2 : Leaf := { leaf0 with pa := 0x006000000000 }
def tS (s : State) : State := s.setStation 0 { Station.init with tlb := [leaf0] }

theorem wit_RequestsPerformed :
    (arr pS (pkt 0 (.read 4 0 0x4000000000004000 8 0 false))).Arrived 1 (pkt 0 (.read 4 0 0x4000000000004000 8 0 false))
      ∧ pS.frozen none = false ∧ pS.Permits 0 (pS.windowsFor 0 4 0x4000000000004000) 0 0x4000 8 true false
      ∧ (arr (tS pS) (pkt 1024 (.read 4 0 0x800000000000FFF8 8 0 false))).Arrived 1 (pkt 1024 (.read 4 0 0x800000000000FFF8 8 0 false))
      ∧ ((((tS pS).station 0).tlb.find? fun l => decide (l.asid = 0) && decide (l.va ≤ vaOf 0x800000000000FFF8)
          && decide (vaOf 0x800000000000FFF8 < l.va + l.size)) = some leaf0 ∧ leaf0.rd = true
        ∧ vaOf 0x800000000000FFF8 % 65536 + 8 ≤ 65536 ∧ 0x1FFF8 + 8 ≤ bridgeBase)
      ∧ servedBy (leaf0.pa + 0xFFF8) = 15 ∧ servedBy (leaf0.pa + 0xFF8) = 0 ∧ servedBy (leaf2.pa + 0xFF8) = 16
      ∧ (arr pS (pkt 0 (.atomic 4 0 (.amo .add 8 false 1) 0x4000000000004000 0 false false))).Arrived 1
          (pkt 0 (.atomic 4 0 (.amo .add 8 false 1) 0x4000000000004000 0 false false))
      ∧ pS.Permits 0 (pS.windowsFor 0 4 0x4000000000004000) 0 0x4000 (AtomicOp.amo .add 8 false 1).span true true
      ∧ (AtomicOp.amo .add 8 false 1).waits ((AtomicOp.amo .add 8 false 1).run (pS.peek (storeBase 0 + 0x4000) 8)).1 = false
      ∧ (AtomicOp.bwait false).waits ((AtomicOp.bwait false).run (pS.peek (storeBase 0 + 0x4000) 32)).1 = true :=
  ⟨arrived_one _ _ rfl, rfl, permits_t 0 _ _ _ _ _ (by decide +kernel) rfl (by decide), arrived_one _ _ rfl, by decide +kernel, by decide, by decide, by decide,
    arrived_one _ _ rfl, permits_t 0 _ _ _ _ _ (by decide +kernel) rfl (by decide), by decide +kernel, by decide +kernel⟩

def pendHart (k : PendKind) : Hart := { pHart with pend := some { id := 3, kind := k, wflag := 0, yld := false } }

theorem wit_RepliesArrive :
    (arr (at_ (pendHart (.load 9 8 false false))) (pkt 0 (.readRep 0 3 (.data (List.replicate 8 1))))).Arrived 1
        (pkt 0 (.readRep 0 3 (.data (List.replicate 8 1))))
      ∧ (∀ k, (pendHart k).pend = some { id := 3, kind := k, wflag := 0, yld := false }) ∧ pHart.part = none
      ∧ (at_ (pendHart (.load 9 8 false false))).copyWaiting 0 3 = none
      ∧ (List.replicate 8 (1 : Byte)).length = 8 ∧ (List.replicate 16 (1 : Byte)).length = 16
      ∧ (arr (at_ (pendHart (.atomic 9 8 false false))) (pkt 0 (.atomicRep 0 3 (.trap 3 0x4000 0)))).Arrived 1
          (pkt 0 (.atomicRep 0 3 (.trap 3 0x4000 0)))
      ∧ (at_ (pendHart (.atomic 9 8 false false))).CanTrap 0 :=
  ⟨arrived_one _ _ rfl, fun _ => rfl, rfl, by decide +kernel, rfl, rfl, arrived_one _ _ rfl, ⟨by decide, by decide, by decide⟩⟩

theorem wit_LoadGroupsLand :
    (∃ f, (((vS flying).hart 0).rv 9).flight = some f ∧ f.landed.getLsbD 0 = false ∧ accWidth f.desc.tag = 32 ∧ f.desc.kind = .unit
        ∧ (f.desc.elems 0 = [0, 1, 2, 3]) ∧ (∀ e < 4, winOf (f.addr 9 e) = 0)
        ∧ (∀ e < 4, (vS flying).Permits 0 f.desc.ws 0 (offOf (f.addr 9 e)) 4 true false)
        ∧ f.landed ||| BitVec.twoPow 64 0 = BitVec.allOnes 64 ∧ ((vS flying).hart 0).earlierRow f.desc 9 = false
        ∧ ((vS flying).hart 0).spoils f 9 = false ∧ ((vS flying).hart 0).spoils { f with again := true, spoilt := true } 9 = true)
      ∧ (0 : BitVec 64) ||| BitVec.twoPow 64 63 ≠ BitVec.allOnes 64
      ∧ (let f : Flight := { flightOne with desc := { ldOne with kind := .gather, base := 0x8000000000000000 } }
         (vS flying).ptrTrap [0, 2] (f.addr 9 0) 4 4 = none ∧ winOf (f.addr 9 0) = 2
          ∧ (let s := arr (vS flying) (pkt 0 (.elemsRep 0 0 9 0 [(0, .data [1, 2, 3, 4])]))
             replyFor 0 (s.groupReplies 0 f.id 9 0) = some (.data [1, 2, 3, 4]))) :=
  ⟨⟨_, rfl, by decide +kernel, by decide +kernel, rfl, by decide +kernel, by decide +kernel,
    fun e he => permits_t 0 _ _ _ _ _ (by decide +kernel) rfl (by
      have : e = 0 ∨ e = 1 ∨ e = 2 ∨ e = 3 := by omega
      rcases this with rfl | rfl | rfl | rfl <;> decide +kernel), by decide +kernel, by decide +kernel, by decide +kernel, by decide +kernel⟩,
    by decide, by decide +kernel⟩

/-- Partition 0 with station pair 0: requests on channel 0, replies on channel 1 with n slots, a reply in progress as given. -/
def prS (toks out : List Token) (n : Nat) : State :=
  let ch : Chan := { fmt := .i64, mode := .normal, depth := 8, f := 1, plats := [(0, { Platform.init with cap := 8, toks := toks })]
                     slots := [(0, n)], strip := 0, turn := 0, ended := [], writers := [], readers := [] }
  (tS { pS with parts := [(0, { Partition.init with
    bound := true, chans := [(0, ch), (1, ch)], pairs := [(0, { req := 0, rep := 1, home := 0, asid := 0, out := out })] })] })
/-- A read of 8 bytes at 0, and a write of 8 bytes. -/
def rdTok : Token := dataToken 0x1000700000000000
def wrTok : Token := dataToken 0x2000700000000000

theorem wit_ChannelPackets :
    (arr (cS .normal 0 []) (pkt 0 (.tokens 0 1 0 [endToken]))).Arrived 1 (pkt 0 (.tokens 0 1 0 [endToken]))
      ∧ (arr (cS .normal 0 []) (pkt 0 (.slots 0 0 0 5))).Arrived 1 (pkt 0 (.slots 0 0 0 5))
      ∧ (arr (cS .normal 0 []) (pkt 0 (.grant 0 0 0 8))).Arrived 1 (pkt 0 (.grant 0 0 0 8))
      ∧ (∀ q ∈ (arr (cS .normal 0 []) (pkt 0 (.tokens 0 1 0 [endToken]))).arrived, ∀ l, q.msg = .tokens 0 1 0 l → q = pkt 0 (.tokens 0 1 0 [endToken]))
      ∧ (let x := { (cS .normal 0 []).chan 0 1 with readers := [(0, .hart 0 1)] }
         x.readerOf 0 = some (.hart 0 1) ∧ (x.plat 0).placeOf (x.plat 0).toks.length < x.depth)
      ∧ (prS [rdTok] [] 8).mayServeAt 0 (some 0) = true
      ∧ (let s := arr ((prS [rdTok] [] 8).modStation 0 fun x => { x with sbudget := [(0, 0)] }) (pkt 1024 (.read 4 0 0x8000000000000000 8 0 false))
         s.frozen (some 0) = false ∧ s.mayServeAt 0 (some 0) = false ∧ (s.nextRequest 0 0).isSome = true ∧ (s.pairOf 0 0).out = [])
      ∧ (∀ runs v, (prS [rdTok] [] 8).translateAll 0 0 kRead true 0 8 3 = some (runs, v) → v.poison = [])
      ∧ (prS [] [] 8).frozen (some 0) = false ∧ ((prS [] [] 8).pairOf 0 0).out = [] ∧ (prS [] [] 8).nextRequest 0 0 = none
      ∧ ((prS [] [endToken] 0).pairOf 0 0).out ≠ [] ∧ ((prS [] [endToken] 0).chan 0 1).slotCount ((prS [] [endToken] 0).pairTarget 0 0) < 1
      ∧ 1 ≤ ((prS [] [endToken] 1).chan 0 1).slotCount ((prS [] [endToken] 1).pairTarget 0 0)
      ∧ (∃ k, (prS [endToken] [] 8).nextRequest 0 0 = some (0, [], k) ∧ k.ended = true)
      ∧ (∃ k, (prS [rdTok] [] 8).nextRequest 0 0 = some (rdTok.data, [], k) ∧ k.bad = false ∧ k.ended = false)
      ∧ (rdTok.data.extractLsb' 60 4).toNat = 1 ∧ (rdTok.data.extractLsb' 44 16).toNat + 1 = 8 ∧ rdTok.data.getLsbD 43 = false
      ∧ (∃ r, (prS [rdTok] [] 8).translateAll 0 0 kRead true 0 8 3 = some r) ∧ (prS [rdTok] [] 8).translateAll 0 1 kRead true 0 8 3 = none
      ∧ (∃ k, (prS [wrTok, dataToken 5] [] 8).nextRequest 0 0 = some (wrTok.data, [5], k) ∧ k.bad = false ∧ k.ended = false)
      ∧ (wrTok.data.extractLsb' 60 4).toNat = 2 ∧ (∃ r, (prS [wrTok] [] 8).translateAll 0 0 kWrite true 0 8 3 = some r) :=
  ⟨arrived_one _ _ rfl, arrived_one _ _ rfl, arrived_one _ _ rfl, fun q hq _ _ => List.mem_singleton.mp hq, by decide +kernel, by decide +kernel,
    by decide +kernel, fun _ _ h => by cases h; rfl, by decide +kernel, by decide +kernel, by decide +kernel, by decide +kernel,
    by decide +kernel, by decide +kernel, ⟨_, rfl, rfl⟩, ⟨_, rfl, rfl, rfl⟩, by decide, by decide, by decide, ⟨_, rfl⟩, by decide +kernel,
    ⟨_, rfl, rfl, rfl⟩, by decide, ⟨_, rfl⟩⟩

/-- A transfer's progress after its only row, with and without a barrier; and a source in window 11. -/
def xDone (shape bar : W64) : Xfer := { xf true { aSet with shape := shape, bar := bar } with row := 1 }
def far : CopySet := { aSet with src := 0xC000000000000000 }

theorem wit_CopyEngine :
    (((qS [xf false aSet] .init).tile 0).copyq.filter fun z => z.running).length < 4
      ∧ (((qS [xf false aSet] .init).tile 0).copyq.find? fun z => !z.running) = some (xf false aSet)
      ∧ (∀ z ∈ [xf true aSet, xf true far, xf true { aSet with src := 0x4000000100000000 }, { xf true { aSet with dst := 0x4000000100000000 } with piece := some [1] }],
          ∃ l, ((qS [z] .init).tile 0).copyChoice (fun j => !((qS [z] .init).hart (4 * 0 + j)).stopped) = some l
            ∧ ((qS [z] .init).tile 0).copyOf l = some z) ∧ (xf true aSet).off < aSet.rowBytes ∧ (xf true aSet).wait = none
      ∧ (0x4000 : W64).toNat + 64 ≤ 2 ^ 21 ∧ (qS [xf true aSet] .init).Permits 0 ((qS [xf true aSet] .init).copyWindows 0 (xf true aSet)) 0 0x4000 64 true false
      ∧ (qS [xf true aSet] .init).Permits 0 ((qS [xf true aSet] .init).copyWindows 0 (xf true aSet)) 0 0x5000 64 false true
      ∧ (∀ j < 64, (xf true aSet).sources (byteKey 0 (0x5000 + BitVec.ofNat 64 j)) = false)
      ∧ (pS.ptrTrap [0, 1, 2] 0x4000000100000000 64 1 = none ∧ copyEp 0 0x4000000100000000 ≠ 0 ∧ pS.ptrTrap [0, 1, 2] 0x4000000100000000 1 1 = none)
      ∧ winOf far.src = 3 ∧ (∀ i < (far.rowBytes + 63) / 64, winOf (far.dstRow 0 + BitVec.ofNat 64 (64 * i)) ≠ 2)
      ∧ ((0x7FFF - (xf true far).id).toNat < 2 ^ 15 ∧ 0x7FFF ≠ (xf true far).id)
      ∧ (let z := { xf true { aSet with src := 0x4000000100000000 } with wait := some 5 }
         let s := arr (qS [z] .init) (pkt 0 (.readRep 0 5 (.data [1])))
         s.Arrived 1 (pkt 0 (.readRep 0 5 (.data [1]))) ∧ s.copyWaiting 0 5 = some z ∧ z.finished = false ∧ z.piece = none)
      ∧ (let z := { xf true { aSet with dst := 0x4000000100000000 } with wait := some 5, piece := some [1] }
         let s := arr (qS [z] .init) (pkt 0 (.pieceRep 0 5 (.data [])))
         s.Arrived 1 (pkt 0 (.pieceRep 0 5 (.data []))) ∧ s.copyWaiting 0 5 = some z ∧ z.finished = false)
      ∧ (let z := { xDone 0x10001 0x4000000100000000 with wait := some 5 }
         (∀ a, (arr (qS [z] .init) (pkt 0 (.pieceRep 0 5 a))).Arrived 1 (pkt 0 (.pieceRep 0 5 a)))
          ∧ (∀ a ∈ [Resp.data [], .trap 3 0 1], (arr (qS [z] .init) (pkt 0 (.pieceRep 0 5 a))).copyWaiting 0 5 = some z) ∧ z.finished = true)
      ∧ (∀ z ∈ [xDone 1 0, xDone 0x10001 0x6000, xDone 0x10001 0x4000000100000000],
          (((qS [z] .init).tile 0).copyq.find? fun y => y.running && y.finished && y.wait.isNone && !((qS [z] .init).hart y.hart).stopped) = some z)
      ∧ (xDone 1 0).set.shape.getLsbD 16 = false ∧ (xDone 0x10001 0x6000).set.shape.getLsbD 16 = true ∧ (0x6000 : W64).toNat % 32 = 0
      ∧ (qS [xDone 0x10001 0x6000] .init).Permits 0 ((qS [xDone 0x10001 0x6000] .init).copyWindows 0 (xDone 0x10001 0x6000)) 0 0x6000 32 true true
      ∧ pS.ptrTrap [0, 1, 2, 3] 0x4000000100000000 32 32 = none :=
  ⟨by decide +kernel, by decide +kernel, fun z hz => ⟨0, by
      simp only [List.mem_cons, List.not_mem_nil, or_false] at hz
      rcases hz with rfl | rfl | rfl | rfl <;> decide +kernel⟩, by decide +kernel, rfl, by decide,
    permits_t 0 _ _ _ _ _ (by decide +kernel) rfl (by decide), permits_t 0 _ _ _ _ _ (by decide +kernel) rfl (by decide),
    by decide +kernel, by decide +kernel, by decide, by decide +kernel, by decide,
    ⟨arrived_one _ _ rfl, by decide +kernel, by decide +kernel, rfl⟩, ⟨arrived_one _ _ rfl, by decide +kernel, by decide +kernel⟩,
    ⟨fun a => arrived_one _ _ rfl, by decide +kernel, by decide +kernel⟩, by decide +kernel, by decide +kernel, by decide +kernel, by decide,
    permits_t 0 _ _ _ _ _ (by decide +kernel) rfl (by decide), by decide +kernel⟩

def mOver : MOp := { mOp with done := 1 }
def mMma : MOp := { mOp with kind := .mma false false, a := 2, b := 2, tm := 64, tn := 64, tk := 16 }

theorem wit_MatrixArray :
    (∃ cr, (mS 0 [mOp]).sharePick 0 ((mS 0 [mOp]).tile 0).arrCR (fun h => (((mS 0 [mOp]).tile 0).headOp (h % 4)).isSome) = some (0, cr))
      ∧ ((mS 0 [mOp]).tile 0).queue 0 = [mOp]
      ∧ (∃ cr, (mS 0 [mMma]).sharePick 0 ((mS 0 [mMma]).tile 0).arrCR (fun h => (((mS 0 [mMma]).tile 0).headOp (h % 4)).isSome) = some (0, cr))
      ∧ mMma.tn ≤ 64 ∧ (63 : Nat) < mMma.tm ∧ ((wHart.rv 2).fmt = .i8 ∨ (wHart.rv 2).fmt = .i4) ∧ mMma.held.length = mMma.done
      ∧ ((mS 0 [mOver]).tile 0).queue 0 = [mOver] ∧ mOver.over = true :=
  ⟨⟨_, rfl⟩, by decide +kernel, ⟨_, rfl⟩, by decide, by decide, by decide +kernel, by decide, by decide +kernel, by decide⟩

theorem wit_SequencersAndTimers :
    (fS 0x3F0000000200092000100000 wHart).eligible 0 = true ∧ (fS 0x3F0000000200092000100000 wHart).lanesFree 0 = true
      ∧ (∃ l cr, (fS 0x3F0000000200092000100000 wHart).sharePick 0 ((fS 0x3F0000000200092000100000 wHart).tile 0).seqCR
          (fun h => [0].contains h) = some (l, cr))
      ∧ (at_ { wHart with resume := [{ pc := 0x2000, dest := 9, depth := 0, mid := true, row := 0, grp := 1
                                       read := { fctl := 0, p := [], g := [], tags := [] } }] }).lanesFree 0 = false
      ∧ { pS with main := 1023 }.cycle 0 % 1024 = 1023 ∧ pS.cycle 0 % 1024 ≠ 1023 ∧ { pS with main := 1023 }.main % 1024 = 1023 ∧ pS.main % 1024 ≠ 1023
      ∧ { pHart with pause := some 0 }.pause = some 0 ∧ (0 : Nat) ≤ pS.cycle 0 ∧ pHart.stopped = false
      ∧ (fS 0x2C0000000000098000000000 { pHart with timeTarget := some 0 }).fetchInstr 0 = .timewait (cm 0) 9 (.i 0)
      ∧ { pHart with timeTarget := some 0 }.runnable = true
      ∧ { fS 0x2C0000000000098000000000 { pHart with timeTarget := some 0 } with cur := 0 }.Admits (cm 0) { mods := 0x20, nd := true } :=
  ⟨by decide +kernel, by decide +kernel, ⟨0, _, rfl⟩, by decide +kernel, by decide +kernel, by decide +kernel, by decide, by decide, rfl, Nat.zero_le _, rfl,
    by decide +kernel, by decide +kernel, admits rfl rfl (by show (4 : BitVec 12) ≠ 0; decide) (guard_plain _ _) rfl rfl⟩

/-- Tile 33 holds at input `w` one flit, the tail of a packet for endpoint 5 or as given, with route r for endpoint 5. -/
def meshS (w : Nat) (q : Packet) (r : BitVec 3) : State :=
  pS.setTile 33 { Tile.init with
    jn := { Junction.init with bufs := [(w, [{ pkt := q, idx := 0, n := 1 }])] }, route0 := [(5, r)] }
/-- A packet for endpoint 5, for node 1 by link 0 at tile 994, and for tiles (1, 1) and (2, 1). -/
def toEp : Packet := pkt 5 (.ack 0 0 0)
def toNode : Packet := { toEp with dst := .node 1 }
def toMany : Packet := { toEp with dst := .rect 1 2 1 1, vc := 4, msg := .load 0x4000 [7] }
def nodeS : State := pS.setTile 994 { Tile.init with jn := { Junction.init with bufs := [(2, [{ pkt := toNode, idx := 0, n := 1 }])] } }

theorem wit_MeshGrants :
    (let s0 := (meshS 0 toEp 1).allocate 33
     (∃ f, s0.candidate 33 1 0 = some f ∧ f.pkt = toEp ∧ (meshS 0 toEp 1).lost 33 f.pkt = false) ∧ ∀ i < 36, i ≠ 0 → s0.candidate 33 1 i = none)
      ∧ neighbour 33 1 = some 34 ∧ neighbour 5 4 = none
      ∧ (let s := (pS.setTile 5 { Tile.init with jn := { Junction.init with bufs := [(0, [{ pkt := toEp, idx := 0, n := 1 }])] } })
         (∃ f, (s.allocate 5).candidate 5 4 0 = some f ∧ f.idx + 1 = f.n ∧ f.pkt.dst = .ep 5 ∧ s.lost 5 f.pkt = false)
          ∧ ∀ i < 36, i ≠ 0 → (s.allocate 5).candidate 5 4 i = none)
      ∧ ((∃ f, (nodeS.allocate 994).candidate 994 5 2 = some f ∧ f.idx + 1 = f.n ∧ f.pkt.dst = .node 1 ∧ nodeS.lost 994 f.pkt = false)
          ∧ ∀ i < 36, i ≠ 2 → (nodeS.allocate 994).candidate 994 5 i = none)
      ∧ (let s := meshS 28 toMany 1
         let s0 := s.allocate 33
         (∃ f, s0.candidate 33 4 28 = some f ∧ f.pkt.dst = .rect 1 2 1 1 ∧ f.idx + 1 = f.n ∧ s.lost 33 f.pkt = false)
          ∧ (∀ i < 36, i ≠ 28 → s0.candidate 33 4 i = none) ∧ mcastPorts 33 4 1 2 1 1 = [1, 4]) :=
  ⟨⟨⟨_, rfl, rfl, by decide +kernel⟩, by decide +kernel⟩, by decide, by decide, ⟨⟨_, rfl, rfl, rfl, by decide +kernel⟩, by decide +kernel⟩,
    ⟨⟨_, rfl, rfl, rfl, by decide +kernel⟩, by decide +kernel⟩, ⟨⟨_, rfl, rfl, rfl, by decide +kernel⟩, by decide +kernel, by decide⟩⟩

/-- Link 0 up, with the keys and queued packets as given. -/
def lS (k : Link) : State := { pS with links := [(0, k)] }
def key0 (ctr : Nat) : KeySlot := { epoch := 0, key := 7, ctr := ctr }
def up0 (ctr : Nat) : Link := { Link.init with up := true, torus := true, slot0 := some (key0 ctr), rkeys := [key0 0], outq := [toNode] }
def flit0 (hdr : W64) : LinkFlit := { hdr := hdr, payload := [], tag := 0 }
/-- A flit that the peer at port 0 of node 0 seals under key 7, with counter 0. -/
def sealed0 (ty : Nat) : LinkFlit := sealFlit 7 (linkId 1 1) 0 (mkHdr 0 0 false 0 ty false) []

/-- What was sealed under a key and IV opens under them. -/
theorem gcm_opens (key : BitVec 256) (iv : BitVec 96) (aad clear : List Byte) :
    (gcmOpen key iv aad (gcmSeal key iv aad clear).1 (gcmSeal key iv aad clear).2).isSome = true := by
  unfold gcmOpen gcmSeal
  simp only [if_true, Option.isSome_some]

/-- A flit sealed under a slot's key with a counter the receiver tries authenticates. -/
theorem seal_authenticates (x : KeySlot) (id c : Nat) (hdr : W64) (clear : List Byte) (h : c ∈ tryCtrs x.ctr) :
    (authFlit x id (sealFlit x.key id c hdr clear)).isSome = true := by
  unfold authFlit sealFlit
  refine List.findSome?_isSome_iff.2 ⟨c, h, ?_⟩
  rw [Option.isSome_map]
  exact gcm_opens _ _ _ _

theorem wit_OanenLinks_opens (ty : Nat) : (authFlit (key0 0) (linkId 1 1) (sealed0 ty)).isSome = true :=
  seal_authenticates (key0 0) _ 0 _ _ (by
    simp only [tryCtrs, key0, List.mem_map, List.mem_range]
    exact ⟨0, by omega, by omega⟩)

/-- Whether a peer's signature proves itself is Config's opaque check: the clauses on agreement say what follows in each case. -/
theorem wit_OanenLinks :
    (let k := { up0 0 with replay := [flit0 0] }
     k.up = true ∧ k.replay = [flit0 0] ∧ k.ackIn ≠ some 0)
      ∧ (up0 0).replay = [] ∧ (up0 0).nakDue = false ∧ (lS (up0 0)).markerDue 0 = false ∧ (up0 0).retry.length < 511
      ∧ (up0 0).nextClass 0 0 = some 0 ∧ (up0 0).keyOf (up0 0).txEpoch = some (key0 0) ∧ (key0 0).ctr < (lS (up0 0)).keyLimit.toNat
      ∧ (up0 (2 ^ 36)).keyOf 0 = some (key0 (2 ^ 36)) ∧ (lS (up0 0)).keyLimit.toNat ≤ (key0 (2 ^ 36)).ctr ∧ (lS (up0 (2 ^ 36))).markerDue 0 = false
      ∧ hdrOk (flit0 2).hdr = false ∧ (up0 0).fails < 2 ∧ { up0 0 with fails := 2 }.fails = 2
      ∧ (up0 0).rkey true = none
      ∧ (∀ ty ∈ [0, 2, 3], hdrOk (sealed0 ty).hdr = true ∧ hdrType (sealed0 ty).hdr = ty ∧ (up0 0).rkey (hdrKs (sealed0 ty).hdr) = some (key0 0)
          ∧ hdrSeq (sealed0 ty).hdr = (up0 0).rxSeq ∧ hdrSeq (sealed0 ty).hdr ≠ { up0 0 with rxSeq := 1 }.rxSeq)
      ∧ (lS (up0 0)).inId 0 = linkId 1 1 ∧ Link.init.up = false ∧ (up0 0).slot 1 = none
      ∧ (up0 0).torus = true ∧ peerOf (lS (up0 0)).node 0 ≠ none ∧ peerOf 0 1 = none
      ∧ (up0 0).stampAt + 65536 ≤ { lS (up0 0) with time := 65536 }.time.toNat
      ∧ (lS (up0 0)).rootPort = 8 ∧ { lS (up0 0) with node := 1 }.rootPort = 1 :=
  ⟨by decide, rfl, rfl, by decide +kernel, by decide, by decide +kernel, by decide +kernel, by decide +kernel, by decide +kernel,
    by decide +kernel, by decide +kernel, by decide, by decide, rfl, by decide, by decide +kernel, by decide +kernel, rfl, by decide +kernel, rfl,
    by decide +kernel, by decide, by decide, by decide +kernel, by decide +kernel⟩

/-- Partition 0 with supervisor 0 and hart 1, which stands in the state `own` at its port k0 of channel 0, without slots or tokens. -/
def gPart (sb : SbState) (sw : Option Sweep) (segs : Nat) : Partition :=
  { Partition.init with
    bound := true, harts := [0, 1], tiles := [0], sup := 0, sb := sb, sweep := sw, spillSegs := segs
    chans := [(0, { fmt := .f32, mode := .normal, depth := 8, f := 1, plats := [(0, { Platform.init with cap := 8 })], slots := []
                    strip := 0, turn := 0, ended := [], writers := [], readers := [] })] }
def gS (own : HState) (p : Partition) : State :=
  { (pS.setHart 1 { Hart.init with
      own := own, part := some 0, k := [(0, some { part := 0, chan := 0, out := decide (own = .blockedWrite), mode := .normal, fmt := .f32, idx := 0 })] })
    with parts := [(0, p)] }
def gW (own : HState) (p : Partition) : Sweep := ((gS own p).setPart 0 { p with sweepAt := 170 }).sweepOf 0
/-- The sweeps that stand as the first one of a confirmation, with hart 1 blocked reading and writing. -/
def wB : Sweep := gW .blockedRead (gPart .confirm none 8)
def wW : Sweep := gW .blockedWrite (gPart .confirm none 8)

theorem wit_Supervision :
    (∀ c ∈ (gW .blockedRead (gPart .watch none 8)).classes, c.2.1 ≠ .running) ∧ (gW .blockedRead (gPart .watch none 8)).inj = (gW .blockedRead (gPart .watch none 8)).ej
      ∧ ¬(∀ c ∈ (gW .running (gPart .watch none 8)).classes, c.2.1 ≠ .running)
      ∧ (gW .blockedRead (gPart .confirm (some wB) 8) = wB ∧ (∃ c ∈ wB.classes, c.2.1 = .blockedRead) ∧ (∀ c ∈ wB.classes, c.2.1 ≠ .blockedWrite))
      ∧ (gW .blockedWrite (gPart .confirm (some wW) 8) = wW ∧ (∃ z ∈ wW.classes, z.2.1 = .blockedWrite) ∧ wW.plats = [(0, 0)])
      ∧ max 1 ((((gS .blockedWrite (gPart .confirm none 8)).chan 0 0).plat 0).cap * 8 + 4095) / 4096 ≤ (gPart .confirm none 8).spillSegs
      ∧ (gPart .confirm none 0).spillSegs - (gPart .confirm none 0).segsUsed < 1
      ∧ pHart.atBoundary = true ∧ pHart.state ≠ 4 ∧ pHart.reportable = [] ∧ pHart.pend = none ∧ pS.CanTrap 0
      ∧ (gPart .watch none 8).wdFired = false ∧ (gPart .watch none 8).wdPeriod.toNat * 1000 ≤ { gPart .watch none 8 with wdCount := 4000000000 }.wdCount
      ∧ (∀ h ∈ (gPart .watch none 8).harts, (pS.hart h).held = true ∨ (pS.hart h).state ≠ 4) :=
  ⟨by decide +kernel, by decide +kernel, by decide +kernel, by decide +kernel, by decide +kernel, by decide +kernel,
    by decide, by decide, by decide, by decide, rfl, ⟨by decide, by decide, by decide⟩, rfl, by decide, by decide +kernel⟩

theorem wit_GangSwitches :
    (gS .running { gPart .watch none 8 with ttnext := 0 }).switchDue 0 = true ∧ (gS .running (gPart .watch none 8)).switchDue 0 = false
      ∧ (1 ∈ (gPart .watch none 8).harts ∧ 1 ≠ (gPart .watch none 8).sup)
      ∧ (((gS .running (gPart .watch none 8)).hart 1).stopped = false ∧ ((gS .running (gPart .watch none 8)).hart 1).pend = none)
      ∧ (∃ w, (pendHart (.load 9 8 false false)).pend = some w ∧ ∀ d, w.kind ≠ .bwait d)
      ∧ (let s := (gS .running { gPart .switch none 8 with stopping := true, swBar := 0xFFFFFFFFFFFFFFFF }).modHart 1 fun a => { a with stopped := true }
         (s.part 0).stopping = true ∧ (∀ h ∈ [1], (s.hart h).stopped = true ∧ (s.hart h).noFlight = true) ∧ s.arraysIdle 0 = true
          ∧ s.allPerformed 0 = true ∧ s.ptrTrap [0, 1, 2, 3] (s.part 0).swBar 32 32 ≠ none)
      ∧ ¬((gS .running (gPart .switch none 8)).part 0).stopping = true
      ∧ (pS.ptrTrap [0, 1, 2, 3] 0x4000000000006000 32 32 = none ∧ winOf 0x4000000000006000 = 1 ∧ tileIdOf 0x4000000000006000 = 0
          ∧ pS.Permits 0 (pS.tileWindows 0) 0 (offOf 0x4000000000006000) 32 true true)
      ∧ (let p := { gPart .switch none 8 with stopped := true, goPend := true }
         p.stopped = true ∧ p.goPend = true ∧ p.savePend = false ∧ p.loadPend = false ∧ p.ckWriting = false)
      ∧ (gS .running { gPart .switch none 8 with going := true }).meshClear 0 = true
      ∧ (let s := gS .running { gPart .switch none 8 with stopped := true, savePend := true, ckWriting := true }
         (s.part 0).stopped = true ∧ (s.part 0).savePend = true ∧ s.arraysIdle 0 = true ∧ (s.part 0).ckWriting = true ∧ (0, 0) ∈ (s.part 0).slots)
      ∧ (let p := { gPart .switch none 8 with stopped := true, loadPend := true }
         p.loadPend = true ∧ p.savePend = false ∧ p.ckWriting = false)
      ∧ (let p := { gPart .switch none 8 with stopped := true, ckWriting := true }
         p.stopped = true ∧ p.ckWriting = true ∧ p.savePend = false)
      ∧ (let p := { gPart .watch none 8 with ckEn := true }
         p.ckEn = true ∧ p.ckLast + p.ckPeriod.toNat * 1000000 ≤ pS.time.toNat)
      ∧ ({ gPart .watch none 8 with thresh := 1, count := 1 }.thresh ≠ 0 ∧ (1 : BitVec 32).toNat ≤ (1 : BitVec 32).toNat)
      ∧ { gPart .watch none 8 with ckGoPend := true }.ckGoPend = true
      ∧ (gS .running { gPart .watch none 8 with ckGoPend := true }).newest 0 = none :=
  ⟨by decide +kernel, by decide +kernel, by decide, by decide +kernel, ⟨_, rfl, fun d h => by cases h⟩, by decide +kernel, by decide +kernel,
    ⟨by decide +kernel, by decide, by decide, permits_t 0 _ _ _ _ _ (by decide +kernel) rfl (by decide)⟩, by decide, by decide +kernel, by decide +kernel, by decide, by decide,
    by decide, by decide, rfl, by decide +kernel⟩

/-- A root of ASID 0 at 0 whose chain of tables ends in a leaf of 64 KiB with the permissions given, for virtual 0. -/
def walkS (perm : Nat) : State :=
  { pS with mem := writeBytes (writeBytes [] 0 (bytesOf 8 (2 ^ 63 + 0x2000))) 0x2000 (bytesOf 8 (2 ^ 63 + 2 ^ 62 + perm * 2 ^ 60)) }

theorem wit_TranslationEvents :
    pS.xlBusy = false ∧ (0x6000000000000000 : W64).extractLsb' 61 2 = 3 ∧ (0 : W64).extractLsb' 61 2 ≠ 3 ∧ { pS with xlBusy := true }.xlBusy = true
      ∧ { Station.init with shoot := true }.shoot = true ∧ ({ Station.init with ackDue := true }.shoot = false ∧ { Station.init with ackDue := true }.ackDue = true)
      ∧ ({ Station.init with walks := [{ gen := 0, leaf := some leaf0, speculative := true }] }.walks[0]? = some { gen := 0, leaf := some leaf0, speculative := true })
      ∧ ((walkS 2).walk 0 0).map (·.rd) = some true ∧ ((walkS 0).walk 0 0).map (·.rd) = some false ∧ pS.walk 0 0 = none
      ∧ ({ pHart with fatal := some 5 }.fatal = some 5 ∧ pHart.held = false ∧ pHart.stopped = false ∧ pHart.inMiddle = false ∧ pHart.pend = none) :=
  ⟨rfl, by decide, by decide, rfl, rfl, ⟨rfl, rfl⟩, rfl, by decide +kernel, by decide +kernel, by decide +kernel, ⟨rfl, rfl, rfl, rfl, rfl⟩⟩

theorem wit_BridgeWrites :
    (true ≠ pS.inj ∧ pS.flight1 = 0) ∧ ¬(false ≠ pS.inj) ∧ ((1 : BitVec 2) ≠ (pS.tile 0).div ∧ ∃ h ∈ hartsOf 0, (pS.hart h).own ≠ .parked ∧ (pS.hart h).stopped = false)
      ∧ ¬(∃ h ∈ hartsOf 1, (pS.hart h).own ≠ .parked ∧ (pS.hart h).stopped = false) ∧ calleeHart.gframe.used ≠ 0 ∧ (pS.hart 0).gframe.used = 0
      ∧ { pS with xlLock := true }.xlLock = true ∧ pS.xlLock = false ∧ (pS.hdmaRegA 7).getLsbD 63 = false
      ∧ ({ pS with hdmaA := [(7, 0x8000000000000000)] }.hdmaRegA 7).getLsbD 63 = true ∧ (15 : Nat) < 16 :=
  ⟨by decide, by decide, by decide +kernel, by decide +kernel, by decide, by decide, rfl, rfl, by decide +kernel, by decide +kernel, by decide⟩

/-- The module after bring-up, with window 2 bound to channel 0 of partition 0 in the direction given and n slots there. -/
def hostS (dir : Bool) (n : Nat) : State :=
  { (cS .normal n []) with bootstat := 7, host := [(2, { HostWin.init with bind := some (0, 0), dir := dir })] }

/-- The clause of a boot whose banks all fail verification is about Config's opaque signature, and that of a launch that is accepted about
a whole image: each says what follows in its case. -/
theorem wit_HostAndModule :
    pS.winBound 2 = false ∧ (hostS false 0).bootstat = 7 ∧ (hostS false 0).launchq.length < 256
      ∧ ((hostS false 0).winBound 2 = true ∧ (hostS false 0).winDir 2 = false ∧ (hostS false 0).winSlots 2 = 0 ∧ ((hostS false 0).chan 0 0).mode ≠ .deal)
      ∧ ((hostS false 1).winSlots 2 ≠ 0 ∧ ((hostS false 1).window 2).bind = some (0, 0) ∧ ((hostS false 1).window 2).dir = false ∧ (hostS false 1).frozen (some 0) = false)
      ∧ ({ hostS true 0 with replyq := [dataToken 5] }.replyq = [dataToken 5] ∧ (dataToken 5).isEnd = false ∧ (dataToken 5).bad = false ∧ endToken.isEnd = true)
      ∧ ((hostS true 0).winBound 2 = true ∧ (hostS true 0).winDir 2 = true ∧ (hostS true 0).winHead 2 = none)
      ∧ (pS.hdmaFor 0 = none ∧ 7 % 8 + 1 ≤ 8)
      ∧ (let s := tS { pS with hdmaA := [(7, 0x6000000000000000)], hdmaB := [(7, 0x100000000)] }
         s.hdmaFor 0xFFF8 = some 7 ∧ (s.hdmaRegA 7).getLsbD 61 = true ∧ ((s.station 0).tlb.find? fun l => l.covers 0 0) = some leaf0 ∧ 0x1FFF8 < bridgeBase)
      ∧ (let s := { hostS true 0 with parts := [] }
         s.bootstat = 7 ∧ s.replyq.length < 256 ∧ (∀ p < 16, s.endReason p = none) ∧ (∀ p < 16, (s.endSwitch p).isNone = true)
          ∧ s.pageRequest.isNone = true ∧ s.launchIn = [])
      ∧ (let q := dataToken 0x0100000200000000
         q.isEnd = false ∧ (q.data.extractLsb' 32 16).toNat = 2 ∧ [dataToken 0, dataToken 0].length < 1 + 2 ∧ 1 + 2 ≤ [dataToken 0, dataToken 0, dataToken 0].length
          ∧ (q.data.extractLsb' 56 8).toNat = 1 ∧ (q.data.extractLsb' 48 8).toNat = 0)
      ∧ ((dataToken 0).data.extractLsb' 56 8).toNat ≠ 1
      ∧ (let s := { hostS true 0 with parts := [] }
         (match planLaunch s (s.imageAt 1) 2 0 with | .error e => e | .ok _ => 0) = 2)
      ∧ (let s := { hostS true 0 with parts := [(0, gPart .watch none 0)] }
         (s.part 0).bound = true ∧ (s.part 0).stopped = false ∧ ∀ h ∈ (s.part 0).harts, h ≠ (s.part 0).sup →
          (s.hart h).own = .parked ∧ (s.hart h).held = false ∧ (s.hart h).td = 0)
      ∧ (let s := { hostS true 0 with parts := [(0, { gPart .switch none 0 with stopped := true, ending := some 1 })] }
         (s.part 0).stopped = true ∧ (s.part 0).ending = some 1)
      ∧ (let s := { (hostS true 0).setHart 1 { Hart.init with held := true } with parts := [(0, { gPart .switch none 0 with stopped := true })] }
         (s.part 0).stopped = true ∧ (s.part 0).ending = none ∧ (s.hart 1).held = true)
      ∧ (let s := { (hostS true 0).setHart 1 tHart with parts := [(0, { gPart .watch none 0 with ending := some 1 })] }
         (∀ p < 16, s.endReason p = none) ∧ (s.part 0).ending ≠ none ∧ s.time.toNat < (s.part 0).ttnext.toNat)
      ∧ pS.govMs < { pS with time := 1000000 }.time.toNat / 1000000 ∧ (pS.plimit.toNat < (3201 : BitVec 16).toNat) ∧ 95 ≤ (95 : BitVec 8).toNat
      ∧ ¬(pS.plimit.toNat < (3200 : BitVec 16).toNat ∨ 95 ≤ (94 : BitVec 8).toNat) ∧ 110 ≤ (110 : BitVec 8).toNat ∧ (109 : BitVec 8).toNat < 110 :=
  ⟨by decide +kernel, rfl, by decide, by decide +kernel, by decide +kernel, by decide +kernel, by decide +kernel, by decide +kernel,
    by decide +kernel, by decide +kernel, by decide, by decide, by decide +kernel, by decide +kernel, by decide +kernel, by decide +kernel, by decide +kernel, by decide, by decide, by decide, by decide, by decide, by decide⟩

theorem wit_IssueSteps :
    pHart.gdepth = 0 ∧ pHart.guard0 { cm 0 with ginv := true } = false ∧ { pHart with vl := 0 }.vl = 0
      ∧ ((∀ v ∈ ([1, 2] : List VReg), v.toNat % { pHart with vl := 0 }.rc = 0) ∧ ({ vs := [1, 2] } : Head).dom = none ∧ pHart.kahn = false)
      ∧ (at_ { pHart with rcc := 3 }).CanTrap 0 ∧ (4 : VReg).toNat % { pHart with rcc := 3 }.rc ≠ 0 ∧ (at_ calleeHart).CanTrap 0 ∧ calleeHart.gdepth ≠ 0
      ∧ (at_ { pHart with kahn := true }).CanTrap 0 ∧ { pHart with kahn := true }.kahn = true :=
  ⟨rfl, by decide +kernel, rfl, ⟨by decide +kernel, rfl, rfl⟩, ⟨by decide, by decide, by decide⟩, by decide +kernel, ⟨by decide, by decide, by decide⟩,
    by decide, ⟨by decide, by decide, by decide⟩, rfl⟩

theorem wit_DecodeEncode : (Instr.gate (cm 0) 255).wf = true ∧ encode (.gate (cm 0) 255) = some 0x280000000800FF0000000000 := by decide

theorem wit_EncodeDecode : reads [(0x280000000800FF0000000000, .gate (cm 0) 255)] = true := by decide

/-- `vneg v9, v1` stands at the PC of hart 0, whose turn it is. -/
theorem wit_StepRunsDecoded :
    (∀ own : Bool, let s := { fS 0x3F0000000200092000100000 wHart with sched := [if own then .hart 0 else .lanes 0] }
     let a := s.hart 0
     let s1 := { s with sched := [], cur := 0 }
     s.sched = [if own then .hart 0 else .lanes 0] ∧ s.switchFor 0 = none ∧ a.held = false ∧ a.stopped = false ∧ a.own ≠ .parked ∧ a.fatal = none
      ∧ a.unwind = none ∧ a.pend = none ∧ a.pause = none ∧ a.inMiddle = false ∧ a.reportable = [] ∧ s.reportOf 0 = none
      ∧ a.pc.toNat % 4 = 0 ∧ a.pc.toNat + 12 ≤ a.xbndF.toNat
      ∧ (∀ x ∈ s.stlog.take (s.stlog.length - a.syncAt), x.1 + x.2.length ≤ 0)
      ∧ rejects (bytesWord (s.peek (storeBase 0 + 0x2000) 12)) = none ∧ a.own = .running ∧ s1.eligible 0 = true ∧ s1.lanesFree 0 = true)
      ∧ (laneExec (.nop (cm 0))).isNone = true
      ∧ isEvent (.signalBoxSweep 0) = true := ⟨by decide +kernel, rfl, by decide⟩

theorem wit_MemoryStaysCanonical :
    (let s := { fS 0x3F0000000200092000100000 wHart with sched := [.hart 0] }
     Memory.wf s.mem = true ∧ (match step s with | .next _ => true | _ => false) = true) := by decide +kernel

/-! ### Witnesses of the clauses on races, stations, pairs and the sums of the array -/

/-- Hart 0 under a window with race checking, the tag of line 256 (byte 0x4000) as given. -/
def rS (g : RaceTag) : State :=
  (at_ { pHart with stguard := [(0, 0xF00007FFF0000000)] }).modTile 0 fun t => { t with tags := [(256, g)] }

theorem wit_AddressChecks_races :
    (rS .init).CanTrap 0 ∧ (∀ m, (rS .init).Admits (cm m) { mods := 0x38 }) ∧ (∀ m, (rS .init).Admits (cm m) { mods := 0x30 })
      ∧ (∃ w, guardFor ((rS .init).hart 0).windows ((rS .init).hart 0).asid 0x4000 = some w ∧ w.getLsbD 62 = true ∧ w.getLsbD 61 = true
        ∧ w.getLsbD 60 = true)
      ∧ (rS .init).execOnly 0 ≤ 0x4000 ∧ ((rS .init).hart 0).tileOrder 0x4000 = false ∧ (rS .init).loadWaits 0 0x4000 8 = false
      ∧ ((rS .init).hart 0).loadsOverlap 0 (byteKey 0 0x4000) 8 = false
      ∧ (let g := { RaceTag.init with wv := true, wa := 1, we := 1 }
         g.wv = true ∧ g.wa ≠ 0 ∧ mget 0 ((rS g).tile 0).clk (8 * 0 + g.wa) < g.we)
      ∧ RaceTag.init.wv = false
      ∧ (let g := { RaceTag.init with rm := 2 }
         g.rm.getLsbD 1 = true ∧ mget 0 ((rS g).tile 0).clk 9 = mget 0 g.re 1 ∧ ∀ j < 1, g.rm.getLsbD j = false)
      ∧ ∀ k < 8, RaceTag.init.rm.getLsbD k = false :=
  ⟨⟨by decide, by decide, by decide⟩, fun _ => admits rfl rfl (by show (4 : BitVec 12) ≠ 0; decide) (guard_plain _ _) rfl rfl,
    fun _ => admits rfl rfl (by show (4 : BitVec 12) ≠ 0; decide) (guard_plain _ _) rfl rfl,
    ⟨0xF00007FFF0000000, by decide +kernel⟩, by decide +kernel, by decide +kernel, by decide +kernel, by decide +kernel, by decide +kernel,
    rfl, by decide +kernel, by decide⟩

/-- A packet that station 0, which caches a leaf, has received: for byte 8 of the leaf's page. -/
def sS (l : Leaf) (m : Msg) : State := arr (pS.setStation 0 { Station.init with tlb := [l] }) (pkt 1024 m)
/-- A read and an addition there by the agent h under ASID a, and a posted write. -/
def sRead (h : Nat) (a : BitVec 16) : Msg := .read h 0 0x8000000000000008 8 a false
def sAdd (h : Nat) (a : BitVec 16) : Msg := .atomic h 0 (.amo .add 8 false 1) 0x8000000000000008 a false false
def sWrite (h : Nat) : Msg := .write h 0 (entryAt 0x8000000000000008)

theorem wit_RequestsPerformed_stations :
    (∀ m, (sS leaf0 m).Arrived 1 (pkt 1024 m) ∧ (sS leaf0 m).frozenBy (pkt 1024 m) = none ∧ (sS leaf0 m).mayServeAt 0 none = true)
      ∧ (∀ l ∈ [leaf0, { leaf0 with rd := false }, { leaf0 with wr := false }, { leaf0 with pin := false }],
        (((sS l (sRead 4 0)).station 0).tlb.find? fun l => decide (l.asid = 0) && decide (l.va ≤ vaOf 0x8000000000000008)
          && decide (vaOf 0x8000000000000008 < l.va + l.size)) = some l)
      ∧ (servedBy (leaf0.pa + 8) = 0 ∧ 8 + 8 ≤ 65536 ∧ (leaf0.pa + 8) % 4096 + 8 ≤ 4096 ∧ leaf0.pa + 16 ≤ bridgeBase
        ∧ leaf0.at_ + 8 ≤ leaf0.pa + 8 ∧ pS.poison = [])
      ∧ (((sS leaf0 (sRead 4 1)).station 0).tlb.find? fun l => decide (l.asid = 1) && decide (l.va ≤ 8) && decide (8 < l.va + l.size)) = none
      ∧ (sS leaf0 (sRead 4 1)).walk 1 8 = none ∧ servedBy (leaf2.pa + 8) ≠ 0
      ∧ (AtomicOp.amo .add 8 false 1).span = 8 ∧ ((AtomicOp.amo .add 8 false 1).kind false).wr = true
      ∧ (AtomicOp.amo .add 8 false 1).waits ((AtomicOp.amo .add 8 false 1).run ((sS leaf0 (sAdd 4 0)).peek 0x10008 8)).1 = false
      ∧ (let e := entryAt 0x8000000000000008
         e.gen = 0 ∧ e.kind = 0 ∧ e.bad = false ∧ e.mark = false ∧ e.mask.length = e.data.length ∧ (∃ m ∈ e.mask, m ≠ 0)
          ∧ (∃ l, (((sS leaf0 (sWrite 4)).station 0).tlb.find? fun l => decide (l.asid = e.asid) && decide (l.va ≤ vaOf e.addr)
            && decide (vaOf e.addr < l.va + l.size)) = some l ∧ l.wr = true ∧ l.pin = true) ∧ { e with bad := true }.bad = true) :=
  ⟨fun _ => ⟨arrived_one _ _ rfl, rfl, rfl⟩, by decide +kernel, by decide +kernel, by decide +kernel, by decide +kernel, by decide, by decide,
    by decide, by decide +kernel, ⟨rfl, rfl, rfl, rfl, rfl, by decide, ⟨leaf0, by decide +kernel, rfl, rfl⟩, rfl⟩⟩

/-- Station pair 0 of partition 0, its home station 1, with requests as given. -/
def prB (toks : List Token) (busy : Bool) : State :=
  (prS toks [] 8).modPart 0 fun q => { q with pairs := [(0, { req := 0, rep := 1, home := 1, asid := 0, out := [], busy := busy })] }

theorem wit_ChannelPackets_pairs :
    ((prS [] [] 8).chan 0 ((prS [] [] 8).pairOf 0 0).req).mode ≠ .merge
      ∧ ([endToken].takeWhile fun t => !t.isEnd) = [] ∧ ([rdTok].takeWhile fun t => !t.isEnd) = [rdTok] ∧ rdTok.bad = false
      ∧ (wrTok.data.extractLsb' 60 4 = 2 ∧ ((wrTok.data.extractLsb' 44 16).toNat + 8) / 8 = 1)
      ∧ ([wrTok, endToken].takeWhile fun t => !t.isEnd).length < [wrTok, endToken].length ∧ { rdTok with bad := true }.bad = true
      ∧ ((prB [] true).pairOf 0 0).busy = true ∧ ((prB [] true).pairOf 0 0).out = []
      ∧ (arr (prB [] true) (pkt 1025 (.pairDone 0 0 [endToken]))).Arrived 1 (pkt 1025 (.pairDone 0 0 [endToken]))
      ∧ (prS [rdTok] [] 8).mayServeAt 0 (some 0) = true
      ∧ (∃ runs v, (prS [rdTok] [] 8).translateAll 0 0 kRead true 0 8 3 = some (runs, v) ∧ runs = [(0x10000, 8)] ∧ ∀ o < 8, servedBy (0x10000 + o) = 0)
      ∧ servedBy 0x10000 ≠ ((prB [] false).pairOf 0 0).home
      ∧ (let m := Msg.pairPart 0 0 false 8 [(0x10000, 8)] [] []
         let q := { pkt 1024 m with part := some 0 }
         let s := arr (prB [] true) q
         s.Arrived 1 q ∧ q.dst = .ep (1024 + 0) ∧ s.frozenBy q = none ∧ s.mayServeAt 0 (some 0) = true
          ∧ ([(0x10000, 8)].map fun r : Nat × Nat => r.2).foldl (· + ·) 0 ≤ 8 ∧ (∀ r ∈ [((0x10000 : Nat), 8)], 0 < r.2 ∧ ∀ o < r.2, servedBy (r.1 + o) = 0)
          ∧ s.poisonRuns kRead 0 [(0x10000, 8)] = none) :=
  ⟨by decide +kernel, by decide, by decide, rfl, by decide, by decide, rfl, by decide +kernel, by decide +kernel, arrived_one _ _ rfl, by decide +kernel,
    ⟨_, _, rfl, by decide +kernel, by decide⟩, by decide +kernel,
    ⟨arrived_one _ _ rfl, rfl, by decide +kernel, by decide +kernel, by decide, by decide, by decide +kernel⟩⟩

/-- A hart with floating-point, MX and q rows, from v1 on, and its scale entries. -/
def eHart : Hart := { wHart with v := [(1, { VecReg.init with tag := plainTag .f32 }), (2, { VecReg.init with tag := plainTag .f16 }),
  (3, { VecReg.init with tag := plainTag .mx8a }), (6, { VecReg.init with tag := plainTag .q8 }), (7, { VecReg.init with tag := plainTag .i8 })] }

theorem wit_MatrixArray_sums :
    (eHart.rv 1).fmt = .f32 ∧ (isBlock (eHart.rv 2).fmt = false ∧ (eHart.rv 2).fmt ≠ .f32 ∧ (eHart.rv 2).fmt ≠ .i8 ∧ (eHart.rv 2).fmt ≠ .i4)
      ∧ (isBlock (eHart.rv 3).fmt = true ∧ isMx (eHart.rv 3).fmt = true) ∧ (isBlock (eHart.rv 6).fmt = true ∧ isMx (eHart.rv 6).fmt = false)
      ∧ ((eHart.rv 7).fmt = .i8) ∧ mMma.held.length = mMma.done ∧ (0 : Nat) < mMma.tm ∧ (0 : Nat) < mMma.tn ∧ mMma.tm ≤ 64 :=
  ⟨by decide +kernel, by decide +kernel, by decide +kernel, by decide +kernel, by decide +kernel, rfl, by decide, by decide, by decide⟩

theorem wit_MeshGrants_lost :
    (let q := { toEp with hops := 64 }
     let s := meshS 0 q 1
     s.lost 33 q = true ∧ (∃ f, (s.allocate 33).candidate 33 1 0 = some f ∧ f.pkt = q ∧ f.idx + 1 = f.n) ∧ ∀ i < 36, i ≠ 0 → (s.allocate 33).candidate 33 1 i = none)
      ∧ (let q := { toEp with hops := 64, vc := 5 }
         let s := meshS 5 q 1
         s.lost 33 q = true ∧ ∃ f, (s.allocate 33).candidate 33 1 5 = some f ∧ f.pkt = q ∧ f.idx + 1 = f.n)
      ∧ (let q := { toEp with vc := 5 }
         let s := pS.setTile 5 { Tile.init with jn := { Junction.init with bufs := [(5, [{ pkt := q, idx := 0, n := 1 }])] } }
         s.lost 5 q = false ∧ ∃ f, (s.allocate 5).candidate 5 4 5 = some f ∧ f.pkt = q ∧ f.idx + 1 = f.n)
      ∧ ([((0 : Nat), ({ pkt := toEp, idx := 0, n := 1 } : Flit)), (7, { pkt := toEp, idx := 0, n := 1 })].Pairwise fun a b => a.1 < b.1)
      ∧ ({ Tile.init with jn := { Junction.init with top := [(36, true)] } }.jn.top = [(36, true)]) :=
  ⟨⟨by decide +kernel, ⟨_, rfl, rfl, rfl⟩, by decide +kernel⟩, ⟨by decide +kernel, _, rfl, rfl, rfl⟩, ⟨by decide +kernel, _, rfl, rfl, rfl⟩, by decide, rfl⟩

/-- The sweep that stands as the first one of a confirmation, with hart 1 parked. -/
def wP : Sweep := gW .parked (gPart .confirm none 8)

theorem wit_Supervision_parked :
    gW .parked (gPart .confirm (some wP) 8) = wP ∧ wP.inj = wP.ej ∧ wP.classes ≠ []
      ∧ (∀ c ∈ wP.classes, c.2.1 ≠ .running ∧ c.2.1 ≠ .blockedRead ∧ c.2.1 ≠ .blockedWrite) ∧ (gPart .confirm (some wP) 8).loading = false
      ∧ (∀ z ∈ wW.plats, z = (0, 0)) :=
  ⟨by decide +kernel, by decide +kernel, by decide +kernel, by decide +kernel, rfl, by decide +kernel⟩

theorem wit_GangSwitches_unwind :
    { calleeHart with unwind := some { cause := 3, dropped := false } }.unwind ≠ none
      ∧ (pS.ptrTrap [0, 1, 2, 3] 0x8000000000000000 32 32 = none ∧ winOf 0x8000000000000000 = 2)
      ∧ ((tS pS).station 0).tlb.find? (fun l => decide (l.asid = 0) && decide (l.va ≤ 0) && decide (0 < l.va + l.size)) = some leaf0
      ∧ leaf0.rd = true ∧ leaf0.wr = true ∧ leaf0.pa + 32 ≤ bridgeBase ∧ leaf0.at_ + 8 ≤ leaf0.pa :=
  ⟨by decide, by decide +kernel, by decide +kernel, rfl, rfl, by decide, by decide⟩

theorem wit_TranslationEvents_near :
    (let x : Station := { Station.init with recent := [(0, 0)] }
     (∃ r ∈ x.recent, r.1 = (0 : BitVec 16) ∧ r.2 ≤ 0 + 2 ^ 21 ∧ 0 ≤ r.2 + 2 ^ 21) ∧ ¬(∃ r ∈ x.recent, r.1 = (0 : BitVec 16) ∧ 2 ^ 21 + 1 ≤ r.2 + 2 ^ 21))
      ∧ { pHart with fatal := some 5 }.unwind = none ∧ { pHart with unwind := some { cause := 3, dropped := false } }.unwind ≠ none :=
  ⟨by decide, rfl, by decide⟩

theorem wit_BridgeWrites_parts :
    (0x24 : Nat) % 8 ≠ 0 ∧ { pS with bootstat := 0xE }.bootstat = 0xE ∧ pS.bootstat ≠ 0xE ∧ (gPart .watch none 0).stopped = false
      ∧ (let p := { gPart .switch none 0 with stopped := true }
         p.stopped = true ∧ p.savePend = false ∧ p.loadPend = false ∧ p.ckWriting = false)
      ∧ some 5 ≠ some (gPart .watch none 0).sup ∧ (none : Option Nat) ≠ some (gPart .watch none 0).sup :=
  ⟨by decide, rfl, by decide, rfl, ⟨rfl, rfl, rfl, rfl⟩, by decide, by decide⟩

theorem wit_HostAndModule_stages :
    (let s := { hostS true 0 with parts := [(0, { gPart .watch none 0 with loading := true })] }
     (s.part 0).loading = true ∧ s.meshClear 0 = true ∧ (∀ p < 16, s.endReason p = none) ∧ s.bootstat = 7 ∧ s.replyq.length < 256)
      ∧ (pS.bootstat.toNat + 1 < 2 ∧ 7 < { pS with bootstat := 0xF }.bootstat.toNat + 1)
      ∧ ({ pS with bootstat := 1 }.bootstat.toNat + 1 = 2 ∧ { pS with bootstat := 5 }.bootstat.toNat + 1 = 6)
      ∧ pS.time.toNat / 1000000 ≤ pS.govMs ∧ { pS with rails := false }.rails = false ∧ pS.rails = true ∧ (hostS true 0).winBound 2 = true
      ∧ (∀ st, st = 0 ∨ st = servedBy (leaf0.pa + 0xFF8) → (((tS pS).station st).tlb.find? fun l => l.covers 0 0xFF8) = some leaf0) :=
  ⟨by decide +kernel, by decide, by decide, by decide, rfl, by decide, by decide +kernel, fun st h => by
    have : st = 0 := by
      rcases h with h | h
      · exact h
      · rw [h]; decide
    subst this; decide +kernel⟩

theorem wit_StepRunsDecoded_turns :
    (let a := { wHart with bad := [xUnit 9] }
     xUnit 9 ∈ a.bad ∧ xUnit 9 ∈ a.readUnits (.add (cm 0) 1 9 (.i 0)) ∧ (at_ a).CanTrap 0 ∧ wHart.bad = [])
      ∧ (let a := { calleeHart with unwind := some { cause := 3, dropped := false } }
         a.unwind ≠ none ∧ a.held = false ∧ a.stopped = false)
      ∧ { pS with sched := [.stage] }.sched = [.stage] ∧ { pS with sched := [.access true 0 8 none] }.sched = [.access true 0 8 none]
      ∧ (0 : Nat) < 4096 :=
  ⟨⟨by decide, by decide +kernel, ⟨by decide, by decide, by decide⟩, rfl⟩, ⟨by decide, rfl, rfl⟩, rfl, rfl, by decide⟩

end Sys2Proof.Tests
end

section
/-! SUPPORT. Instructions whose whole effect is to write x[D], as the statements over them put it (04 R107). -/

namespace Sys2Proof.Machine

variable {i : Instr} {s : State} {c : Ctl} {mods : BitVec 6} {d : XReg} {f : Hart → W64}

theorem writesX_of_onX (e : exec i s = .next (s.onX c mods d f)) (ad : s.Admits c { mods := mods }) :
    WritesX i s c mods d (f (s.hart s.cur)) := ⟨_, e, retires_onX ad d f⟩

theorem writesInt_of_onX {u : Bool} {r : Int} (e : exec i s = .next (s.onX c mods d f)) (ad : s.Admits c { mods := mods })
    (val : asInt u 64 (f (s.hart s.cur)) = r) : WritesInt i s c mods d u r := ⟨_, val, writesX_of_onX e ad⟩

theorem writesBits_of_onX {bit : Nat → Bool} (e : exec i s = .next (s.onX c mods d f)) (ad : s.Admits c { mods := mods })
    (val : ∀ n < 64, (f (s.hart s.cur)).getLsbD n = bit n) : WritesBits i s c mods d bit := ⟨_, val, writesX_of_onX e ad⟩

end Sys2Proof.Machine
end

section
/-! SUPPORT. Integers of w bits: reading a register at width w, and bringing an exact result to w bits (04 R108, 02 R48, R49). -/

namespace Sys2Proof

theorem Ctl.w_pos (c : Ctl) : 0 < c.w := by
  unfold Ctl.w
  split <;> decide

theorem Ctl.w_le (c : Ctl) : c.w ≤ 64 := by
  unfold Ctl.w
  split <;> decide

end Sys2Proof

namespace Sys2Proof.Machine

theorem two_pow_pos (n : Nat) : (0 : Int) < 2 ^ n := Int.pow_pos (by decide)

theorem two_pow_pred {w : Nat} (hw : 0 < w) : (2 : Int) ^ w = 2 * 2 ^ (w - 1) := by
  rw [Int.mul_comm, ← Int.pow_succ, show (w - 1).succ = w by omega]

theorem asInt_unsigned (w : Nat) (v : W64) : asInt true w v = ((v.setWidth w).toNat : Int) := by
  rw [BitVec.toNat_setWidth]
  rfl

theorem asInt_signed (w : Nat) (v : W64) : asInt false w v = (v.setWidth w).toInt := by
  rw [BitVec.toInt_setWidth]
  rfl

theorem asInt_signed_64 (v : W64) : asInt false 64 v = v.toInt := by
  rw [asInt_signed, BitVec.setWidth_eq]

theorem readInt_eq_asInt (w : Nat) (u : Bool) (v : W64) : readInt w u v = asInt u w v := by
  cases u
  · exact (asInt_signed w v).symm
  · exact (asInt_unsigned w v).symm

/-- An extended w-bit result is the number it was at w bits. -/
theorem asInt_extendTo64 {w : Nat} (h : w ≤ 64) (u : Bool) (r : BitVec w) :
    asInt u 64 (extendTo64 w u r) = if u then (r.toNat : Int) else r.toInt := by
  cases u
  · exact (asInt_signed_64 _).trans (BitVec.toInt_signExtend_of_le h)
  · have lt : r.toNat < 2 ^ 64 := Nat.lt_of_lt_of_le r.isLt (Nat.pow_le_pow_right (by decide) h)
    rw [asInt_unsigned, BitVec.setWidth_eq, extendTo64, if_pos rfl, if_pos rfl, BitVec.toNat_setWidth, Nat.mod_eq_of_lt lt]

theorem asInt_range {w : Nat} (hw : 0 < w) (u : Bool) (v : W64) :
    rangeLo w u ≤ asInt u w v ∧ asInt u w v ≤ rangeHi w u := by
  have p := two_pow_pred hw
  cases u
  · have lo := BitVec.le_two_mul_toInt (x := v.setWidth w)
    have hi := BitVec.two_mul_toInt_lt (x := v.setWidth w)
    simp only [asInt_signed, rangeLo, rangeHi, Bool.false_eq_true, if_false]
    omega
  · have h : ((v.setWidth w).toNat : Int) < 2 ^ w := by exact_mod_cast (v.setWidth w).isLt
    simp only [asInt_unsigned, rangeLo, rangeHi, if_true]
    omega

/-- A value in the range of w bits stays as it is when it is brought to w bits. -/
theorem fitted_of_range {w : Nat} (hw : 0 < w) {u : Bool} {r : Int} (lo : rangeLo w u ≤ r) (hi : r ≤ rangeHi w u) (sat : Bool) :
    fitted u sat w r = r := by
  have p := two_pow_pred hw
  have pos := two_pow_pos (w - 1)
  cases u <;> simp only [rangeLo, rangeHi, Bool.false_eq_true, if_false, if_true] at lo hi
  · cases sat
    · refine Int.bmod_eq_of_le_mul_two ?_ ?_ <;> push_cast <;> omega
    · simp only [fitted, Bool.false_eq_true, if_false, if_true]
      omega
  · cases sat
    · exact Int.emod_eq_of_lt lo (by omega)
    · simp only [fitted, if_true]
      omega

theorem asInt_extendTo64_ofInt {w : Nat} (h : w ≤ 64) (u : Bool) (r : Int) :
    asInt u 64 (extendTo64 w u (BitVec.ofInt w r)) = fitted u false w r := by
  rw [asInt_extendTo64 h]
  cases u
  · exact BitVec.toInt_ofInt r
  · have nn : 0 ≤ r % 2 ^ w := Int.emod_nonneg r (Int.ne_of_gt (two_pow_pos w))
    have pow : ((2 ^ w : Nat) : Int) = 2 ^ w := Int.natCast_pow 2 w
    rw [if_pos rfl, BitVec.toNat_ofInt, pow, Int.toNat_of_nonneg nn]
    rfl

theorem rangeLo_le_rangeHi (w : Nat) (u : Bool) : rangeLo w u ≤ rangeHi w u := by
  have p := two_pow_pos (w - 1)
  have q := two_pow_pos w
  cases u <;> simp only [rangeLo, rangeHi, Bool.false_eq_true, if_false, if_true] <;> omega

theorem clampInt_eq_max_min {lo hi : Int} (h : lo ≤ hi) (r : Int) : clampInt lo hi r = max lo (min hi r) := by
  unfold clampInt
  split
  · omega
  · split <;> omega

theorem clampInt_range {lo hi : Int} (h : lo ≤ hi) (r : Int) : lo ≤ clampInt lo hi r ∧ clampInt lo hi r ≤ hi := by
  rw [clampInt_eq_max_min h]
  omega

theorem clampInt_eq_fitted (w : Nat) (u : Bool) (r : Int) :
    clampInt (rangeLo w u) (rangeHi w u) r = fitted u true w r := by
  rw [clampInt_eq_max_min (rangeLo_le_rangeHi w u)]
  cases u <;> rfl

/-- What an ALU operation writes is its exact result, brought to w bits (04 R110). -/
theorem asInt_aluInt {w : Nat} (hw : 0 < w) (h : w ≤ 64) (u sat : Bool) (f : Int → Int → Int) (a b : W64) :
    asInt u 64 (aluInt w u sat f a b) = fitted u sat w (f (asInt u w a) (asInt u w b)) := by
  unfold aluInt fitInt
  rw [asInt_extendTo64_ofInt h, readInt_eq_asInt, readInt_eq_asInt]
  cases sat
  · rfl
  · obtain ⟨lo, hi⟩ := clampInt_range (rangeLo_le_rangeHi w u) (f (asInt u w a) (asInt u w b))
    rw [if_pos rfl, fitted_of_range hw lo hi, clampInt_eq_fitted]

/-- An ALU operation whose exact result is in range writes it as it is. -/
theorem asInt_aluInt_of_range {w : Nat} (hw : 0 < w) (h : w ≤ 64) {u : Bool} (sat : Bool) {f : Int → Int → Int} {a b : W64}
    (lo : rangeLo w u ≤ f (asInt u w a) (asInt u w b)) (hi : f (asInt u w a) (asInt u w b) ≤ rangeHi w u) :
    asInt u 64 (aluInt w u sat f a b) = f (asInt u w a) (asInt u w b) := by
  rw [asInt_aluInt hw h, fitted_of_range hw lo hi]

end Sys2Proof.Machine
end

section
/-! SUPPORT. Which exact results are in range (04 R110, R111). -/

namespace Sys2Proof.Machine

/-- The high half of a product of two w-bit numbers is a w-bit number. -/
theorem mulHigh_range {w : Nat} (hw : 0 < w) {u : Bool} {x y : Int} (hx : rangeLo w u ≤ x ∧ x ≤ rangeHi w u)
    (hy : rangeLo w u ≤ y ∧ y ≤ rangeHi w u) : rangeLo w u ≤ x * y / 2 ^ w ∧ x * y / 2 ^ w ≤ rangeHi w u := by
  have p := two_pow_pred hw
  have pos := two_pow_pos (w - 1)
  have pos' := two_pow_pos w
  rw [Int.le_ediv_iff_mul_le pos', ← Int.lt_add_one_iff (b := rangeHi w u), Int.ediv_lt_iff_lt_mul pos']
  cases u <;> simp only [rangeLo, rangeHi, Bool.false_eq_true, if_false, if_true] at hx hy ⊢
  · have size : ((x * y).natAbs : Int) ≤ 2 ^ (w - 1) * 2 ^ (w - 1) := by
      rw [Int.natAbs_mul, Int.natCast_mul]
      exact Int.mul_le_mul (by omega) (by omega) (by omega) (by omega)
    have double : (2 : Int) ^ (w - 1) * (2 * 2 ^ (w - 1)) = 2 * (2 ^ (w - 1) * 2 ^ (w - 1)) := Int.mul_left_comm _ _ _
    have square := Int.mul_pos pos pos
    rw [p, Int.neg_mul, Int.sub_add_cancel, double]
    omega
  · rw [Int.zero_mul, Int.sub_add_cancel]
    refine ⟨Int.mul_nonneg hx.1 hy.1, ?_⟩
    calc x * y ≤ 2 ^ w * y := Int.mul_le_mul_of_nonneg_right (by omega) hy.1
      _ < 2 ^ w * 2 ^ w := Int.mul_lt_mul_of_pos_left (by omega) pos'

/-- A quotient of two w-bit numbers is a w-bit number, but for the most negative one divided by −1. -/
theorem tdiv_range {w : Nat} {u : Bool} {x y : Int} (hx : rangeLo w u ≤ x ∧ x ≤ rangeHi w u)
    (hy : rangeLo w u ≤ y) (y0 : y ≠ 0) (corner : ¬(u = false ∧ x = rangeLo w false ∧ y = -1)) :
    rangeLo w u ≤ x.tdiv y ∧ x.tdiv y ≤ rangeHi w u := by
  cases u
  · have pos := two_pow_pos (w - 1)
    simp only [rangeLo, rangeHi, Bool.false_eq_true, if_false] at hx ⊢
    by_cases y1 : y = 1
    · rw [y1, Int.tdiv_one]
      exact hx
    by_cases ym : y = -1
    · have low : x ≠ -(2 ^ (w - 1)) := fun e => corner ⟨rfl, e, ym⟩
      rw [ym, Int.tdiv_neg, Int.tdiv_one]
      omega
    · have half : (x.tdiv y).natAbs ≤ x.natAbs / 2 := by
        rw [Int.natAbs_tdiv]
        exact Nat.div_le_div_left (by omega) (by decide)
      omega
  · simp only [rangeLo, if_true] at hx hy ⊢
    exact ⟨Int.tdiv_nonneg hx.1 hy, Int.le_trans (Int.tdiv_le_self y hx.1) hx.2⟩

/-- A remainder by a w-bit number is a w-bit number. -/
theorem tmod_range {w : Nat} {u : Bool} {x y : Int} (hx : rangeLo w u ≤ x ∧ x ≤ rangeHi w u)
    (hy : rangeLo w u ≤ y ∧ y ≤ rangeHi w u) (y0 : y ≠ 0) : rangeLo w u ≤ x.tmod y ∧ x.tmod y ≤ rangeHi w u := by
  have lt : (x.tmod y).natAbs < y.natAbs := by
    rw [Int.natAbs_tmod]
    exact Nat.mod_lt _ (Int.natAbs_pos.2 y0)
  cases u
  · simp only [rangeLo, rangeHi, Bool.false_eq_true, if_false] at hy ⊢
    omega
  · simp only [rangeLo, if_true] at hx hy ⊢
    have nn := Int.tmod_nonneg y hx.1
    omega

theorem divInt_zero (w : Nat) (u : Bool) (a : Int) : divInt w u a 0 = -1 := if_pos rfl

theorem remInt_zero (w : Nat) (u : Bool) (a : Int) : remInt w u a 0 = a := if_pos rfl

/-- R111's second corner, as the model tests for it. -/
theorem isCorner_iff {w : Nat} {u : Bool} {a b : Int} :
    (!u && decide (a = rangeLo w false) && decide (b = -1)) = true ↔ u = false ∧ a = rangeLo w false ∧ b = -1 := by
  simp only [Bool.and_eq_true, Bool.not_eq_true', decide_eq_true_eq, and_assoc]

theorem divInt_corner (w : Nat) : divInt w false (rangeLo w false) (-1) = rangeLo w false := by
  rw [divInt, if_neg (by decide), if_pos (isCorner_iff.2 ⟨rfl, rfl, rfl⟩)]

theorem remInt_corner (w : Nat) : remInt w false (rangeLo w false) (-1) = 0 := by
  rw [remInt, if_neg (by decide), if_pos (isCorner_iff.2 ⟨rfl, rfl, rfl⟩)]

theorem divInt_tdiv {w : Nat} {u : Bool} {a b : Int} (b0 : b ≠ 0) (corner : ¬(u = false ∧ a = rangeLo w false ∧ b = -1)) :
    divInt w u a b = a.tdiv b := by
  rw [divInt, if_neg b0, if_neg (mt isCorner_iff.1 corner)]

theorem remInt_tmod {w : Nat} {u : Bool} {a b : Int} (b0 : b ≠ 0) (corner : ¬(u = false ∧ a = rangeLo w false ∧ b = -1)) :
    remInt w u a b = a.tmod b := by
  rw [remInt, if_neg b0, if_neg (mt isCorner_iff.1 corner), Int.tmod_def]

end Sys2Proof.Machine
end

section
/-! OBLIGATION. Integer arithmetic (04 R109 to R111). -/

namespace Sys2Proof.Machine

/-- −1 at w bits: all ones when read unsigned (04 R111). -/
theorem fitted_neg_one {w : Nat} (hw : 0 < w) (u : Bool) : fitted u false w (-1) = if u then 2 ^ w - 1 else -1 := by
  have p := two_pow_pos (w - 1)
  cases u
  · exact fitted_of_range hw (show -(2 ^ (w - 1)) ≤ (-1 : Int) by omega) (show (-1 : Int) ≤ 2 ^ (w - 1) - 1 by omega) false
  · have q := two_pow_pred hw
    show (-1 : Int) % 2 ^ w = 2 ^ w - 1
    rw [← Int.add_emod_right, Int.emod_eq_of_lt] <;> omega

section
variable {w : Nat} (hw : 0 < w) (h : w ≤ 64) {u : Bool} {a b : W64}
include hw h

theorem asInt_div_zero (b0 : asInt u w b = 0) :
    asInt u 64 (aluInt w u false (divInt w u) a b) = if u then 2 ^ w - 1 else -1 := by
  rw [asInt_aluInt hw h, b0, divInt_zero, fitted_neg_one hw]

theorem asInt_rem_zero (b0 : asInt u w b = 0) : asInt u 64 (aluInt w u false (remInt w u) a b) = asInt u w a := by
  obtain ⟨lo, hi⟩ := asInt_range hw u a
  rw [asInt_aluInt hw h, b0, remInt_zero, fitted_of_range hw lo hi]

theorem asInt_div_corner (hu : u = false) (ha : asInt u w a = rangeLo w false) (hb : asInt u w b = -1) :
    asInt u 64 (aluInt w u false (divInt w u) a b) = asInt u w a := by
  subst hu
  rw [asInt_aluInt hw h, ha, hb, divInt_corner, fitted_of_range hw (Int.le_refl _) (rangeLo_le_rangeHi w false)]

theorem asInt_rem_corner (hu : u = false) (ha : asInt u w a = rangeLo w false) (hb : asInt u w b = -1) :
    asInt u 64 (aluInt w u false (remInt w u) a b) = 0 := by
  subst hu
  rw [asInt_aluInt hw h, ha, hb, remInt_corner]
  exact Int.zero_bmod

theorem asInt_div_tdiv (b0 : asInt u w b ≠ 0) (corner : ¬(u = false ∧ asInt u w a = rangeLo w false ∧ asInt u w b = -1)) :
    asInt u 64 (aluInt w u false (divInt w u) a b) = (asInt u w a).tdiv (asInt u w b) := by
  obtain ⟨lo, hi⟩ := tdiv_range (asInt_range hw u a) (asInt_range hw u b).1 b0 corner
  rw [asInt_aluInt hw h, divInt_tdiv b0 corner, fitted_of_range hw lo hi]

theorem asInt_rem_tmod (b0 : asInt u w b ≠ 0) (corner : ¬(u = false ∧ asInt u w a = rangeLo w false ∧ asInt u w b = -1)) :
    asInt u 64 (aluInt w u false (remInt w u) a b) = (asInt u w a).tmod (asInt u w b) := by
  obtain ⟨lo, hi⟩ := tmod_range (asInt_range hw u a) (asInt_range hw u b) b0
  rw [asInt_aluInt hw h, remInt_tmod b0 corner, fitted_of_range hw lo hi]

end

theorem asInt_mulh (u : Bool) (a b : W64) :
    asInt u 64 (aluInt 64 u false (fun x y => x * y / 2 ^ 64) a b) = asInt u 64 a * asInt u 64 b / 2 ^ 64 :=
  have ⟨lo, hi⟩ := mulHigh_range (by decide) (asInt_range (by decide) u a) (asInt_range (by decide) u b)
  asInt_aluInt_of_range (by decide) (Nat.le_refl 64) false lo hi

theorem asInt_min (u : Bool) (a b : W64) :
    asInt u 64 (aluInt 64 u false (fun x y => if x ≤ y then x else y) a b) = min (asInt u 64 a) (asInt u 64 b) :=
  have ⟨loA, hiA⟩ := asInt_range (by decide) u a
  have ⟨loB, _⟩ := asInt_range (by decide) u b
  asInt_aluInt_of_range (f := fun x y => min x y) (by decide) (Nat.le_refl 64) false (Int.le_min.2 ⟨loA, loB⟩)
    (Int.le_trans (Int.min_le_left _ _) hiA)

theorem asInt_max (u : Bool) (a b : W64) :
    asInt u 64 (aluInt 64 u false (fun x y => if x ≤ y then y else x) a b) = max (asInt u 64 a) (asInt u 64 b) :=
  have ⟨loA, hiA⟩ := asInt_range (by decide) u a
  have ⟨_, hiB⟩ := asInt_range (by decide) u b
  asInt_aluInt_of_range (f := fun x y => max x y) (by decide) (Nat.le_refl 64) false (Int.le_trans loA (Int.le_max_left _ _))
    (Int.max_le.2 ⟨hiA, hiB⟩)

/-- Settles O1: each instruction writes `aluInt` of its operation, which is the exact result brought to the width; the high product,
the extrema, and quotients and remainders off R111's two corners are in range already. -/
theorem integerArithmetic : Obligations.IntegerArithmetic := by
  refine ⟨fun s c d a b => ⟨fun ad => ?_, fun ad => ?_, fun ad => ?_⟩,
    fun s c d a b ad => ⟨fun y0 => ?_, fun hu hx hy => ?_, fun y0 hc => ?_⟩⟩
  · exact ⟨writesInt_of_onX rfl ad (asInt_aluInt c.w_pos c.w_le _ _ _ _ _),
      writesInt_of_onX rfl ad (asInt_aluInt c.w_pos c.w_le _ _ _ _ _),
      writesInt_of_onX rfl ad (asInt_aluInt c.w_pos c.w_le _ _ _ _ _)⟩
  · have abs (x : Int) : (if x < 0 then -x else x) = (x.natAbs : Int) := by split <;> omega
    exact ⟨writesInt_of_onX rfl ad ((asInt_aluInt c.w_pos c.w_le _ _ _ _ _).trans (congrArg _ (abs _))),
      writesInt_of_onX rfl ad (asInt_aluInt c.w_pos c.w_le _ _ _ _ _)⟩
  · exact ⟨writesInt_of_onX rfl ad (asInt_mulh _ _ _), writesInt_of_onX rfl ad (asInt_min _ _ _),
      writesInt_of_onX rfl ad (asInt_max _ _ _)⟩
  · exact ⟨writesInt_of_onX rfl ad (asInt_div_zero c.w_pos c.w_le y0), writesInt_of_onX rfl ad (asInt_rem_zero c.w_pos c.w_le y0)⟩
  · exact ⟨writesInt_of_onX rfl ad (asInt_div_corner c.w_pos c.w_le hu hx hy),
      writesInt_of_onX rfl ad (asInt_rem_corner c.w_pos c.w_le hu hx hy)⟩
  · exact ⟨writesInt_of_onX rfl ad (asInt_div_tdiv c.w_pos c.w_le y0 hc),
      writesInt_of_onX rfl ad ((asInt_rem_tmod c.w_pos c.w_le y0 hc).trans (Int.tmod_def _ _))⟩

end Sys2Proof.Machine
end

section
/-! OBLIGATION. Logic and shifts (04 R112). -/

namespace Sys2Proof.Machine

section
variable {w : Nat} (h : w ≤ 64) (a b : W64)
include h

/-- What a shift writes is its w-bit result, read signed. -/
theorem asInt_shiftOp (f : BitVec w → Nat → BitVec w) :
    asInt false 64 (shiftOp w f a b) = (f (a.setWidth w) (b.toNat % w)).toInt :=
  asInt_extendTo64 h false _

theorem asInt_shl : asInt false 64 (shiftOp w (fun v n => v <<< n) a b) = Int.bmod (asInt true w a * 2 ^ (b.toNat % w)) (2 ^ w) := by
  rw [asInt_shiftOp h, BitVec.toInt_shiftLeft, asInt_unsigned, Nat.shiftLeft_eq]
  push_cast
  rfl

theorem asInt_shr : asInt false 64 (shiftOp w (fun v n => v >>> n) a b) = Int.bmod (asInt true w a / 2 ^ (b.toNat % w)) (2 ^ w) := by
  rw [asInt_shiftOp h, BitVec.toInt_eq_toNat_bmod, BitVec.toNat_ushiftRight, asInt_unsigned, Nat.shiftRight_eq_div_pow]
  push_cast
  rfl

theorem asInt_sha : asInt false 64 (shiftOp w (fun v n => v.sshiftRight n) a b) = asInt false w a / 2 ^ (b.toNat % w) := by
  rw [asInt_shiftOp h, BitVec.toInt_sshiftRight, asInt_signed, Int.shiftRight_eq_div_pow]
  push_cast
  rfl

end

/-- A rotation puts the bits that leave at the top in the places left free at the bottom, so the two parts add. -/
theorem toNat_rotateLeft_eq_add {w n : Nat} (x : BitVec w) (hn : n < w) :
    (x.rotateLeft n).toNat = x.toNat * 2 ^ n % 2 ^ w + x.toNat / 2 ^ (w - n) := by
  have split : 2 ^ w = 2 ^ n * 2 ^ (w - n) := by rw [← Nat.pow_add, Nat.add_sub_cancel' (Nat.le_of_lt hn)]
  have low : x.toNat / 2 ^ (w - n) < 2 ^ n := Nat.div_lt_of_lt_mul (by rw [Nat.mul_comm, ← split]; exact x.isLt)
  rw [BitVec.toNat_rotateLeft, Nat.mod_eq_of_lt hn, Nat.shiftLeft_eq, Nat.shiftRight_eq_div_pow, Nat.mul_comm x.toNat, split,
    Nat.mul_mod_mul_left, Nat.two_pow_add_eq_or_of_lt low]

theorem asInt_rot {w : Nat} (hw : 0 < w) (h : w ≤ 64) (a b : W64) :
    let n := b.toNat % w
    asInt false 64 (shiftOp w (fun v n => v.rotateLeft n) a b)
      = Int.bmod (asInt true w a * 2 ^ n + asInt true w a / 2 ^ (w - n)) (2 ^ w) := by
  intro n
  rw [asInt_shiftOp h, BitVec.toInt_eq_toNat_bmod, toNat_rotateLeft_eq_add _ (Nat.mod_lt _ hw), asInt_unsigned]
  push_cast
  exact Int.emod_add_bmod ..


/-- Settles O2: the logical operations are bit by bit by the laws of `BitVec`; each shift is its number at width W. -/
theorem logicAndShifts : Obligations.LogicAndShifts := by
  refine ⟨fun s c d a b ad => ⟨?_, ?_, ?_, ?_, ?_⟩, fun s c d a b ad => ⟨?_, ?_, ?_, ?_⟩⟩
  · exact writesBits_of_onX rfl ad fun n _ => BitVec.getLsbD_and
  · exact writesBits_of_onX rfl ad fun n _ => BitVec.getLsbD_or
  · exact writesBits_of_onX rfl ad fun n _ => BitVec.getLsbD_xor
  · exact writesBits_of_onX rfl ad fun n hn => by simp [hn]
  · exact writesBits_of_onX rfl ad fun n hn => by simp [hn]
  · exact writesInt_of_onX rfl ad (asInt_shl c.w_le _ _)
  · exact writesInt_of_onX rfl ad (asInt_shr c.w_le _ _)
  · exact writesInt_of_onX rfl ad (asInt_sha c.w_le _ _)
  · exact writesInt_of_onX rfl ad (asInt_rot c.w_pos c.w_le _ _)

end Sys2Proof.Machine
end

section
/-! SUPPORT. Bits of the model's counts, reversals and fields, in terms of the bits they were taken from (04 R113 to R115). -/

namespace Sys2Proof.Machine

/-! ### Counts -/

theorem bitLen_le {w n : Nat} (h : n < 2 ^ w) : bitLen n ≤ w := by
  unfold bitLen
  split
  next => exact Nat.zero_le w
  next n0 => exact (Nat.log2_lt n0).2 h

theorem testBit_of_bitLen_le {n i : Nat} (h : bitLen n ≤ i) : n.testBit i = false := by
  unfold bitLen at h
  split at h
  next n0 => rw [n0, Nat.zero_testBit]
  next n0 => exact Nat.testBit_lt_two_pow ((Nat.log2_lt n0).1 h)

theorem testBit_bitLen_sub_one {n : Nat} (n0 : n ≠ 0) : n.testBit (bitLen n - 1) = true := by
  rw [bitLen, if_neg n0]
  exact Nat.testBit_log2 n0

theorem bitLen_zero : bitLen 0 = 0 := rfl

/-- Above its bit length a value's w bits are zero, and the bit below is one. -/
theorem leadingZeros_bits (w : Nat) (x : W64) :
    let n := w - bitLen (x.toNat % 2 ^ w)
    (∀ i < n, x.getLsbD (w - 1 - i) = false) ∧ (n < w → x.getLsbD (w - 1 - n) = true) := by
  intro n
  have le := bitLen_le (Nat.mod_lt x.toNat (Nat.two_pow_pos w))
  have bit (i : Nat) (hi : i < w) : x.getLsbD i = (x.toNat % 2 ^ w).testBit i := by
    simp [Nat.testBit_mod_two_pow, hi, BitVec.getLsbD]
  refine ⟨fun i hi => ?_, fun hn => ?_⟩
  · rw [bit _ (by omega)]
    exact testBit_of_bitLen_le (by omega)
  · have ne : x.toNat % 2 ^ w ≠ 0 := fun e => by
      simp only [n, e, bitLen_zero] at hn
      omega
    rw [bit _ (by omega), show w - 1 - n = bitLen (x.toNat % 2 ^ w) - 1 by omega]
    exact testBit_bitLen_sub_one ne

theorem trailZeros_le (w n : Nat) : trailZeros w n ≤ w := by
  induction w generalizing n with
  | zero => exact Nat.le_refl 0
  | succ w ih =>
    unfold trailZeros
    split
    · exact Nat.zero_le _
    · exact Nat.succ_le_succ (ih _)

theorem testBit_of_lt_trailZeros {w n i : Nat} (h : i < trailZeros w n) : n.testBit i = false := by
  induction w generalizing n i with
  | zero => exact absurd h (Nat.not_lt_zero i)
  | succ w ih =>
    unfold trailZeros at h
    split at h
    next => exact absurd h (Nat.not_lt_zero i)
    next even =>
      cases i with
      | zero => simpa [Nat.testBit_zero] using even
      | succ i => rw [Nat.testBit_succ, ih (Nat.lt_of_succ_lt_succ h)]

theorem testBit_trailZeros {w n : Nat} (h : trailZeros w n < w) : n.testBit (trailZeros w n) = true := by
  induction w generalizing n with
  | zero => exact absurd h (Nat.not_lt_zero _)
  | succ w ih =>
    unfold trailZeros at h ⊢
    split at h
    next odd => simp [odd]
    next even =>
      rw [if_neg even, Nat.testBit_succ]
      exact ih (Nat.lt_of_succ_lt_succ h)

theorem popCount_eq_length_filter (w n : Nat) : popCount w n = ((List.range w).filter n.testBit).length := by
  induction w generalizing n with
  | zero => rfl
  | succ w ih =>
    have tail : (n.testBit ∘ Nat.succ) = (n / 2).testBit := funext fun i => Nat.testBit_succ n i
    rw [List.range_succ_eq_map, List.filter_cons, List.filter_map, tail, popCount, ih, Nat.testBit_zero]
    rcases Nat.mod_two_eq_zero_or_one n with e | e <;> simp [e, Nat.add_comm]

/-! ### Reversals -/

theorem reverseBits_lt (w n : Nat) : reverseBits w n < 2 ^ w := by
  induction w generalizing n with
  | zero => exact Nat.one_pos
  | succ w ih =>
    have low := ih (n / 2)
    rw [reverseBits, Nat.pow_succ]
    rcases Nat.mod_two_eq_zero_or_one n with e | e <;> rw [e] <;> omega

theorem testBit_reverseBits {w i : Nat} (n : Nat) (h : i < w) : (reverseBits w n).testBit i = n.testBit (w - 1 - i) := by
  induction w generalizing n i with
  | zero => exact absurd h (Nat.not_lt_zero i)
  | succ w ih =>
    rw [reverseBits, Nat.mul_comm, Nat.testBit_two_pow_mul_add _ (reverseBits_lt w _)]
    split
    next lt => rw [ih _ lt, ← Nat.testBit_succ, show (w - 1 - i).succ = w + 1 - 1 - i by omega]
    next ge =>
      obtain rfl : i = w := by omega
      simp [Nat.testBit_zero]

theorem length_toBytes (n v : Nat) : (toBytes n v).length = n := by
  induction n generalizing v with
  | zero => rfl
  | succ n ih => rw [toBytes, List.length_cons, ih]

/-- Byte k of a number holds its bits from 8 k on. -/
theorem getD_toBytes {n k : Nat} (v : Nat) (h : k < n) : (toBytes n v).getD k 0 = BitVec.ofNat 8 (v / 2 ^ (8 * k)) := by
  induction n generalizing v k with
  | zero => exact absurd h (Nat.not_lt_zero k)
  | succ n ih =>
    cases k with
    | zero => simp [toBytes]
    | succ k =>
      rw [toBytes, List.getD_cons_succ, ih _ (Nat.lt_of_succ_lt_succ h), Nat.div_div_eq_div_mul, Nat.mul_succ, Nat.pow_add,
        Nat.mul_comm]

/-- Bit i of a number made of bytes is bit i mod 8 of byte i / 8. -/
theorem testBit_leNat (bs : List Byte) (i : Nat) : (leNat bs).testBit i = (bs.getD (i / 8) 0).getLsbD (i % 8) := by
  induction bs generalizing i with
  | nil => simp [leNat]
  | cons b r ih =>
    rw [leNat, Nat.add_comm, show 256 = 2 ^ 8 from rfl, Nat.testBit_two_pow_mul_add _ b.isLt]
    split
    next lt => rw [Nat.div_eq_of_lt lt, Nat.mod_eq_of_lt lt]; rfl
    next ge =>
      rw [ih, show i / 8 = (i - 8) / 8 + 1 by omega, show i % 8 = (i - 8) % 8 by omega, List.getD_cons_succ]

theorem getD_reverse {α : Type} (l : List α) (x : α) {k : Nat} (h : k < l.length) :
    l.reverse.getD k x = l.getD (l.length - 1 - k) x := by
  rw [List.getD_eq_getElem?_getD, List.getD_eq_getElem?_getD, List.getElem?_reverse h]

/-- The bytes of a word in reverse order. -/
theorem getLsbD_reverse_bytes (x : W64) {n : Nat} (h : n < 64) :
    (le64 (bytes64 x).reverse).getLsbD n = x.getLsbD (8 * (7 - n / 8) + n % 8) := by
  have len : (bytes64 x).length = 8 := length_toBytes 8 _
  rw [le64, BitVec.getLsbD_ofNat, testBit_leNat, getD_reverse _ _ (by omega), len, bytes64, getD_toBytes _ (by omega),
    BitVec.getLsbD_ofNat, ← Nat.shiftRight_eq_div_pow, Nat.testBit_shiftRight]
  simp [h, Nat.mod_lt, BitVec.getLsbD]

/-! ### Fields -/

theorem fieldPos_eq (b : BitVec 12) : fieldPos b = b.toNat % 64 := by
  simp [fieldPos]

theorem fieldLen_eq (b : BitVec 12) : fieldLen b = b.toNat / 64 + 1 := by
  have := b.isLt
  rw [fieldLen, BitVec.extractLsb'_toNat, Nat.shiftRight_eq_div_pow]
  omega

/-- A w-bit value's extension to 64 bits from its top bit, as a number. -/
theorem signExtend_eq_ofInt {w : Nat} (hw : 0 < w) (v : BitVec w) :
    v.signExtend 64 = if v.toNat < 2 ^ (w - 1) then BitVec.ofNat 64 v.toNat else BitVec.ofInt 64 ((v.toNat : Int) - 2 ^ w) := by
  have top : 2 * v.toNat < 2 ^ w ↔ v.toNat < 2 ^ (w - 1) := by
    rw [← Nat.two_pow_pred_mul_two hw]
    omega
  rw [BitVec.signExtend, BitVec.toInt_eq_toNat_cond]
  simp only [top]
  split
  · exact BitVec.ofInt_natCast ..
  · rw [Int.natCast_pow]
    rfl

/-- The extracted field is the bits of A from its place on, cut to its length and extended. -/
theorem extField_eq_extendTo64 (u : Bool) (a : W64) (b : BitVec 12) :
    extField u a b = extendTo64 (fieldLen b) u ((a >>> fieldPos b).setWidth (fieldLen b)) := by
  have field : a.toNat / 2 ^ fieldPos b % 2 ^ fieldLen b = ((a >>> fieldPos b).setWidth (fieldLen b)).toNat := by
    rw [BitVec.toNat_setWidth, BitVec.toNat_ushiftRight, Nat.shiftRight_eq_div_pow]
  simp only [extField, field]
  cases u
  · simp only [Bool.false_or, decide_eq_true_eq]
    exact (signExtend_eq_ofInt (Nat.succ_pos _) _).symm
  · exact BitVec.ofNat_toNat ..

theorem getLsbD_extendTo64 {w n : Nat} (u : Bool) (r : BitVec w) (h : n < 64) :
    (extendTo64 w u r).getLsbD n = if n < w then r.getLsbD n else !u && r.getLsbD (w - 1) := by
  cases u
  · rw [show extendTo64 w false r = r.signExtend 64 from rfl, BitVec.getLsbD_signExtend, BitVec.msb_eq_getLsbD_last]
    simp [h]
  · by_cases lt : n < w
    · simp [extendTo64, h, lt]
    · simp [extendTo64, h, lt, BitVec.getLsbD_of_ge r n (by omega)]

theorem getLsbD_extField (u : Bool) (a : W64) (b : BitVec 12) {n : Nat} (h : n < 64) :
    (extField u a b).getLsbD n =
      if n < fieldLen b then a.getLsbD (fieldPos b + n) else !u && a.getLsbD (fieldPos b + fieldLen b - 1) := by
  have pos : 0 < fieldLen b := Nat.succ_pos _
  rw [extField_eq_extendTo64, getLsbD_extendTo64 u _ h]
  split
  next lt => simp [lt]
  next => simp [Nat.add_sub_assoc pos, show fieldLen b - 1 < fieldLen b by omega]

theorem getLsbD_insField (d a : W64) (b : BitVec 12) {n : Nat} (h : n < 64) :
    (insField d a b).getLsbD n =
      if fieldPos b ≤ n ∧ n < fieldPos b + fieldLen b then a.getLsbD (n - fieldPos b) else d.getLsbD n := by
  have mask : (BitVec.ofNat 64 ((2 ^ fieldLen b - 1) * 2 ^ fieldPos b)).getLsbD n
      = decide (fieldPos b ≤ n ∧ n < fieldPos b + fieldLen b) := by
    rw [BitVec.getLsbD_ofNat, Nat.testBit_mul_two_pow, Nat.testBit_two_pow_sub_one]
    rw [decide_eq_true h, Bool.true_and, ← Bool.decide_and]
    exact decide_eq_decide.2 (by omega)
  simp only [insField, BitVec.getLsbD_or, BitVec.getLsbD_and, BitVec.getLsbD_not, mask, BitVec.getLsbD_shiftLeft, h]
  by_cases inside : fieldPos b ≤ n ∧ n < fieldPos b + fieldLen b
  · simp [inside]
  · simp [inside]

theorem getLsbD_sextFrom (a : W64) (m : Nat) {n : Nat} (h : n < 64) :
    (sextFrom a m).getLsbD n = if n ≤ m then a.getLsbD n else a.getLsbD m := by
  rw [show sextFrom a m = extendTo64 (m + 1) false (a.setWidth (m + 1)) from rfl, getLsbD_extendTo64 false _ h]
  by_cases le : n ≤ m
  · simp [le, Nat.lt_succ_of_le le]
  · have ge : ¬n < m + 1 := by omega
    simp [le, ge]

theorem getLsbD_zextFrom (a : W64) (m : Nat) {n : Nat} (h : n < 64) :
    (zextFrom a m).getLsbD n = (decide (n ≤ m) && a.getLsbD n) := by
  rw [zextFrom, BitVec.getLsbD_setWidth, BitVec.getLsbD_setWidth, decide_eq_true h, Bool.true_and]
  exact congrArg (· && a.getLsbD n) (decide_eq_decide.2 Nat.lt_succ_iff)

theorem getLsbD_lihValue (old : W64) (v : BitVec 24) (n : Nat) :
    (lihValue old v).getLsbD n = if n < 40 then old.getLsbD n else v.getLsbD (n - 40) := by
  rw [lihValue, BitVec.getLsbD_append]
  split
  next lt => simp [lt]
  next => rfl

end Sys2Proof.Machine
end

section
/-! OBLIGATION. Counts, fields, comparison, selection, constants and addresses (04 R113 to R121). -/

namespace Sys2Proof.Machine

theorem condHolds_iff (k : Cond) (a b : W64) : condHolds k a b = true ↔ CondTrue k a b := by
  have slt (x y : W64) : x.slt y = decide (x.toInt < y.toInt) := rfl
  have ult (x y : W64) : x.ult y = decide (x.toNat < y.toNat) := rfl
  cases k <;> simp [condHolds, CondTrue, slt, ult]

theorem asInt_ofNat_of_le {n w : Nat} (hn : n ≤ w) (hw : w ≤ 64) : asInt true 64 (BitVec.ofNat 64 n) = n := by
  rw [asInt_unsigned, BitVec.setWidth_eq, BitVec.toNat_ofNat, Nat.mod_eq_of_lt (by omega)]

theorem toInt_ea_add (h : Hart) (m : MemOp) (v : W64) :
    (h.ea m 1 + v).toInt = Int.bmod ((h.rx m.base).toInt + m.off.toInt + v.toInt) (2 ^ 64) := by
  have off : (m.off.signExtend 64).toInt = m.off.toInt := BitVec.toInt_signExtend_of_le (by decide)
  rw [Hart.ea, BitVec.mul_one, BitVec.toInt_add, BitVec.toInt_add, off, Int.bmod_add_bmod]

theorem toInt_relTo (pc : W64) (v : Imm) : (relTo pc v).toInt = Int.bmod (pc.toInt + 4 * v.toInt) (2 ^ 64) := by
  have imm : (v.signExtend 64).toInt = v.toInt := BitVec.toInt_signExtend_of_le (by decide)
  rw [relTo, BitVec.toInt_add, BitVec.toInt_mul, imm, Int.add_bmod_bmod, Int.mul_comm]
  rfl

section
variable {s : State} {c : Ctl} (ad : s.Admits c { mods := 0x20 }) (d a : XReg)
include ad

theorem writes_clz : let x := (s.hart s.cur).rx a
    ∃ n ≤ c.w, (∀ i < n, x.getLsbD (c.w - 1 - i) = false) ∧ (n < c.w → x.getLsbD (c.w - 1 - n) = true)
      ∧ WritesInt (.clz c d a) s c 0x20 d true n :=
  have ⟨zeros, one⟩ := leadingZeros_bits c.w ((s.hart s.cur).rx a)
  ⟨_, Nat.sub_le _ _, zeros, one, writesInt_of_onX rfl ad (asInt_ofNat_of_le (Nat.sub_le _ _) c.w_le)⟩

theorem writes_ctz : let x := (s.hart s.cur).rx a
    ∃ n ≤ c.w, (∀ i < n, x.getLsbD i = false) ∧ (n < c.w → x.getLsbD n = true) ∧ WritesInt (.ctz c d a) s c 0x20 d true n :=
  ⟨_, trailZeros_le _ _, fun _ => testBit_of_lt_trailZeros, testBit_trailZeros,
    writesInt_of_onX rfl ad (asInt_ofNat_of_le (trailZeros_le _ _) c.w_le)⟩

theorem writes_popc :
    WritesInt (.popc c d a) s c 0x20 d true ((List.range c.w).filter ((s.hart s.cur).rx a).getLsbD).length := by
  have count := popCount_eq_length_filter c.w ((s.hart s.cur).rx a).toNat
  have le : popCount c.w ((s.hart s.cur).rx a).toNat ≤ c.w := by
    have := List.length_filter_le ((s.hart s.cur).rx a).toNat.testBit (List.range c.w)
    rwa [← count, List.length_range] at this
  exact writesInt_of_onX rfl ad ((asInt_ofNat_of_le le c.w_le).trans (congrArg _ count))

end

/-- Settles O3: counts and reversals by the bits of the model's recursions, fields by the bits of a cut and extended value, the rest
by one equation each. -/
theorem bitOperations : Obligations.BitOperations := by
  refine ⟨fun s c d a => ⟨fun ad => ⟨writes_clz ad d a, writes_ctz ad d a, writes_popc ad d a⟩, fun ad => ⟨?_, ?_⟩⟩,
    fun s c d a f n => ⟨fun ad => ?_, fun ad => ⟨?_, ?_, ?_⟩⟩,
    fun s c d a b ad => ⟨fun k => ⟨fun t => ?_, fun t => ?_⟩, fun d0 => ?_, fun d0 => ?_, fun v => ?_, fun v => ?_, fun m r => ?_,
      fun v => ?_⟩⟩
  · exact writesBits_of_onX rfl ad fun n hn => by
      rw [BitVec.getLsbD_ofNat, testBit_reverseBits _ hn]
      simp [hn, BitVec.getLsbD]
  · exact writesBits_of_onX rfl ad fun n hn => getLsbD_reverse_bytes _ hn
  · exact writesBits_of_onX rfl ad fun n hn => by rw [getLsbD_extField _ _ _ hn, fieldPos_eq, fieldLen_eq]
  · exact writesBits_of_onX rfl ad fun n hn => by rw [getLsbD_insField _ _ _ hn, fieldPos_eq, fieldLen_eq]
  · exact writesBits_of_onX rfl ad fun n hn => getLsbD_sextFrom _ _ hn
  · exact writesBits_of_onX rfl ad fun n hn => getLsbD_zextFrom _ _ hn
  · have w := writesX_of_onX (i := .setc c k d a b) rfl ad
    rwa [if_pos ((condHolds_iff _ _ _).2 t)] at w
  · have w := writesX_of_onX (i := .setc c k d a b) rfl ad
    rwa [if_neg (mt (condHolds_iff _ _ _).1 t)] at w
  · have w := writesX_of_onX (i := .sel c d a b) rfl ad
    rwa [if_pos d0] at w
  · have w := writesX_of_onX (i := .sel c d a b) rfl ad
    rwa [if_neg (fun n => n d0)] at w
  · exact writesInt_of_onX rfl ad ((asInt_signed_64 _).trans (BitVec.toInt_signExtend_of_le (by decide)))
  · exact writesBits_of_onX rfl ad fun n _ => getLsbD_lihValue _ _ n
  · exact ⟨_, writesX_of_onX rfl ad, toInt_ea_add _ _ _⟩
  · exact ⟨_, writesX_of_onX rfl ad, toInt_relTo _ _⟩

end Sys2Proof.Machine
end
